-- ==== Sys2Proof/Word.lean ====
section
/-! DEFINITION. The words of the machine: bytes, registers, addresses, and the plain names
(quire slots, keys) that both instructions and state use. -/

namespace Sys2Proof

/-- A byte of memory. -/
abbrev Byte := BitVec 8

/-- A 32-bit register (R43, R47). -/
abbrev Word := BitVec 32

/-- A 64-bit value: an instruction word (R242), a PC, a generic address (R13). -/
abbrev DWord := BitVec 64

/-- A quire slot: device core number 0 to 191, lane 0 to 63, slot on the lane 0 to 3 (R27, R171). -/
structure Slot where
  core : Nat
  lane : Nat
  q : Nat
  deriving DecidableEq, Repr

/-- The key a 16-byte block is held under: none, or the key of a context at one epoch (R32, R479). -/
inductive Key where
  | opened
  | ofCtx (c : Nat) (epoch : Nat)
  deriving DecidableEq, Repr

/-- The three products (R12, R478 PRODUCT). -/
inductive Product where
  | die
  | f1m
  | f1w
  deriving DecidableEq, Repr

/-- Where a lease copy stands: a core's constant cache (route 1), a core's sampler cache (route 2), a
gathering's CACHE banks (route 3) (R16, R67). -/
inductive LeaseAt where
  | constant (core : Nat)
  | sampler (core : Nat)
  | tile (gath : Nat)
  deriving DecidableEq, Repr

/-- The four routes to generic memory (R16). -/
inductive Route where
  | generic
  | constant
  | sampler
  | tile
  deriving DecidableEq, Repr

end Sys2Proof
end

