-- ==== Sys2Proof/Machine/Bits.lean ====
section
/-! DEFINITION. Bit fields, sign extension and byte order: the helpers that the decoder, the operations and the
meanings share. Values are natural numbers; registers hold their low 32 bits. -/

namespace Sys2Proof

/-- Bits hi:lo of x. -/
def bitsOf (x hi lo : Nat) : Nat := x / 2 ^ lo % 2 ^ (hi + 1 - lo)

/-- The low `w` bits of x. -/
def lowBits (w x : Nat) : Nat := x % 2 ^ w

/-- SInt: the low `w` bits of x read as two's complement (R278). -/
def sInt (w x : Nat) : Int :=
  if x % 2 ^ w < 2 ^ (w - 1) then (x % 2 ^ w : Nat) else (x % 2 ^ w : Nat) - (2 ^ w : Nat)

/-- The `w`-bit pattern of an exact integer: x modulo 2^w. -/
def toBits (w : Nat) (x : Int) : Nat := (x % (2 ^ w : Nat)).toNat

/-- The low `n` bits of x, sign-extended to `w` bits. -/
def signExt (n w x : Nat) : Nat := toBits w (sInt n x)

/-- Sat: clamp x to lo..hi (R278). -/
def satInt (x lo hi : Int) : Int := if x < lo then lo else if hi < x then hi else x

/-- The little-endian bytes of x, `n` of them. -/
def bytesOf : Nat → Nat → List Byte
  | 0, _ => []
  | n + 1, x => BitVec.ofNat 8 x :: bytesOf n (x / 256)

/-- The value of little-endian bytes. -/
def bytesVal : List Byte → Nat
  | [] => 0
  | b :: bs => b.toNat + 256 * bytesVal bs

/-- The registers that hold x: `n` of them, low first (R275). -/
def wordsOf : Nat → Nat → List Word
  | 0, _ => []
  | n + 1, x => BitVec.ofNat 32 x :: wordsOf n (x / 4294967296)

/-- The value of a block of registers, the named one lowest (R275). -/
def wordsVal : List Word → Nat
  | [] => 0
  | w :: ws => w.toNat + 4294967296 * wordsVal ws

/-- A truth value as a bit. -/
def bit (b : Bool) : Nat := if b then 1 else 0

/-- x rounded up to a multiple of m. -/
def roundUp (x m : Nat) : Nat := (x + m - 1) / m * m

/-- Replace the element at i of a list; a list too short is left alone. -/
def setAt {α : Type} (l : List α) (i : Nat) (x : α) : List α := l.set i x

/-- The ranks of the set bits of x below n, ascending. -/
def bitList (x n : Nat) : List Nat := (List.range n).filter fun k => x.testBit k

/-- The number whose set bits are the listed ones. -/
def bitMask (l : List Nat) : Nat := l.foldl (fun m k => m ||| 2 ^ k) 0

end Sys2Proof
end

