-- ==== Sys2Proof/Machine/Fp.lean ====
section
/-! DEFINITION. Floating-point formats and arithmetic (R217 to R232): values are exact, rounding happens once. -/

namespace Sys2Proof.Machine

/-- A binary format (R217): fraction bits, exponent bits, bias; E4M3 has no infinity (R219). -/
structure Fmt where
  mw : Nat
  ew : Nat
  bias : Nat
  noInf : Bool
  deriving DecidableEq, Repr

def fp64 : Fmt := { mw := 52, ew := 11, bias := 1023, noInf := false }
def fp32 : Fmt := { mw := 23, ew := 8, bias := 127, noInf := false }
def fp16 : Fmt := { mw := 10, ew := 5, bias := 15, noInf := false }
def bf16 : Fmt := { mw := 7, ew := 8, bias := 127, noInf := false }
def e5m2 : Fmt := { mw := 2, ew := 5, bias := 15, noInf := false }
def e4m3 : Fmt := { mw := 3, ew := 4, bias := 7, noInf := true }

/-- Width in bits. -/
def Fmt.width (f : Fmt) : Nat := f.mw + f.ew + 1
/-- The sign bit. -/
def Fmt.signBit (f : Fmt) : Nat := 2 ^ (f.mw + f.ew)
/-- The infinity of sign 0. -/
def Fmt.inf (f : Fmt) : Nat := (2 ^ f.ew - 1) * 2 ^ f.mw
/-- The largest finite value of sign 0 (R218). -/
def Fmt.maxFin (f : Fmt) : Nat := if f.noInf then f.signBit - 2 else f.inf - 1
/-- The canonical NaN (R218). -/
def Fmt.nan (f : Fmt) : Nat := if f.noInf then f.signBit - 1 else f.inf + 2 ^ (f.mw - 1)

/-- An exact value: NaN, an infinity, or (-1)^neg m 2^e with signed zeros. -/
inductive Fpv where
  | nan
  | inf (neg : Bool)
  | fin (neg : Bool) (m : Nat) (e : Int)
  deriving DecidableEq, Repr

/-- The sign of a value that is not NaN. -/
def Fpv.neg : Fpv → Bool
  | .nan => false
  | .inf n => n
  | .fin n _ _ => n

/-- Whether a value is a zero. -/
def Fpv.isZero : Fpv → Bool
  | .fin _ m _ => m == 0
  | _ => false

/-- Read a bit pattern (R217, R219). -/
def fpRead (f : Fmt) (x : Nat) : Fpv :=
  let s := x.testBit (f.mw + f.ew)
  let e := bitsOf x (f.mw + f.ew - 1) f.mw
  let m := x % 2 ^ f.mw
  if f.noInf ∧ x % f.signBit = f.signBit - 1 then .nan
  else if ¬ f.noInf ∧ e = 2 ^ f.ew - 1 then (if m = 0 then .inf s else .nan)
  else if e = 0 then .fin s m (1 - (f.bias : Int) - f.mw)
  else .fin s (m + 2 ^ f.mw) ((e : Int) - f.bias - f.mw)

/-- Whether a discarded part rounds the magnitude up: `half` compares it with one half (0 below, 1 equal, 2
above), `any` whether it is not zero (R224). -/
def roundsUp (rm : Nat) (neg odd : Bool) (half : Nat) (any : Bool) : Bool :=
  match rm with
  | 0 => half == 2 || (half == 1 && odd)
  | 1 => false
  | 2 => any && !neg
  | _ => any && neg

/-- The pattern for a magnitude that overflows (R225). -/
def overflowBits (f : Fmt) (rm : Nat) (neg : Bool) : Nat :=
  if f.noInf then f.maxFin
  else if rm = 1 ∨ (rm = 2 ∧ neg) ∨ (rm = 3 ∧ ¬ neg) then f.maxFin
  else f.inf

/-- Round the magnitude (m + ε) 2^e, where ε is 0, or between 0 and 1 when `sticky`, to a format: its pattern
without the sign (R224, R225). -/
def roundMag (f : Fmt) (rm : Nat) (neg : Bool) (m : Nat) (e : Int) (sticky : Bool) : Nat :=
  if m = 0 ∧ ¬ sticky then 0
  else
    let lsbMin : Int := 1 - (f.bias : Int) - f.mw
    let lsb : Int := max (e + (Nat.log2 m : Int) - f.mw) lsbMin
    let sh : Int := lsb - e
    let q0 := if sh ≤ 0 then m * 2 ^ (-sh).toNat else m / 2 ^ sh.toNat
    let rem := if sh ≤ 0 then 0 else m % 2 ^ sh.toNat
    let halfway := if sh ≤ 0 then 0 else 2 ^ (sh.toNat - 1)
    let any := rem != 0 || sticky
    let half := if sh ≤ 0 then 0
                else if rem < halfway then 0 else if rem = halfway ∧ ¬ sticky then 1 else 2
    let q := if roundsUp rm neg (q0 % 2 == 1) half any then q0 + 1 else q0
    let b := (lsb - lsbMin).toNat * 2 ^ f.mw + q
    if b > f.maxFin then overflowBits f rm neg else b

/-- Put a sign on a magnitude's pattern. -/
def signed (f : Fmt) (neg : Bool) (b : Nat) : Nat := if neg then b + f.signBit else b

/-- RoundTo: the pattern of a value in a format (R218, R219, R224, R225, R228). -/
def fpRound (f : Fmt) (rm : Nat) : Fpv → Nat
  | .nan => f.nan
  | .inf n => signed f n (if f.noInf then f.maxFin else f.inf)
  | .fin n m e => signed f n (roundMag f rm n m e false)

/-- The value as an integer multiple of 2^e, for an e at most its own exponent. -/
def scaled (n : Bool) (m : Nat) (e lo : Int) : Int :=
  let x : Int := (m * 2 ^ (e - lo).toNat : Nat)
  if n then -x else x

/-- A value from an exact integer multiple, the sign of a zero given. -/
def ofScaled (x e : Int) (zneg : Bool) : Fpv :=
  if x = 0 then .fin zneg 0 e else .fin (x < 0) x.natAbs e

/-- The sign of an exact zero sum of operands of signs a and b (R229). -/
def zeroSign (rm : Nat) (a b : Bool) : Bool := if a = b then a else rm == 3

/-- Exact sum; `rm` only gives the sign of an exact zero (R228, R229). -/
def fpAdd (rm : Nat) (a b : Fpv) : Fpv :=
  match a, b with
  | .nan, _ => .nan
  | _, .nan => .nan
  | .inf x, .inf y => if x = y then .inf x else .nan
  | .inf x, _ => .inf x
  | _, .inf y => .inf y
  | .fin n m e, .fin n2 m2 e2 =>
    let lo := min e e2
    ofScaled (scaled n m e lo + scaled n2 m2 e2 lo) lo (zeroSign rm n n2)

/-- Exact product (R228, R229). -/
def fpMul (a b : Fpv) : Fpv :=
  match a, b with
  | .nan, _ => .nan
  | _, .nan => .nan
  | .inf x, .inf y => .inf (x != y)
  | .inf x, .fin n m _ => if m = 0 then .nan else .inf (x != n)
  | .fin n m _, .inf y => if m = 0 then .nan else .inf (n != y)
  | .fin n m e, .fin n2 m2 e2 => .fin (n != n2) (m * m2) (e + e2)

/-- Negate. -/
def fpNeg : Fpv → Fpv
  | .nan => .nan
  | .inf n => .inf (!n)
  | .fin n m e => .fin (!n) m e

/-- a < b on values that are not NaN; -0 equals +0. -/
def fpLt (a b : Fpv) : Bool :=
  match a, b with
  | .nan, _ => false
  | _, .nan => false
  | .inf x, .inf y => x && !y
  | .inf x, _ => x
  | _, .inf y => !y
  | .fin n m e, .fin n2 m2 e2 => decide (scaled n m e (min e e2) < scaled n2 m2 e2 (min e e2))

/-- The smaller (or larger) of two values, -0 below +0 (R230). -/
def fpPick (larger : Bool) (a b : Fpv) : Fpv :=
  let less := fpLt a b || (!fpLt b a && a.neg && !b.neg)
  if less then (if larger then b else a) else (if larger then a else b)

/-- Minimum and maximum: `nanWins` for FMINN and FMAXN (R230). -/
def fpMinMax (larger nanWins : Bool) (a b : Fpv) : Fpv :=
  match a, b with
  | .nan, .nan => .nan
  | .nan, y => if nanWins then .nan else y
  | x, .nan => if nanWins then .nan else x
  | x, y => fpPick larger x y

/-- An integer from a magnitude m 2^e by a rounding mode. -/
def intMag (rm : Nat) (neg : Bool) (m : Nat) (e : Int) : Nat :=
  if 0 ≤ e then m * 2 ^ e.toNat
  else
    let k := (-e).toNat
    let q := m / 2 ^ k
    let rem := m % 2 ^ k
    let half := if 2 * rem < 2 ^ k then 0 else if 2 * rem = 2 ^ k then 1 else 2
    if roundsUp rm neg (q % 2 == 1) half (rem != 0) then q + 1 else q

/-- Round to an integral value, keeping the sign (R287 FRND). -/
def fpIntegral (rm : Nat) : Fpv → Fpv
  | .fin n m e => .fin n (intMag rm n m e) 0
  | x => x

/-- A - Floor(A), exactly (R287 FFRAC). -/
def fpFrac : Fpv → Fpv
  | .fin n m e =>
    let lo := min e 0
    let x := scaled n m e lo
    let one : Int := (2 ^ (-lo).toNat : Nat)
    ofScaled (x % one) lo false
  | _ => .nan

/-- FtzIn, FtzOut: a subnormal pattern becomes a zero of its sign when `on` (R227). -/
def flush (f : Fmt) (on : Bool) (x : Nat) : Nat :=
  if on ∧ x / 2 ^ f.mw % 2 ^ f.ew = 0 then x / f.signBit % 2 * f.signBit else x

/-- FpOp on one operand (R287). -/
def fpOp1 (f : Fmt) (ftz : Bool) (rm : Nat) (g : Fpv → Fpv) (a : Nat) : Nat :=
  flush f ftz (fpRound f rm (g (fpRead f (flush f ftz a))))
/-- FpOp on two operands. -/
def fpOp2 (f : Fmt) (ftz : Bool) (rm : Nat) (g : Fpv → Fpv → Fpv) (a b : Nat) : Nat :=
  flush f ftz (fpRound f rm (g (fpRead f (flush f ftz a)) (fpRead f (flush f ftz b))))
/-- FpOp on three operands. -/
def fpOp3 (f : Fmt) (ftz : Bool) (rm : Nat) (g : Fpv → Fpv → Fpv → Fpv) (a b c : Nat) : Nat :=
  flush f ftz
    (fpRound f rm (g (fpRead f (flush f ftz a)) (fpRead f (flush f ftz b)) (fpRead f (flush f ftz c))))

/-- A × B + C, exactly (R229). -/
def fpFma (rm : Nat) (a b c : Fpv) : Fpv := fpAdd rm (fpMul a b) c

/-- A D2P term: sign and exponent code (R220), in units of 2^-6. -/
def d2pTerm (t : Nat) : Int := if t % 8 = 7 then 0 else (if t / 8 % 2 = 1 then -1 else 1) * (2 ^ (6 - t % 8) : Nat)

/-- A D2P byte's value in units of 2^-6 (R220). -/
def d2pInt (x : Nat) : Int := d2pTerm (x / 16 % 16) + d2pTerm (x % 16)

/-- A D2P byte as a value; a zero acts as +0. -/
def d2pRead (x : Nat) : Fpv := ofScaled (d2pInt x) (-6) false

/-- The non-zero terms of a code. -/
def d2pCount (x : Nat) : Nat := (if x / 16 % 8 = 7 then 0 else 1) + (if x % 8 = 7 then 0 else 1)

/-- The canonical code of a value in units of 2^-6 (R221): fewest terms, then the smallest C1, then sign 0 of a zero
term. Codes stand in ascending order of the key (terms, C1, signs of zero terms, code). -/
def d2pCanonical (v : Int) : Nat :=
  let key (x : Nat) : Nat :=
    d2pCount x * 65536 + x / 16 % 8 * 4096
      + ((if x / 16 % 8 = 7 then x / 128 else 0) + (if x % 8 = 7 then x / 8 % 2 else 0)) * 1024 + x
  let c := (List.range 256).filter fun x => d2pInt x == v
  c.foldl (fun b x => if key x < key b then x else b) (c.headD 0x77)

/-- The magnitudes a D2P value can have, in units of 2^-6, ascending. -/
def d2pMags : List Nat := ((List.range 129).filter fun k => (List.range 256).any fun x => d2pInt x == (k : Int))

/-- Conversion to D2P (R221): nearest, ties to the smaller magnitude; above 2 gives 2. -/
def d2pRound : Fpv → Nat
  | .nan => 0x77
  | .inf n => if n then 0x88 else 0x00
  | .fin n m e =>
    -- the magnitude in units of 2^-6 is m * 2^(e + 6); distances are compared at a common scale
    let lo := min (e + 6) 0
    let x : Nat := m * 2 ^ (e + 6 - lo).toNat
    let u : Nat := 2 ^ (-lo).toNat
    if m = 0 then 0x77
    else if 128 * u < x then (if n then 0x88 else 0x00)
    else
      let dist (k : Nat) : Nat := (k * u - x) + (x - k * u)
      let best := d2pMags.foldl (fun b k => if dist k < dist b then k else b) 0
      d2pCanonical (if n then -(best : Int) else best)

/-- Whether a sum K slice's product is invalid or infinite and how, used by exact sums: the sum of exact products
with R235's special values. -/
def fpSum : List Fpv → Fpv → Fpv
  | [], acc => acc
  | x :: xs, acc => fpSum xs (fpAdd 0 acc x)

/-- The sum of CPYRD (R161). -/
def reduceAdd (fmt m x : Nat) : Nat :=
  let fp (f : Fmt) : Nat := fpOp2 f false 0 (fpAdd 0) m x
  match fmt with
  | 0 => fp bf16
  | 1 => fp fp16
  | 2 => fp e4m3
  | 3 => fp e5m2
  | 5 => (m + x) % 256
  | 6 => fp fp32
  | 7 => (m + x) % 2 ^ 32
  | _ => fp fp64

end Sys2Proof.Machine
end

