-- ==== Sys2Proof/Machine/Flags.lean ====
section
/-! DEFINITION. What results say about themselves: compare codes (R279), carries (R281), saturation (R280), classes
(R289). -/

namespace Sys2Proof.Machine

/-- A class-0 source as it is read: unsigned or two's complement (R280). -/
def readInt (uns : Bool) (x : Nat) : Int := if uns then (x : Int) else sInt 32 x

/-- IntRes (R280). -/
def intRes (sat uns : Bool) (x : Int) : Nat :=
  toBits 32 (if sat then (if uns then satInt x 0 4294967295 else satInt x (-2147483648) 2147483647) else x)

/-- An integer compare by its code (R279). -/
def intCompare (cc : Nat) (a b : Int) : Bool :=
  match cc with
  | 0 => a == b
  | 1 => a != b
  | 2 => a < b
  | 3 => a ≤ b
  | 4 => b < a
  | _ => b ≤ a

/-- A floating compare by its code (R279, R231). -/
def fpCompare (cc : Nat) (a b : Fpv) : Bool :=
  let un := a == .nan || b == .nan
  let lt := fpLt a b
  let gt := fpLt b a
  let eq := !un && !lt && !gt
  match cc with
  | 0 => eq
  | 1 => !eq
  | 2 => lt
  | 3 => lt || eq
  | 4 => gt
  | 5 => gt || eq
  | 6 => !un
  | 7 => un
  | 8 => lt || un
  | 9 => lt || eq || un
  | 10 => gt || un
  | _ => gt || eq || un

/-- A compare of two patterns under FTZ (R231). -/
def fpCmpBits (f : Fmt) (ftz : Bool) (cc a b : Nat) : Bool :=
  fpCompare cc (fpRead f (flush f ftz a)) (fpRead f (flush f ftz b))

/-- IADDC: the result and the carry or borrow (R281). -/
def addCarry (sub : Bool) (a b ci : Nat) : Nat × Bool :=
  if sub then (toBits 32 ((a : Int) - b - ci), decide ((a : Int) - b - ci < 0))
  else ((a + b + ci) % 4294967296, decide (4294967296 ≤ a + b + ci))

/-- FCLASS (R289). -/
def fpClass (f : Fmt) (x : Nat) : Nat :=
  let sub := x / 2 ^ f.mw % 2 ^ f.ew == 0
  match fpRead f x with
  | .nan => 256
  | .inf true => 1
  | .inf false => 128
  | .fin n m _ =>
    if m = 0 then (if n then 8 else 16)
    else if sub then (if n then 4 else 32)
    else if n then 2 else 64

end Sys2Proof.Machine
end

