-- ==== Sys2Proof/Syntax.lean ====
section
/-! DEFINITION. The instructions: the fields of each word layout, and one constructor for each row of
spec/opcode_table.json. -/

namespace Sys2Proof

/-- The fields every F-form word has (R242): the rally-end bit, the stall count or wait mask, the guard. -/
structure Hdr where
  last : Bool
  stall : BitVec 4
  guard : BitVec 4
  neg : Bool
  deriving DecidableEq, Repr

/-- The plain F-form operands and modifiers (R242, R243). -/
structure Full where
  d : BitVec 8
  a : BitVec 8
  b : BitVec 8
  c : BitVec 8
  sa : Bool
  sb : Bool
  sc : Bool
  u : Bool
  csel : BitVec 2
  cen : Bool
  cls : BitVec 5
  deriving DecidableEq, Repr

/-- The immediate twin's operands (R245). -/
structure Imm where
  d : BitVec 8
  a : BitVec 8
  sa : Bool
  u : Bool
  clb : BitVec 6
  imm : BitVec 20
  deriving DecidableEq, Repr

/-- LDI: a destination and a 32-bit immediate (R246). -/
structure Ldi where
  d : BitVec 8
  imm : BitVec 32
  deriving DecidableEq, Repr

/-- A direct target: the D field, the signed word offset, the class bits (R301). -/
structure Direct where
  d : BitVec 8
  off : BitVec 24
  cls : BitVec 5
  deriving DecidableEq, Repr

/-- A matrix word's fields (R247, R375). -/
structure Mat where
  c : BitVec 8
  a : BitVec 8
  sb : BitVec 8
  f : BitVec 8
  ra : Bool
  hc : Bool
  sf : Bool
  bv : Bool
  csel : BitVec 2
  cen : Bool
  bar : BitVec 5
  deriving DecidableEq, Repr

/-- A copy word's fields (R386). -/
structure Copy where
  tag : BitVec 6
  a : BitVec 8
  sb : BitVec 8
  bv : Bool
  bar : BitVec 5
  sa : Bool
  csel : BitVec 2
  cen : Bool
  nc : BitVec 3
  deriving DecidableEq, Repr

/-- The 48 P-form opcodes (R262), in the order of OP6. -/
inductive PairOp where
  | iadd | isub | imul | iminI32 | imaxI32 | iminN32 | imaxN32 | ineg
  | iabs | and | or | xor | not | shl | shr | sar
  | rotl | popc | clz | ctz | brev | fadd | fmul | fmin
  | fmax | fminn | fmaxn | frnd | ffrac | frcp | frsq | fsqrt
  | fexp2 | flog2 | fsin | fcos | ftanh | hadd2 | hmul2 | hmin2
  | hmax2 | badd2 | bmul2 | mov | cvtF32F16 | cvtF32Bf16 | cvtF32I32 | cvtI32F32
  deriving DecidableEq, Repr

/-- One half of a P-form word (R248). -/
structure Half where
  op : PairOp
  guard : BitVec 3
  neg : Bool
  d : BitVec 8
  a : BitVec 8
  as : Bool
  deriving DecidableEq, Repr

/-- One constructor for each row of the opcode table: the F-form words (R260), the P-form word (R248), and
the device's operations and events, which are moves of the agenda and have no word. The events stand first. -/
inductive Instr where
  /-- Reset starts bring-up with the boot steps of the security processor. R491. -/
  | powerOnReset (p : Product)
  /-- Memory training completes and device memory is zeroed. R491. -/
  | gddr7TrainingDone (bytes : Nat)
  /-- Host link training and enumeration complete and READY is set. R491. -/
  | hostLinkTrained (cache mem : Bool)
  /-- Reset of one function kills and reclaims its master's contexts and resets its error ring. R481. -/
  | functionLevelReset (m : Nat)
  /-- Hot reset or host link-down resets every function and returns to link training. R481. -/
  | hotResetLinkDown
  /-- Setting FAB_EN starts training of the routed fabric ports. R478. -/
  | fabEnWrite (m : Nat) (v : Word)
  /-- A port completes authenticated key exchange and trains. R484. -/
  | fabricPortTrained (port dev : Nat) (authentic : Bool)
  /-- After 2^32 flits a port's GCM keys are changed without loss. R484. -/
  | gcmRekey (port : Nat)
  /-- A flit failing CRC or tag is NAKed and replayed from the replay buffer. R482. -/
  | flitCheckFail (port : Nat)
  /-- A flit replayed 16 times takes its port down. R482. -/
  | portReplayLimit (port : Nat)
  /-- Loss of every path to a peer drops its holdings and makes it unreachable. R104. -/
  | peerLinkDown (dev : Nat)
  /-- SPDM request for supported versions. R488. -/
  | getVersion
  /-- SPDM request for capabilities. R488. -/
  | getCapabilities
  /-- SPDM algorithm negotiation. R488. -/
  | negotiateAlgorithms
  /-- SPDM request for certificate digests. R488. -/
  | getDigests
  /-- SPDM request for the device certificate chain. R488. -/
  | getCertificate
  /-- SPDM challenge signed by the identity key. R488. -/
  | challenge (nonce : Nat)
  /-- SPDM request for boot measurements or a signed context report. R488. -/
  | getMeasurements (index nonce : Nat)
  /-- SPDM key exchange opening a session. R488. -/
  | keyExchange (nonce : Nat)
  /-- SPDM session finish. R488. -/
  | finish (session : Nat)
  /-- SPDM session end. R488. -/
  | endSession (session : Nat)
  /-- Write to a register field with no behaviour of its own, per its access code. R3. -/
  | registerWrite (m off : Nat) (wide : Bool) (v : DWord)
  /-- Write of fault-area SIZE that may release held records in order. R37. -/
  | ctxFqCtlWrite (m c : Nat) (v : Word)
  /-- Write of the fault-area base that may release held records. R37. -/
  | ctxFqBaseWrite (m c : Nat) (v : DWord)
  /-- Driver advances GET, freeing space for waiting records. R37. -/
  | ctxFqGetWrite (m c : Nat) (v : Word)
  /-- Replay every parked access of the context. R41. -/
  | ctxResumeGo (m c : Nat)
  /-- KIND 1 write starts dropping the context's translations covering an address. R38. -/
  | invalVa (m c : Nat)
  /-- KIND 2 write starts dropping every translation of the context. R38. -/
  | invalContext (m c : Nat)
  /-- All TLBs, walks and accesses using old translations done; BUSY clears. R38. -/
  | invalidationComplete (c : Nat)
  /-- A translation walk ends, installing a translation or raising a fault. R31. -/
  | walkComplete (n : Nat)
  /-- Write of EN, sizes and weight; setting EN reads the graph head. R199. -/
  | ctxTgCtlWrite (m c : Nat) (v : Word)
  /-- Move the graph-head line; with EN set, HEAD is read from it. R199. -/
  | ctxGhAddrWrite (m c : Nat) (v : DWord)
  /-- Any write makes the executor read the graph head. R203. -/
  | ctxWake (m c : Nat)
  /-- A write performed at the monitored graph-head line wakes the executor. R203. -/
  | graphHeadMonitorWake (c : Nat)
  /-- The executor consumes a host record, checks it and marks it RUNNING. R205. -/
  | recordConsume (c : Nat)
  /-- After its folios retire a node drains writes, expires leases, decrements successors, writes DONE. R207. -/
  | nodeFinish (n : Nat)
  /-- The distributor reserves cores, registers, tags and banks for the next ranked folio. R209. -/
  | folioPlacement
  /-- A draining bank has emptied and is handed over as scratch or FIFO. R53. -/
  | bankDrainComplete (g bank : Nat)
  /-- All banks ready and registration done, every core of the folio starts. R55. -/
  | folioStart (fo : Nat)
  /-- A quire with all threads exited and nothing outstanding ends and frees its slot. R312. -/
  | quireEnd (q : Slot)
  /-- A folio with no quires or copies writes back its window and retires. R25. -/
  | folioRetirement (fo : Nat)
  /-- Request pre-emption of every resident folio of the context. R215. -/
  | ctxPreemptGo (m c : Nat)
  /-- No retirement or finish for LIMIT periods sets WDOG and interrupts. R216. -/
  | watchdogExpiry (c : Nat)
  /-- Writing LIMIT restarts the watchdog period. R216. -/
  | ctxWdogWrite (m c : Nat) (v : Word)
  /-- Each cycle the dispatcher grants up to two ready rallies. R212. -/
  | rallyGrant (core : Nat)
  /-- Resume every thread halted by SOFTWARE or BREAKPOINT. R401. -/
  | ctxTrapctlResume (m c : Nat)
  /-- Mark the context dead, stopping its work and dropping its requests. R409. -/
  | ctxStateDead (m c : Nat)
  /-- Once tagged requests drain, free the dead context's resources and set RECL. R410. -/
  | contextReclamation (c : Nat)
  /-- Clear DEAD and RECL of a reclaimed context and replace its key. R410. -/
  | ctxStateRevive (m c : Nat)
  /-- Setting V assigns the context and generates a fresh key. R479. -/
  | ctxOwnerAssign (m c owner : Nat)
  /-- Clearing V unassigns an idle or reclaimed context. R479. -/
  | ctxOwnerRelease (m c : Nat)
  /-- Write of the ray pool base or size, ignored while pages are in use. R447. -/
  | ctxRayPoolWrite (m c : Nat) (ctl : Bool) (v : DWord)
  /-- Select a barrier instance for the diagnostic view. R492. -/
  | diagBselWrite (m g : Nat) (v : Word)
  /-- Read of offset 0x420 snapshots the selected barrier instance. R492. -/
  | diagBviewSnapshot (m g : Nat)
  /-- An aborting member is restored from its checkpoint and sent to its handler. R188. -/
  | tryAbortRestore (q : Slot) (t : Nat)
  /-- With every member commit-held, collect write-set tokens and publish. R87. -/
  | commitCollection (q : Slot)
  /-- Collection over 4,096 cycles aborts the region with COLLECT. R87. -/
  | commitCollectTimeout (q : Slot)
  /-- Home serves a READ token request and forwards it to holders. R78. -/
  | transientReadRequest (n : Nat)
  /-- Home serves a WRITE request for all tokens and forwards it. R78. -/
  | transientWriteRequest (n : Nat)
  /-- A holder answers a forwarded READ with a token and data or nothing. R78. -/
  | forwardedRead (n : Nat)
  /-- A holder sends all its tokens for a forwarded WRITE. R78. -/
  | forwardedWrite (n : Nat)
  /-- Tokens and data reach an agent; a PW line with 64 tokens performs its stores. R83. -/
  | tokenArrival (n : Nat)
  /-- An unsatisfied request after 1,024 cycles is reissued or made persistent. R79. -/
  | transientRequestTimeout (agent line : Nat)
  /-- Home records a persistent request and activates it when its turn comes. R80. -/
  | persistentRequestRegister (n : Nat)
  /-- Agents receiving an activation send their tokens to the requester. R80. -/
  | persistentBroadcast (n : Nat)
  /-- Home broadcasts deactivation and activates the next request by pointer. R80. -/
  | persistentDeactivation (n : Nat)
  /-- An agent silent for 4,096 cycles is reported in an error record. R81. -/
  | homeResponseTimeout (agent line : Nat)
  /-- A fill arrives, installing the line or passing tokens on after a recorded request. R94. -/
  | fillArrival (n : Nat)
  /-- Home grants a lease with data and version on a route 1, 2 or 3 miss. R89. -/
  | leaseRequest (w : LeaseAt) (line : Nat) (k : Key)
  /-- Home answers a renewal as unchanged or with new data. R91. -/
  | leaseRenewal (w : LeaseAt) (line : Nat)
  /-- Cores and gatherings drop copies of a line on a recall broadcast. R93. -/
  | leaseRecall (line : Nat)
  /-- A non-cacheable access is performed at the L2 home or host. R14. -/
  | ncAccessAtHome (q : Slot) (seq t : Nat)
  /-- A route 3 write is performed at the home and acknowledged. R69. -/
  | route3WriteAtHome (n : Nat)
  /-- A posted write is performed at its host or exporting home. R135. -/
  | postedWritePerform (n : Nat)
  /-- The bridge's flushing read returns, ending a System-class wait. R135. -/
  | flushReadReturn (q : Slot)
  /-- Host snoop invalidating a half; all device tokens are recalled. R99. -/
  | snpinv (line half : Nat)
  /-- Host snoop for data; the owner token is recalled. R99. -/
  | snpdata (line half : Nat)
  /-- Host snoop for current data; no tokens move. R99. -/
  | snpcur (line half : Nat)
  /-- Host answers RdShared or RdOwn and the bridge sends tokens on. R98. -/
  | hostCacheGrant (line half : Nat) (exclusive : Bool)
  /-- Host read of device memory taking one token at the L2 home. R101. -/
  | cxlMemRead (pa len : Nat)
  /-- Host write of device memory performed at the home with all tokens. R101. -/
  | cxlMemWrite (pa : Nat) (bytes : List Byte)
  /-- An importer's access is checked against the export table and served or refused. R485. -/
  | peerAccessAtExporter (imp off : Nat) (write : Option (List Byte)) (len : Nat)
  /-- An importer silent for 262,144 cycles has its holdings dropped. R104. -/
  | peerRecallTimeout (dev : Nat)
  /-- The power manager gates an idle gathering in RETAIN or FLUSHED sleep. R95. -/
  | gatheringSleep (g : Nat)
  /-- A sleeping gathering wakes to answer a request or for placement. R95. -/
  | gatheringWake (g : Nat)
  /-- At each 65,536-cycle window the governor adjusts EXTRA. R490. -/
  | governorWindowEnd (est : Nat)
  /-- A copy completes, writing its record, arriving on barriers and setting its tag. R123. -/
  | copyComplete (core tag : Nat)
  /-- A non-replayable fault ends the copy with status FAULT. R166. -/
  | copyFaultEnd (core tag : Nat)
  /-- A bench entry becomes eligible once its barrier phase has moved. R163. -/
  | benchEntryEligible (g n : Nat)
  /-- The matrix engine starts a pass with a leader and fused entries. R213. -/
  | benchPass (g : Nat)
  /-- A blocked push reserves its entries when the ring has room. R350. -/
  | fpushReserve (q : Slot)
  /-- A blocked pop reserves its entries when the ring holds enough. R350. -/
  | fpopReserve (q : Slot)
  /-- A blocked barrier wait ends when the phase moves. R371. -/
  | barwaitRelease (q : Slot)
  /-- A blocked tag wait ends when its tags finish. R373. -/
  | tagwaitRelease (q : Slot)
  /-- The folio barrier round completes when every non-exited thread has arrived. R372. -/
  | fbarRoundComplete (fo : Nat)
  /-- A waiting register grow is granted when enough registers are free. R328. -/
  | regqGrowGrant (q : Slot)
  /-- A blocked section entry proceeds when lower-ordered fragments are released. R432. -/
  | osenterGrant (q : Slot)
  /-- A blocked ray wait ends when the rays complete. R470. -/
  | twaitRelease (q : Slot)
  /-- A pass stage completes; writes are performed, leases expired and the next stage begins. R443. -/
  | stageBoundary (n : Nat)
  /-- In TILE mode a gathering reserves list banks for the next tile. R421. -/
  | tileDeal (n : Nat)
  /-- The rasteriser covers samples of a tile's primitives in order and forms fragment quires. R427. -/
  | tileRasterisation (n tile : Nat)
  /-- The list engine applies an append, inserting by depth and merging at budget. R435. -/
  | listAppendApply (n k : Nat)
  /-- The list engine places a quire of CUSTOM merge threads. R439. -/
  | mergeRoutineLaunch (n : Nat)
  /-- The controller fills a tile folio's scratchpad planes before it starts. R441. -/
  | reconstructionFill (fo : Nat)
  /-- The traversal engine chooses a huddle, streams its subtree and steps its rays. R461. -/
  | traversalService (g : Nat)
  /-- The engine places a folio of queued rays with one routine template. R463. -/
  | routineFolioLaunch (g : Nat)
  /-- The host answers a back-invalidation snoop for a device-memory line it caches, giving up its half so the bridge can pass its tokens on. R101. -/
  | bisnpResponse (line half : Nat)
  /-- Issue two restricted two-operand arithmetic halves together in one word. R249. -/
  | pformWord (last : Bool) (stall : BitVec 4) (p : Half) (r : Half)
  /-- Integer add of two registers, with optional unsigned reading and saturation. R280. -/
  | iadd (h : Hdr) (f : Full)
  /-- Integer subtract of two registers, with optional unsigned reading and saturation. R280. -/
  | isub (h : Hdr) (f : Full)
  /-- Integer negate, with optional saturation. R280. -/
  | ineg (h : Hdr) (f : Full)
  /-- Integer absolute value, with optional saturation. R280. -/
  | iabs (h : Hdr) (f : Full)
  /-- Integer multiply keeping the low result, with optional saturation. R280. -/
  | imul (h : Hdr) (f : Full)
  /-- High 32 bits of a signed or unsigned product. R280. -/
  | imulh (h : Hdr) (f : Full)
  /-- Integer multiply-add, with optional saturation. R280. -/
  | imad (h : Hdr) (f : Full)
  /-- Integer multiply-add giving a 64-bit result in a register pair. R280. -/
  | imadw (h : Hdr) (f : Full)
  /-- Signed or unsigned integer minimum. R280. -/
  | imin (h : Hdr) (f : Full)
  /-- Signed or unsigned integer maximum. R280. -/
  | imax (h : Hdr) (f : Full)
  /-- Absolute difference added to an unsigned accumulator. R280. -/
  | isad (h : Hdr) (f : Full)
  /-- Integer compare that writes a predicate by compare code. R280. -/
  | icmp (h : Hdr) (f : Full)
  /-- Add or subtract with carry-in and carry-out predicates. R281. -/
  | iaddc (h : Hdr) (f : Full)
  /-- Bitwise AND of two registers. R283. -/
  | andBits (h : Hdr) (f : Full)
  /-- Bitwise OR of two registers. R283. -/
  | orBits (h : Hdr) (f : Full)
  /-- Bitwise XOR of two registers. R283. -/
  | xorBits (h : Hdr) (f : Full)
  /-- Bitwise complement. R283. -/
  | notBits (h : Hdr) (f : Full)
  /-- Three-input bitwise function by truth table, using the old destination as third input. R283. -/
  | bop3 (h : Hdr) (f : Full)
  /-- Logical shift left. R283. -/
  | shl (h : Hdr) (f : Full)
  /-- Logical shift right. R283. -/
  | shr (h : Hdr) (f : Full)
  /-- Arithmetic shift right. R283. -/
  | sar (h : Hdr) (f : Full)
  /-- Rotate left. R283. -/
  | rotl (h : Hdr) (f : Full)
  /-- Funnel shift of a 64-bit concatenation, high or low half. R284. -/
  | shf (h : Hdr) (f : Full)
  /-- Population count of a 32- or 64-bit value. R285. -/
  | popc (h : Hdr) (f : Full)
  /-- Count of leading zeros. R285. -/
  | clz (h : Hdr) (f : Full)
  /-- Count of trailing zeros. R285. -/
  | ctz (h : Hdr) (f : Full)
  /-- Bit reversal of a 32- or 64-bit value. R285. -/
  | brev (h : Hdr) (f : Full)
  /-- Bit-field extract, signed or unsigned. R285. -/
  | bfx (h : Hdr) (f : Full)
  /-- Bit-field insert. R285. -/
  | bfi (h : Hdr) (f : Full)
  /-- Byte permute from two registers under a selector. R285. -/
  | bypr (h : Hdr) (f : Full)
  /-- Interleave bits of two or three components into a Morton code. R286. -/
  | bilv (h : Hdr) (f : Full)
  /-- Extract one component of a Morton code. R286. -/
  | bdlv (h : Hdr) (f : Full)
  /-- 64-bit address add of a pair and an extended 32-bit offset. R282. -/
  | aadd (h : Hdr) (f : Full)
  /-- 64-bit address multiply-add. R282. -/
  | amad (h : Hdr) (f : Full)
  /-- Integer add of a register and a sign-extended immediate. R280. -/
  | iaddI (h : Hdr) (f : Imm)
  /-- Integer multiply by an immediate. R280. -/
  | imulI (h : Hdr) (f : Imm)
  /-- Bitwise AND with an immediate. R283. -/
  | andI (h : Hdr) (f : Imm)
  /-- Bitwise OR with an immediate. R283. -/
  | orI (h : Hdr) (f : Imm)
  /-- Bitwise XOR with an immediate. R283. -/
  | xorI (h : Hdr) (f : Imm)
  /-- Integer compare against an immediate. R280. -/
  | icmpI (h : Hdr) (f : Imm)
  /-- FP32 add. R287. -/
  | fadd (h : Hdr) (f : Full)
  /-- FP32 multiply. R287. -/
  | fmul (h : Hdr) (f : Full)
  /-- FP32 fused multiply-add with one rounding. R287. -/
  | ffma (h : Hdr) (f : Full)
  /-- FP32 minimum that ignores NaN. R287. -/
  | fmin (h : Hdr) (f : Full)
  /-- FP32 maximum that ignores NaN. R287. -/
  | fmax (h : Hdr) (f : Full)
  /-- FP32 minimum that propagates NaN. R287. -/
  | fminn (h : Hdr) (f : Full)
  /-- FP32 maximum that propagates NaN. R287. -/
  | fmaxn (h : Hdr) (f : Full)
  /-- FP32 compare that writes a predicate. R287. -/
  | fcmp (h : Hdr) (f : Full)
  /-- Classify a floating value of a chosen type into a one-hot class mask. R289. -/
  | fclass (h : Hdr) (f : Full)
  /-- Round FP32 to an integral value. R287. -/
  | frnd (h : Hdr) (f : Full)
  /-- FP32 fractional part A minus Floor(A). R287. -/
  | ffrac (h : Hdr) (f : Full)
  /-- Correctly rounded FP32 reciprocal. R288. -/
  | frcp (h : Hdr) (f : Full)
  /-- Correctly rounded FP32 reciprocal square root. R288. -/
  | frsq (h : Hdr) (f : Full)
  /-- Correctly rounded FP32 square root. R288. -/
  | fsqrt (h : Hdr) (f : Full)
  /-- Correctly rounded FP32 base-2 exponential. R288. -/
  | fexp2 (h : Hdr) (f : Full)
  /-- Correctly rounded FP32 base-2 logarithm. R288. -/
  | flog2 (h : Hdr) (f : Full)
  /-- Correctly rounded FP32 sine with exact argument reduction. R288. -/
  | fsin (h : Hdr) (f : Full)
  /-- Correctly rounded FP32 cosine with exact argument reduction. R288. -/
  | fcos (h : Hdr) (f : Full)
  /-- Correctly rounded FP32 hyperbolic tangent. R288. -/
  | ftanh (h : Hdr) (f : Full)
  /-- FP64 add on register pairs. R291. -/
  | dadd (h : Hdr) (f : Full)
  /-- FP64 multiply on register pairs. R291. -/
  | dmul (h : Hdr) (f : Full)
  /-- FP64 fused multiply-add on register pairs. R291. -/
  | dfma (h : Hdr) (f : Full)
  /-- FP64 compare that writes a predicate. R291. -/
  | dcmp (h : Hdr) (f : Full)
  /-- FP32 add on two elements in register pairs. R290. -/
  | faddX2 (h : Hdr) (f : Full)
  /-- FP32 multiply on two elements. R290. -/
  | fmulX2 (h : Hdr) (f : Full)
  /-- FP32 fused multiply-add on two elements. R290. -/
  | ffmaX2 (h : Hdr) (f : Full)
  /-- FP32 minimum on two elements. R290. -/
  | fminX2 (h : Hdr) (f : Full)
  /-- FP32 maximum on two elements. R290. -/
  | fmaxX2 (h : Hdr) (f : Full)
  /-- NaN-propagating FP32 minimum on two elements. R290. -/
  | fminnX2 (h : Hdr) (f : Full)
  /-- NaN-propagating FP32 maximum on two elements. R290. -/
  | fmaxnX2 (h : Hdr) (f : Full)
  /-- FP32 integral rounding on two elements. R290. -/
  | frndX2 (h : Hdr) (f : Full)
  /-- FP32 compare on two elements, writing two predicates. R290. -/
  | fcmpX2 (h : Hdr) (f : Full)
  /-- FP32 add of a truncated immediate. R287. -/
  | faddI (h : Hdr) (f : Imm)
  /-- FP32 multiply by an immediate. R287. -/
  | fmulI (h : Hdr) (f : Imm)
  /-- FP32 multiply by an immediate, accumulating into the destination. R287. -/
  | ffmaI (h : Hdr) (f : Imm)
  /-- FP32 minimum with an immediate. R287. -/
  | fminI (h : Hdr) (f : Imm)
  /-- FP32 maximum with an immediate. R287. -/
  | fmaxI (h : Hdr) (f : Imm)
  /-- FP32 compare against an immediate. R287. -/
  | fcmpI (h : Hdr) (f : Imm)
  /-- Packed FP16 add. R292. -/
  | hadd2 (h : Hdr) (f : Full)
  /-- Packed FP16 multiply. R292. -/
  | hmul2 (h : Hdr) (f : Full)
  /-- Packed FP16 fused multiply-add. R292. -/
  | hfma2 (h : Hdr) (f : Full)
  /-- Packed FP16 or BF16 minimum. R292. -/
  | hmin2 (h : Hdr) (f : Full)
  /-- Packed FP16 or BF16 maximum. R292. -/
  | hmax2 (h : Hdr) (f : Full)
  /-- Packed BF16 add. R292. -/
  | badd2 (h : Hdr) (f : Full)
  /-- Packed BF16 multiply. R292. -/
  | bmul2 (h : Hdr) (f : Full)
  /-- Packed BF16 fused multiply-add. R292. -/
  | bfma2 (h : Hdr) (f : Full)
  /-- Packed FP16 add on four elements. R292. -/
  | hadd2X2 (h : Hdr) (f : Full)
  /-- Packed FP16 multiply on four elements. R292. -/
  | hmul2X2 (h : Hdr) (f : Full)
  /-- Packed FP16 fused multiply-add on four elements. R292. -/
  | hfma2X2 (h : Hdr) (f : Full)
  /-- Packed 16-bit minimum on four elements. R292. -/
  | hmin2X2 (h : Hdr) (f : Full)
  /-- Packed 16-bit maximum on four elements. R292. -/
  | hmax2X2 (h : Hdr) (f : Full)
  /-- Packed BF16 add on four elements. R292. -/
  | badd2X2 (h : Hdr) (f : Full)
  /-- Packed BF16 multiply on four elements. R292. -/
  | bmul2X2 (h : Hdr) (f : Full)
  /-- Packed BF16 fused multiply-add on four elements. R292. -/
  | bfma2X2 (h : Hdr) (f : Full)
  /-- Packed FP16 add of an immediate. R292. -/
  | hadd2I (h : Hdr) (f : Imm)
  /-- Packed FP16 multiply by an immediate. R292. -/
  | hmul2I (h : Hdr) (f : Imm)
  /-- Packed BF16 add of an immediate. R292. -/
  | badd2I (h : Hdr) (f : Imm)
  /-- Packed BF16 multiply by an immediate. R292. -/
  | bmul2I (h : Hdr) (f : Imm)
  /-- Packed FP16 compare writing two predicates. R292. -/
  | fcmpF16 (h : Hdr) (f : Full)
  /-- Packed BF16 compare writing two predicates. R292. -/
  | fcmpBf16 (h : Hdr) (f : Full)
  /-- Convert one element between types. R294. -/
  | cvt1 (h : Hdr) (f : Full)
  /-- Convert two 32-bit elements into a packed narrow destination. R294. -/
  | cvt2 (h : Hdr) (f : Full)
  /-- Convert four 32-bit elements into four bytes. R294. -/
  | cvt4 (h : Hdr) (f : Full)
  /-- Widen two packed elements into two 32-bit registers. R294. -/
  | cvt2w (h : Hdr) (f : Full)
  /-- Widen four packed bytes into four 32-bit registers. R294. -/
  | cvt4w (h : Hdr) (f : Full)
  /-- Pack two 16-bit halves into one register. R296. -/
  | pack (h : Hdr) (f : Full)
  /-- Pack four bytes into one register. R296. -/
  | packB8 (h : Hdr) (f : Full)
  /-- Unpack two 16-bit halves into a pair, zero- or sign-extended. R296. -/
  | unpk (h : Hdr) (f : Full)
  /-- Unpack four bytes into a quad, zero- or sign-extended. R296. -/
  | unpkB8 (h : Hdr) (f : Full)
  /-- Copy one register. R296. -/
  | mov (h : Hdr) (f : Full)
  /-- Copy a register pair. R296. -/
  | mov2 (h : Hdr) (f : Full)
  /-- Copy a register quad. R296. -/
  | mov4 (h : Hdr) (f : Full)
  /-- Load a 32-bit immediate into a vector register. R246. -/
  | ldiV (h : Hdr) (f : Ldi)
  /-- Load a 32-bit immediate into a scalar register once. R246. -/
  | ldiS (h : Hdr) (f : Ldi)
  /-- Per-thread select between two registers under a predicate. R297. -/
  | sel (h : Hdr) (f : Full)
  /-- Per-thread select between a register and an immediate under a predicate. R297. -/
  | selI (h : Hdr) (f : Imm)
  /-- Combine three per-thread predicates through a truth table. R298. -/
  | plop (h : Hdr) (f : Full)
  /-- Combine three uniform predicates through a truth table. R298. -/
  | plopQ (h : Hdr) (f : Full)
  /-- Set per-thread predicates from register bits under a mask. R299. -/
  | v2p (h : Hdr) (f : Full)
  /-- Write per-thread predicates into a register. R299. -/
  | p2v (h : Hdr) (f : Full)
  /-- Set uniform predicates from scalar bits under a mask. R299. -/
  | v2pQ (h : Hdr) (f : Full)
  /-- Write uniform predicates into a scalar. R299. -/
  | p2vQ (h : Hdr) (f : Full)
  /-- Direct branch for the active threads; the others fall through. R304. -/
  | bra (h : Hdr) (f : Direct)
  /-- Uniform branch of the whole leading set on a uniform predicate. R305. -/
  | brau (h : Hdr) (f : Direct)
  /-- Indirect jump to a per-thread or scalar target. R306. -/
  | jmpi (h : Hdr) (f : Full)
  /-- Direct call that saves a link quad and raises call depth. R307. -/
  | call (h : Hdr) (f : Direct)
  /-- Indirect call that saves a link quad and raises call depth. R307. -/
  | calli (h : Hdr) (f : Full)
  /-- Return through a link quad, restoring mr and lowering depth. R308. -/
  | ret (h : Hdr) (f : Full)
  /-- Set the meeting address of the active threads, or clear it to NONE. R309. -/
  | meet (h : Hdr) (f : Direct)
  /-- Set PC and meeting address together and end the rally. R310. -/
  | brk (h : Hdr) (f : Direct)
  /-- End the rally and mark the leading set yielded. R311. -/
  | yield (h : Hdr) (f : Full)
  /-- Exit the active threads and end the rally. R312. -/
  | exitThread (h : Hdr) (f : Full)
  /-- No operation beyond its stall count. R313. -/
  | nop (h : Hdr) (f : Full)
  /-- Raise SOFTWARE with a 16-bit code at each active thread. R314. -/
  | trap (h : Hdr) (f : Full)
  /-- Raise BREAKPOINT at each active thread. R314. -/
  | bpt (h : Hdr) (f : Full)
  /-- Combine one predicate of each active thread into all, any, uniform or a ballot mask. R316. -/
  | vote (h : Hdr) (f : Full)
  /-- Give each active thread the value of a source thread chosen by register. R317. -/
  | shfl (h : Hdr) (f : Full)
  /-- Shuffle with the source lane operand as an immediate. R317. -/
  | shflI (h : Hdr) (f : Imm)
  /-- Integer reduction over the active threads by the fixed tree. R318. -/
  | qred (h : Hdr) (f : Full)
  /-- FP32 reduction over the active threads by the fixed tree. R318. -/
  | qredF (h : Hdr) (f : Full)
  /-- Integer inclusive or exclusive prefix scan over the active threads. R318. -/
  | qscan (h : Hdr) (f : Full)
  /-- FP32 inclusive or exclusive prefix scan over the active threads. R318. -/
  | qscanF (h : Hdr) (f : Full)
  /-- Write each active thread a mask of active threads holding an equal value. R320. -/
  | matchBits (h : Hdr) (f : Full)
  /-- Read one thread's vector register into a scalar. R321. -/
  | rdlane (h : Hdr) (f : Full)
  /-- Write a scalar into one thread's vector register. R322. -/
  | wrlane (h : Hdr) (f : Full)
  /-- Open or nest a try region, writing checkpoints, or park non-members. R323. -/
  | tryBegin (h : Hdr) (f : Direct)
  /-- Close a try level, setting commit-held at the outermost level. R324. -/
  | commit (h : Hdr) (f : Full)
  /-- Abort the active threads' region with EXPLICIT and a user code. R325. -/
  | abortTry (h : Hdr) (f : Full)
  /-- Report try-region state of each active thread. R326. -/
  | tstat (h : Hdr) (f : Full)
  /-- Change the quire's register count, shrinking at once or growing when registers are free. R327. -/
  | regq (h : Hdr) (f : Full)
  /-- Set the quire's FTZ bit. R329. -/
  | mode (h : Hdr) (f : Full)
  /-- Read a special register into a vector or scalar. R330. -/
  | movs (h : Hdr) (f : Full)
  /-- Generic load through route 0 with immediate offset. R338. -/
  | ld (h : Hdr) (f : Full)
  /-- Generic acquire load with immediate offset. R339. -/
  | ldAcq (h : Hdr) (f : Full)
  /-- Generic store through route 0 with immediate offset. R338. -/
  | st (h : Hdr) (f : Full)
  /-- Generic release store with immediate offset. R339. -/
  | stRel (h : Hdr) (f : Full)
  /-- Generic load that records its bytes for alias checking in a try region. R341. -/
  | ldChk (h : Hdr) (f : Full)
  /-- Generic load with scaled index register. R335. -/
  | ldX (h : Hdr) (f : Full)
  /-- Generic acquire load with scaled index register. R335. -/
  | ldAcqX (h : Hdr) (f : Full)
  /-- Generic store with scaled index register. R335. -/
  | stX (h : Hdr) (f : Full)
  /-- Generic release store with scaled index register. R335. -/
  | stRelX (h : Hdr) (f : Full)
  /-- Scratchpad load with immediate offset. R338. -/
  | lds (h : Hdr) (f : Full)
  /-- Scratchpad acquire load with immediate offset. R339. -/
  | ldsAcq (h : Hdr) (f : Full)
  /-- Scratchpad store with immediate offset. R338. -/
  | sts (h : Hdr) (f : Full)
  /-- Scratchpad release store with immediate offset. R339. -/
  | stsRel (h : Hdr) (f : Full)
  /-- Scratchpad load with scaled index. R335. -/
  | ldsX (h : Hdr) (f : Full)
  /-- Scratchpad acquire load with scaled index. R335. -/
  | ldsAcqX (h : Hdr) (f : Full)
  /-- Scratchpad store with scaled index. R335. -/
  | stsX (h : Hdr) (f : Full)
  /-- Scratchpad release store with scaled index. R335. -/
  | stsRelX (h : Hdr) (f : Full)
  /-- Private-space load with immediate offset. R343. -/
  | ldp (h : Hdr) (f : Full)
  /-- Private-space store with immediate offset. R343. -/
  | stp (h : Hdr) (f : Full)
  /-- Private-space load with scaled index. R343. -/
  | ldpX (h : Hdr) (f : Full)
  /-- Private-space store with scaled index. R343. -/
  | stpX (h : Hdr) (f : Full)
  /-- Constant-route load through the core constant cache. R342. -/
  | ldc (h : Hdr) (f : Full)
  /-- Constant-route load with scaled index. R342. -/
  | ldcX (h : Hdr) (f : Full)
  /-- Read one tensor element through a shape record on route 3. R344. -/
  | ldt (h : Hdr) (f : Full)
  /-- Prefetch a line into the gathering or the L2 home, with no event. R345. -/
  | pref (h : Hdr) (f : Full)
  /-- Prefetch with scaled index. R345. -/
  | prefX (h : Hdr) (f : Full)
  /-- Generic integer atomic returning the old value. R347. -/
  | atom (h : Hdr) (f : Full)
  /-- Generic floating-point atomic returning the old value. R347. -/
  | atomF (h : Hdr) (f : Full)
  /-- Generic compare-and-swap. R347. -/
  | atomCas (h : Hdr) (f : Full)
  /-- Generic integer reduction without a returned value. R347. -/
  | red (h : Hdr) (f : Full)
  /-- Generic floating-point reduction without a returned value. R347. -/
  | redF (h : Hdr) (f : Full)
  /-- Scratchpad integer atomic. R347. -/
  | atoms (h : Hdr) (f : Full)
  /-- Scratchpad floating-point atomic. R347. -/
  | atomsF (h : Hdr) (f : Full)
  /-- Scratchpad compare-and-swap. R347. -/
  | atomsCas (h : Hdr) (f : Full)
  /-- Push one entry per active thread into a folio FIFO, blocking for room. R350. -/
  | fpush (h : Hdr) (f : Full)
  /-- Pop one entry per active thread from a folio FIFO, blocking for entries. R350. -/
  | fpop (h : Hdr) (f : Full)
  /-- Non-blocking push reporting success in a predicate. R351. -/
  | fpushNb (h : Hdr) (f : Full)
  /-- Non-blocking pop reporting success in a predicate. R351. -/
  | fpopNb (h : Hdr) (f : Full)
  /-- Filtered texture sample with implicit level of detail. R360. -/
  | tex (h : Hdr) (f : Full)
  /-- Filtered texture sample at an explicit level. R359. -/
  | texL (h : Hdr) (f : Full)
  /-- Filtered texture sample with explicit gradients. R359. -/
  | texG (h : Hdr) (f : Full)
  /-- Depth-compare texture sample. R361. -/
  | texC (h : Hdr) (f : Full)
  /-- Four-texel gather of one channel. R361. -/
  | tex4 (h : Hdr) (f : Full)
  /-- Unfiltered texel fetch at integer coordinates with address modes. R362. -/
  | tld (h : Hdr) (f : Full)
  /-- Multisample texel fetch. R362. -/
  | tldMs (h : Hdr) (f : Full)
  /-- Query image extents and level count. R362. -/
  | tqry (h : Hdr) (f : Full)
  /-- Query the computed level of detail. R359. -/
  | tqryLod (h : Hdr) (f : Full)
  /-- Image load with format decoding and no address mode. R362. -/
  | imld (h : Hdr) (f : Full)
  /-- Image load of raw texel bytes. R362. -/
  | imldRaw (h : Hdr) (f : Full)
  /-- Image store with format conversion. R363. -/
  | imst (h : Hdr) (f : Full)
  /-- Image store of raw texel bytes. R363. -/
  | imstRaw (h : Hdr) (f : Full)
  /-- Memory fence at a scope. R365. -/
  | fence (h : Hdr) (f : Full)
  /-- Path fence from a writing route to a reading route, expiring lease lines. R366. -/
  | pfence (h : Hdr) (f : Full)
  /-- Drop the context's record-cache entries in the gathering. R367. -/
  | rfence (h : Hdr) (f : Full)
  /-- Initialise a barrier number at core or folio scope. R369. -/
  | barinit (h : Hdr) (f : Full)
  /-- Arrive once per active thread on a barrier, returning a phase token. R370. -/
  | bararr (h : Hdr) (f : Full)
  /-- Arrive a counted number of units per thread on a barrier. R370. -/
  | bararrN (h : Hdr) (f : Full)
  /-- Block until a barrier phase past the token completes, then acquire. R371. -/
  | barwait (h : Hdr) (f : Full)
  /-- Test whether a barrier phase past the token has completed. R371. -/
  | bartest (h : Hdr) (f : Full)
  /-- Invalidate every instance of a barrier number. R369. -/
  | barinval (h : Hdr) (f : Full)
  /-- Folio-wide barrier with release and acquire at folio scope. R372. -/
  | fbar (h : Hdr) (f : Full)
  /-- Block until named tags are neither collecting nor running. R373. -/
  | tagwait (h : Hdr) (f : Full)
  /-- Block until a masked tag is done, returning the lowest done tag. R373. -/
  | tagany (h : Hdr) (f : Full)
  /-- Return the lowest done masked tag without blocking. R373. -/
  | tagffr (h : Hdr) (f : Full)
  /-- Test whether one tag is done. R373. -/
  | tagtest (h : Hdr) (f : Full)
  /-- Read a tag's state and last copy status. R374. -/
  | tagrd (h : Hdr) (f : Full)
  /-- Matrix multiply, N 8, B in scratchpad, fresh accumulator. R381. -/
  | mmaN8Sp (h : Hdr) (f : Mat)
  /-- Matrix multiply, N 16, B in scratchpad, fresh accumulator. R381. -/
  | mmaN16Sp (h : Hdr) (f : Mat)
  /-- Matrix multiply, N 32, B in scratchpad, fresh accumulator. R381. -/
  | mmaN32Sp (h : Hdr) (f : Mat)
  /-- Matrix multiply, N 64, B in scratchpad, fresh accumulator. R381. -/
  | mmaN64Sp (h : Hdr) (f : Mat)
  /-- Matrix multiply-accumulate, N 8, B in scratchpad. R381. -/
  | mmaN8SpAcc (h : Hdr) (f : Mat)
  /-- Matrix multiply-accumulate, N 16, B in scratchpad. R381. -/
  | mmaN16SpAcc (h : Hdr) (f : Mat)
  /-- Matrix multiply-accumulate, N 32, B in scratchpad. R381. -/
  | mmaN32SpAcc (h : Hdr) (f : Mat)
  /-- Matrix multiply-accumulate, N 64, B in scratchpad. R381. -/
  | mmaN64SpAcc (h : Hdr) (f : Mat)
  /-- Matrix multiply, N 8, B through a shape record. R381. -/
  | mmaN8Gl (h : Hdr) (f : Mat)
  /-- Matrix multiply, N 16, B through a shape record. R381. -/
  | mmaN16Gl (h : Hdr) (f : Mat)
  /-- Matrix multiply, N 32, B through a shape record. R381. -/
  | mmaN32Gl (h : Hdr) (f : Mat)
  /-- Matrix multiply, N 64, B through a shape record. R381. -/
  | mmaN64Gl (h : Hdr) (f : Mat)
  /-- Matrix multiply-accumulate, N 8, B through a shape record. R381. -/
  | mmaN8GlAcc (h : Hdr) (f : Mat)
  /-- Matrix multiply-accumulate, N 16, B through a shape record. R381. -/
  | mmaN16GlAcc (h : Hdr) (f : Mat)
  /-- Matrix multiply-accumulate, N 32, B through a shape record. R381. -/
  | mmaN32GlAcc (h : Hdr) (f : Mat)
  /-- Matrix multiply-accumulate, N 64, B through a shape record. R381. -/
  | mmaN64GlAcc (h : Hdr) (f : Mat)
  /-- Block-scaled matrix multiply, N 8, B in scratchpad. R381. -/
  | mmasN8Sp (h : Hdr) (f : Mat)
  /-- Block-scaled matrix multiply, N 16, B in scratchpad. R381. -/
  | mmasN16Sp (h : Hdr) (f : Mat)
  /-- Block-scaled matrix multiply, N 32, B in scratchpad. R381. -/
  | mmasN32Sp (h : Hdr) (f : Mat)
  /-- Block-scaled matrix multiply, N 64, B in scratchpad. R381. -/
  | mmasN64Sp (h : Hdr) (f : Mat)
  /-- Block-scaled multiply-accumulate, N 8, B in scratchpad. R381. -/
  | mmasN8SpAcc (h : Hdr) (f : Mat)
  /-- Block-scaled multiply-accumulate, N 16, B in scratchpad. R381. -/
  | mmasN16SpAcc (h : Hdr) (f : Mat)
  /-- Block-scaled multiply-accumulate, N 32, B in scratchpad. R381. -/
  | mmasN32SpAcc (h : Hdr) (f : Mat)
  /-- Block-scaled multiply-accumulate, N 64, B in scratchpad. R381. -/
  | mmasN64SpAcc (h : Hdr) (f : Mat)
  /-- Block-scaled matrix multiply, N 8, B through a record. R381. -/
  | mmasN8Gl (h : Hdr) (f : Mat)
  /-- Block-scaled matrix multiply, N 16, B through a record. R381. -/
  | mmasN16Gl (h : Hdr) (f : Mat)
  /-- Block-scaled matrix multiply, N 32, B through a record. R381. -/
  | mmasN32Gl (h : Hdr) (f : Mat)
  /-- Block-scaled matrix multiply, N 64, B through a record. R381. -/
  | mmasN64Gl (h : Hdr) (f : Mat)
  /-- Block-scaled multiply-accumulate, N 8, B through a record. R381. -/
  | mmasN8GlAcc (h : Hdr) (f : Mat)
  /-- Block-scaled multiply-accumulate, N 16, B through a record. R381. -/
  | mmasN16GlAcc (h : Hdr) (f : Mat)
  /-- Block-scaled multiply-accumulate, N 32, B through a record. R381. -/
  | mmasN32GlAcc (h : Hdr) (f : Mat)
  /-- Block-scaled multiply-accumulate, N 64, B through a record. R381. -/
  | mmasN64GlAcc (h : Hdr) (f : Mat)
  /-- Contribute a slice of plain ranges copied from memory to scratchpad. R389. -/
  | cpy (h : Hdr) (f : Copy)
  /-- Contribute a slice of record boxes copied from memory to scratchpad. R390. -/
  | cpyR (h : Hdr) (f : Copy)
  /-- Contribute a slice of plain ranges copied from scratchpad to memory. R389. -/
  | cpyw (h : Hdr) (f : Copy)
  /-- Contribute a slice of record boxes copied from scratchpad to memory. R390. -/
  | cpywR (h : Hdr) (f : Copy)
  /-- Contribute a slice of a multicast record copy into several cores' shares. R390. -/
  | cpym (h : Hdr) (f : Copy)
  /-- Contribute a slice copying scratchpad ranges to a peer window. R389. -/
  | cpyp (h : Hdr) (f : Copy)
  /-- Contribute a slice copying memory ranges to a peer window. R389. -/
  | cpypM (h : Hdr) (f : Copy)
  /-- Contribute a slice adding scratchpad boxes into generic memory. R390. -/
  | cpyrd (h : Hdr) (f : Copy)
  /-- Contribute a slice adding scratchpad boxes into a peer window. R390. -/
  | cpyrdP (h : Hdr) (f : Copy)
  /-- Contribute a slice gathering indexed rows of a record into scratchpad. R391. -/
  | cpyg (h : Hdr) (f : Copy)
  /-- Draw random bits for one tensor element per thread. R393. -/
  | rng (h : Hdr) (f : Full)
  /-- Append launch records to free spawn slots of the task graph. R394. -/
  | spawn (h : Hdr) (f : Full)
  /-- Signal a graph event by decrementing a slot's dependence count. R395. -/
  | gsig (h : Hdr) (f : Full)
  /-- Fill a shape record into the record cache and report on it. R396. -/
  | recld (h : Hdr) (f : Full)
  /-- Enter an ordered section once lower-ordered fragments are released. R432. -/
  | osenter (h : Hdr) (f : Full)
  /-- Leave an ordered section with a release. R432. -/
  | osexit (h : Hdr) (f : Full)
  /-- Append a node to a pixel's fragment list. R438. -/
  | lappend (h : Hdr) (f : Full)
  /-- Read the first node of a pixel's list. R438. -/
  | lfirst (h : Hdr) (f : Full)
  /-- Read a list node by index. R438. -/
  | lnext (h : Hdr) (f : Full)
  /-- Perspective-correct interpolation of a vertex attribute at the sample. R429. -/
  | interp (h : Hdr) (f : Full)
  /-- Attribute interpolation at an offset from the pixel centre. R429. -/
  | interpO (h : Hdr) (f : Full)
  /-- Flat attribute read from the first vertex. R429. -/
  | interpF (h : Hdr) (f : Full)
  /-- Retire the fragment and exit the thread at rally end. R430. -/
  | discard (h : Hdr) (f : Full)
  /-- Retire the fragment and continue as a helper. R430. -/
  | discardH (h : Hdr) (f : Full)
  /-- Write slots of a mesh vertex record. R425. -/
  | meshoutV (h : Hdr) (f : Full)
  /-- Write a mesh primitive record. R425. -/
  | meshoutP (h : Hdr) (f : Full)
  /-- Set the mesh folio's vertex and primitive counts. R425. -/
  | meshoutN (h : Hdr) (f : Full)
  /-- Allocate and enqueue a ray record from registers. R469. -/
  | trace (h : Hdr) (f : Full)
  /-- Allocate and enqueue a ray from an existing record image. R469. -/
  | traceRec (h : Hdr) (f : Full)
  /-- Block until the named ray is complete and return its status. R470. -/
  | twait (h : Hdr) (f : Full)
  /-- Block until every ray of the active threads is complete. R470. -/
  | twaitAll (h : Hdr) (f : Full)
  /-- Read a ray's hit block and free its record. R471. -/
  | thit (h : Hdr) (f : Full)
  /-- Offer a candidate hit distance for the routine's pending hit. R472. -/
  | ireport (h : Hdr) (f : Full)
  /-- Offer a candidate hit with attributes. R472. -/
  | ireportA (h : Hdr) (f : Full)
  /-- Release and re-enter the routine's ray into traversal with its pending hit. R473. -/
  | iresume (h : Hdr) (f : Full)
  /-- Re-enter the ray into traversal with no report. R473. -/
  | iresumeN (h : Hdr) (f : Full)
  /-- Mark one ray of the thread for cancellation. R474. -/
  | tcancel (h : Hdr) (f : Full)
  /-- Mark every incomplete ray of the active threads for cancellation. R474. -/
  | tcancelAll (h : Hdr) (f : Full)
  deriving DecidableEq, Repr

end Sys2Proof
end

