-- ==== Sys2Proof/Machine/Forms.lean ====
section
/-! DEFINITION. The forms of the instructions: for each opcode, how it uses the register fields of its word, and
which values of its class bits its entry assigns (R244 to R250, chapters 11 to 17).
The checks that need the state (the register count, the quire width, the stage) are made at issue. -/

namespace Sys2Proof

/-- The register files an operand may stand in (R242, R243, R47). -/
inductive RegFile where
  | v
  | s
  | p
  | q
  deriving DecidableEq, Repr

/-- One register operand: a block of `n` registers from `reg`, read or written. -/
structure Opnd where
  file : RegFile
  reg : Nat
  n : Nat
  write : Bool
  deriving DecidableEq, Repr

/-- How an instruction uses one of the fields D, A, B, C. -/
inductive Use where
  /-- Not used: the field and its flag are zero (R244). -/
  | zero
  /-- A block of registers; the field's flag (U for D) chooses vector or scalar. -/
  | reg (n : Nat)
  /-- A block of vector registers, the flag clear. -/
  | vec (n : Nat)
  /-- A block of scalar registers; a source has its flag set. -/
  | sca (n : Nat)
  /-- Predicates `pD` onward, or `qD` onward under U (R276). -/
  | prd (n : Nat)
  /-- One uniform predicate, whatever U. -/
  | qprd
  /-- The instruction's own bits, the flag clear. -/
  | raw
  deriving DecidableEq, Repr

/-- Whether the U flag may or must be set (R243). -/
inductive UMode where
  | no
  | may
  | must
  deriving DecidableEq, Repr

/-- An instruction's form: the use of its fields and the conditions of its entry. -/
structure Form where
  d : Use := .zero
  a : Use := .zero
  b : Use := .zero
  c : Use := .zero
  uni : UMode := .no
  /-- The old value of D, or the data in D, is a source. -/
  dRead : Bool := false
  /-- D is written. -/
  dWrite : Bool := true
  /-- The class bits and the instruction's own bits are ones its entry assigns. -/
  ok : Bool := true
  /-- Predicate operands that stand in other fields. -/
  extra : List Opnd := []
  deriving DecidableEq, Repr

/-- The timing kinds (R251). -/
inductive Timing where
  | short
  | medium
  | trans
  | fp64
  | inter
  | variable
  | control
  deriving DecidableEq, Repr

/-- The latency L of a fixed kind (R251). -/
def Timing.latency : Timing → Option Nat
  | .short => some 4
  | .medium => some 6
  | .trans => some 12
  | .fp64 => some 14
  | .inter => none
  | .variable => none
  | .control => none

/-- The issue period (R251). -/
def Timing.period : Timing → Nat
  | .trans => 4
  | .fp64 => 8
  | _ => 1

/-- Timing kind by opcode number (R251, R300, R368, R373, R432, R468). -/
def timingOf (op : Nat) : Timing :=
  if op ∈ [0x000, 0x001, 0x002, 0x003, 0x008, 0x009, 0x00B, 0x00C, 0x00D, 0x00E, 0x00F, 0x010, 0x011, 0x012,
      0x013, 0x014, 0x015, 0x016, 0x020, 0x028, 0x02A, 0x02B, 0x02C, 0x02D, 0x0A4, 0x0A5, 0x0A6, 0x0A8, 0x0A9,
      0x0AA, 0x0AB, 0x0B0, 0x0B1, 0x0B2, 0x0B3, 0x0B4, 0x0B5, 0x0C6] then .short
  else if 0x04B ≤ op ∧ op ≤ 0x052 then .trans
  else if 0x053 ≤ op ∧ op ≤ 0x056 then .fp64
  else if op < 0x0C0 ∨ op = 0x0EA then .medium
  else if op ∈ [0x0C0, 0x0C1, 0x0C2, 0x0C3, 0x0C4, 0x0C5, 0x0C7, 0x0C8, 0x0C9, 0x0E0, 0x0E1, 0x0E2] then .control
  else if op < 0x100 then .inter
  else if 0x160 ≤ op ∧ op ≤ 0x174 then .inter
  else if op ∈ [0x1C0, 0x1C1, 0x1D2, 0x1D3] then .inter
  else .variable

/-- Bit `k` of a class field. -/
def bitOf (x k : Nat) : Bool := x / 2 ^ k % 2 == 1

/-- Registers of a load or store by its size code (R336). -/
def sizeRegs (cls : Nat) : Nat :=
  match cls with
  | 3 => 2
  | 4 => 4
  | _ => 1

/-- A named predicate: `p` or, under U, `q` (R276). -/
def prdOpnd (u : Bool) (k : Nat) (w : Bool) : Opnd := ⟨if u then .q else .p, k, 1, w⟩

/-- The coordinates of an image form by DIM (R357). -/
def imgCoords (dim : Nat) : Nat :=
  match dim with
  | 0 => 1
  | 1 => 2
  | 2 => 3
  | 3 => 3
  | 4 => 3
  | 5 => 2
  | _ => 0

/-- The gradients of `TEX.grad` by DIM (R357). -/
def imgGrads (dim : Nat) : Nat :=
  match dim with
  | 0 => 1
  | 1 => 2
  | 2 => 3
  | 3 => 3
  | 4 => 2
  | _ => 0

/-- Width in bits of a `CVT` type code (R293). -/
def cvtWidth (ty : Nat) : Nat :=
  match ty with
  | 0 => 16
  | 1 => 16
  | 2 => 8
  | 3 => 8
  | 4 => 8
  | 5 => 8
  | 6 => 32
  | 7 => 32
  | 8 => 64
  | 9 => 8
  | 10 => 32
  | 11 => 16
  | 12 => 16
  | 13 => 64
  | 14 => 64
  | _ => 0

/-- The conditions on SR of `CVT` (R295). -/
def cvtSrOk (dt cls : Nat) : Bool :=
  !bitOf cls 2 || (dt < 4 && cls % 4 == 0)

/-- A binary form on single registers. -/
def formBin (ok : Bool) : Form := { d := .reg 1, a := .reg 1, b := .reg 1, uni := .may, ok := ok }
/-- A unary form on single registers. -/
def formUn (ok : Bool) : Form := { d := .reg 1, a := .reg 1, uni := .may, ok := ok }
/-- A ternary form on single registers. -/
def formTer (ok : Bool) : Form := { d := .reg 1, a := .reg 1, b := .reg 1, c := .reg 1, uni := .may, ok := ok }
/-- A form on blocks of two registers. -/
def formBin2 (ok : Bool) : Form := { d := .reg 2, a := .reg 2, b := .reg 2, uni := .may, ok := ok }
/-- A ternary form on blocks of two registers. -/
def formTer2 (ok : Bool) : Form := { d := .reg 2, a := .reg 2, b := .reg 2, c := .reg 2, uni := .may, ok := ok }
/-- A compare that writes `n` predicates from blocks of `m` registers. -/
def formCmp (n m : Nat) (ok : Bool) : Form := { d := .prd n, a := .reg m, b := .reg m, uni := .may, ok := ok }
/-- A word with no operand. -/
def formNone (ok : Bool) : Form := { ok := ok }

/-- An immediate-offset memory form (R335). -/
def formMem (d : Use) (base : Nat) (u : UMode) (store ok : Bool) : Form :=
  { d := d, a := .reg base, b := .raw, c := .raw, uni := u, dRead := store, dWrite := !store, ok := ok }
/-- An indexed memory form (R335): C holds SCL and, for `.ACQ` and `.REL`, SCOPE. -/
def formMemX (d : Use) (base : Nat) (u : UMode) (store ordered : Bool) (c : Nat) (ok : Bool) : Form :=
  { d := d, a := .reg base, b := .reg 1, c := .raw, uni := u, dRead := store, dWrite := !store,
    ok := ok && c < 64 && c / 8 ≤ 4 && (ordered || c % 8 == 0) }

/-- An image form (R357): `dRegs` destination registers, a block of `n` registers at B. -/
def formImg (d : Nat) (n : Nat) (store ok : Bool) : Form :=
  { d := .vec d, a := .sca 2, b := .reg n, c := .raw, dRead := store, dWrite := !store, ok := ok }

/-- The form of a word in the plain layout (R243), `e` being the registers of a FIFO entry (R349). -/
def fullForm (e : Nat) (op : Nat) (f : Full) : Form :=
  let cls := f.cls.toNat
  let c := f.c.toNat
  let b := f.b.toNat
  let a := f.a.toNat
  if op < 0x040 then
    match op with
    | 0x000 | 0x001 | 0x004 => formBin (cls < 4)
    | 0x002 | 0x003 => formUn (cls == 0 || cls == 2)
    | 0x005 | 0x008 | 0x009 => formBin (cls < 2)
    | 0x006 => formTer (cls < 4)
    | 0x007 => { formTer (cls < 2) with d := .reg 2 }
    | 0x00A => formTer (cls < 2)
    | 0x00B => formCmp 1 1 (cls % 16 ≤ 5)
    | 0x00C =>
      { formBin (cls < 4 && (bitOf cls 0 || c % 16 == 0) && (!f.u || (c % 16 < 8 && c / 16 < 8))) with
        c := .raw
        extra := prdOpnd f.u (c / 16) true :: (if bitOf cls 0 then [prdOpnd f.u (c % 16) false] else []) }
    | 0x00D | 0x00E | 0x00F | 0x012 | 0x013 | 0x014 | 0x015 => formBin (cls == 0)
    | 0x010 => formUn (cls == 0)
    | 0x011 => { formBin (cls == 0) with c := .raw, dRead := true }
    | 0x016 => formTer (cls < 2)
    | 0x017 | 0x018 | 0x019 => { formUn (cls < 2) with a := .reg (if bitOf cls 0 then 2 else 1) }
    | 0x01A =>
      { formUn (cls < 2) with
        d := .reg (if bitOf cls 0 then 2 else 1), a := .reg (if bitOf cls 0 then 2 else 1) }
    | 0x01B => formBin (cls < 2)
    | 0x01C | 0x01D => formTer (cls == 0)
    | 0x01E => if bitOf cls 0 then formTer (cls < 2) else formBin (cls < 2)
    | 0x01F => formBin (cls < 2)
    | 0x020 => { formBin (cls < 2) with d := .reg 2, a := .reg 2 }
    | 0x021 => { formTer (cls < 2) with d := .reg 2, c := .reg 2 }
    | _ => formNone false
  else if op < 0x080 then
    match op with
    | 0x040 | 0x041 => formBin (cls < 4)
    | 0x042 => formTer (cls < 4)
    | 0x043 | 0x044 | 0x045 | 0x046 => formBin (cls == 0)
    | 0x047 => formCmp 1 1 (cls < 12)
    | 0x048 => { formUn (cls < 4) with a := .reg (if cls % 4 == 1 then 2 else 1) }
    | 0x049 => formUn (cls < 4)
    | 0x04A => formUn (cls == 0)
    | 0x04B | 0x04C | 0x04D | 0x04E | 0x04F | 0x050 | 0x051 | 0x052 => formUn (cls < 4)
    | 0x053 | 0x054 => formBin2 (cls < 4)
    | 0x055 => formTer2 (cls < 4)
    | 0x056 => formCmp 1 2 (cls < 12)
    | 0x058 | 0x059 => formBin2 (cls < 4)
    | 0x05A => formTer2 (cls < 4)
    | 0x05B | 0x05C | 0x05D | 0x05E => formBin2 (cls == 0)
    | 0x05F => { formUn (cls < 4) with d := .reg 2, a := .reg 2 }
    | 0x060 => formCmp 2 2 (cls < 12)
    | _ => formNone false
  else if op < 0x0C0 then
    match op with
    | 0x080 | 0x081 | 0x085 | 0x086 => formBin (cls < 4)
    | 0x082 | 0x087 => formTer (cls < 4)
    | 0x083 | 0x084 => formBin (cls == 0 || cls == 4)
    | 0x088 | 0x089 | 0x08D | 0x08E => formBin2 (cls < 4)
    | 0x08A | 0x08F => formTer2 (cls < 4)
    | 0x08B | 0x08C => formBin2 (cls == 0 || cls == 4)
    | 0x094 | 0x095 => formCmp 2 1 (cls < 12)
    | 0x098 =>
      { formUn (cls < 16 && b / 16 < 15 && b % 16 < 15 && cvtSrOk (b / 16) cls) with
        d := .reg (if cvtWidth (b / 16) == 64 then 2 else 1)
        a := .reg (if cvtWidth (b % 16) == 64 then 2 else 1)
        b := .raw
        c := if bitOf cls 2 then .reg 1 else .zero }
    | 0x099 =>
      { formUn (cls < 16 && cvtWidth (b % 16) == 32 && (cvtWidth (b / 16) == 8 || cvtWidth (b / 16) == 16)
          && cvtSrOk (b / 16) cls) with
        a := .reg 2, b := .raw, c := if bitOf cls 2 then .reg 1 else .zero }
    | 0x09A =>
      { formUn (cls < 16 && cvtWidth (b % 16) == 32 && cvtWidth (b / 16) == 8 && cvtSrOk (b / 16) cls) with
        a := .reg 4, b := .raw, c := if bitOf cls 2 then .reg 2 else .zero }
    | 0x09B =>
      { formUn (cls < 16 && !bitOf cls 2 && cvtWidth (b / 16) == 32
          && (cvtWidth (b % 16) == 8 || cvtWidth (b % 16) == 16)) with d := .reg 2, b := .raw }
    | 0x09C =>
      { formUn (cls < 16 && !bitOf cls 2 && cvtWidth (b / 16) == 32 && cvtWidth (b % 16) == 8) with
        d := .reg 4, b := .raw }
    | 0x0A0 => formBin (cls == 0)
    | 0x0A1 => { formUn (cls == 0) with a := .reg 4 }
    | 0x0A2 => { formUn (cls < 2) with d := .reg 2 }
    | 0x0A3 => { formUn (cls < 2) with d := .reg 4 }
    | 0x0A4 => formUn (cls == 0)
    | 0x0A5 => { formUn (cls == 0) with d := .reg 2, a := .reg 2 }
    | 0x0A6 => { formUn (cls == 0) with d := .reg 4, a := .reg 4 }
    | 0x0AA =>
      { formBin (cls < 2 && c < 16 && (!f.u || c < 8)) with c := .raw, extra := [prdOpnd f.u (c % 16) false] }
    | 0x0B0 =>
      { d := .prd 1, a := .raw, b := .raw, c := .raw, ok := cls == 0 && a < 16
        extra := [prdOpnd false (a % 16) false, prdOpnd false (b % 16) false, prdOpnd false (b / 16) false] }
    | 0x0B1 =>
      { d := .prd 1, a := .raw, b := .raw, c := .raw, uni := .must
        ok := cls == 0 && a < 8 && b % 16 < 8 && b / 16 < 8
        extra := [prdOpnd true (a % 16) false, prdOpnd true (b % 16) false, prdOpnd true (b / 16) false] }
    | 0x0B2 =>
      { a := .vec 1, b := .raw, c := .raw, ok := cls == 0 && b % 2 == 0
        extra := ((List.range 16).filter fun k => bitOf (b + 256 * c) k).map fun k => prdOpnd false k true }
    | 0x0B3 =>
      { d := .vec 1, ok := cls == 0, extra := [⟨.p, 1, 15, false⟩] }
    | 0x0B4 =>
      { a := .sca 1, b := .raw, uni := .must, ok := cls == 0 && b % 2 == 0
        extra := ((List.range 8).filter fun k => bitOf b k).map fun k => prdOpnd true k true }
    | 0x0B5 => { d := .sca 1, uni := .must, ok := cls == 0, extra := [⟨.q, 1, 7, false⟩] }
    | _ => formNone false
  else if op < 0x100 then
    match op with
    | 0x0C2 => { a := .reg 2, ok := cls == 0 }
    | 0x0C4 => { d := .vec 4, a := .reg 2, ok := cls == 0 }
    | 0x0C5 => { a := .vec 4, ok := cls == 0 }
    | 0x0C8 | 0x0C9 | 0x0CA | 0x0CC => formNone (cls == 0)
    | 0x0CB => { a := .raw, b := .raw, ok := cls == 0 }
    | 0x0D0 =>
      { d := if cls % 8 < 3 then (if bitOf cls 4 then .qprd else .prd 1)
             else if bitOf cls 4 then .sca 2 else .vec 2
        a := .raw, ok := cls % 8 ≤ 3 && a < 16, extra := [⟨.p, a % 16, 1, false⟩] }
    | 0x0D1 => { d := .vec 1, a := .reg 1, b := .reg 1, ok := cls / 4 ≤ 6 }
    | 0x0D3 => { d := .vec 1, a := .reg 1, ok := cls < 16 && cls % 8 ≤ 5 && (cls < 8 || cls % 8 ≤ 2) }
    | 0x0D4 => { d := .vec 1, a := .reg 1, ok := cls % 8 ≤ 4 && (cls < 8 || cls % 8 == 0) }
    | 0x0D5 =>
      { d := .vec 1, a := .reg 1, b := .raw, ok := cls < 16 && cls % 8 ≤ 5 && (cls < 8 || cls % 8 ≤ 2) && b < 2 }
    | 0x0D6 => { d := .vec 1, a := .reg 1, b := .raw, ok := cls % 8 ≤ 4 && (cls < 8 || cls % 8 == 0) && b < 2 }
    | 0x0D7 => { d := .vec 2, a := .reg (if bitOf cls 0 then 2 else 1), ok := cls < 2 }
    | 0x0D8 =>
      { d := .sca 1, a := .vec 1
        b := if cls == 0 then .raw else if cls == 1 then .sca 1 else .zero
        ok := cls ≤ 2 && (cls != 0 || b < 64) }
    | 0x0D9 =>
      { d := .vec 1, a := .sca 1, b := if cls == 0 then .raw else .sca 1, ok := cls ≤ 1 && (cls != 0 || b < 64) }
    | 0x0E1 => formNone (cls < 8)
    | 0x0E2 => { a := if cls == 1 then .reg 1 else .zero, b := if cls == 1 then .zero else .raw, ok := cls < 2 }
    | 0x0E3 => { d := .vec 1, ok := cls == 0 }
    | 0x0E8 => { b := .raw, ok := cls == 0 && b != 0 }
    | 0x0E9 => { b := .raw, ok := cls == 0 && b < 2 }
    | 0x0EA =>
      { d := .reg (if a == 10 || a == 12 then 2 else 1), a := .raw, uni := .may
        ok := cls < 2 && a ≤ 12 && (cls == 0 || a ∈ [1, 7, 8, 9, 10]) && (!f.u || a != 0) }
    | _ => formNone false
  else if op < 0x140 then
    let n := sizeRegs cls
    match op with
    | 0x100 | 0x101 | 0x124 => formMem (.reg n) 2 .may false (cls ≤ 6)
    | 0x102 | 0x103 => formMem (.reg n) 2 .may true (cls ≤ 4)
    | 0x104 => formMem (.reg n) 2 .no false (cls ≤ 6)
    | 0x108 | 0x125 => formMemX (.reg n) 2 .may false false c (cls ≤ 6)
    | 0x109 => formMemX (.reg n) 2 .may false true c (cls ≤ 6)
    | 0x10A => formMemX (.reg n) 2 .may true false c (cls ≤ 4)
    | 0x10B => formMemX (.reg n) 2 .may true true c (cls ≤ 4)
    | 0x110 | 0x111 => formMem (.reg n) 1 .may false (cls ≤ 6)
    | 0x112 | 0x113 => formMem (.reg n) 1 .may true (cls ≤ 4)
    | 0x118 => formMemX (.reg n) 1 .may false false c (cls ≤ 6)
    | 0x119 => formMemX (.reg n) 1 .may false true c (cls ≤ 6)
    | 0x11A => formMemX (.reg n) 1 .may true false c (cls ≤ 4)
    | 0x11B => formMemX (.reg n) 1 .may true true c (cls ≤ 4)
    | 0x120 => formMem (.reg n) 1 .no false (cls ≤ 6)
    | 0x121 => formMem (.reg n) 1 .no true (cls ≤ 4)
    | 0x122 => formMemX (.reg n) 1 .no false false c (cls ≤ 6)
    | 0x123 => formMemX (.reg n) 1 .no true false c (cls ≤ 4)
    | 0x126 =>
      { d := .reg 1, a := .sca 2, b := .reg c, c := .raw, uni := .may, ok := cls == 0 && 1 ≤ c && c ≤ 5 }
    | 0x128 => { formMem .zero 2 .no false (cls < 4 && f.csel == 0 && !f.cen) with dWrite := false }
    | 0x129 => { formMemX .zero 2 .no false false c (cls < 4 && f.csel == 0 && !f.cen) with dWrite := false }
    | _ => formNone false
  else if op < 0x180 then
    match op with
    | 0x140 | 0x143 | 0x145 =>
      let n := if bitOf cls 4 then 2 else 1
      { d := if op == 0x143 then .zero else .reg n
        a := .reg (if op == 0x145 then 1 else 2), b := .reg n, c := .raw, uni := .may
        ok := cls % 8 ≤ 6 && (!bitOf cls 3 || cls % 8 == 1 || cls % 8 == 2) && c < 32
          && (op != 0x143 || c / 8 % 2 == 0) }
    | 0x141 | 0x144 | 0x146 =>
      let n := if cls / 8 == 1 then 2 else 1
      { d := if op == 0x144 then .zero else .reg n
        a := .reg (if op == 0x146 then 1 else 2), b := .reg n, c := .raw, uni := .may
        ok := cls % 8 ≤ 4 && c < 32 && (op != 0x144 || c / 8 % 2 == 0) }
    | 0x142 | 0x147 =>
      let n := if bitOf cls 4 then 2 else 1
      { d := .reg n, a := .reg (if op == 0x147 then 1 else 2), b := .reg (2 * n), c := .raw, uni := .may
        ok := cls % 16 == 0 && c < 32 }
    | 0x148 => { d := .vec e, a := .raw, dRead := true, dWrite := false, ok := cls == 0 && a < 8 }
    | 0x149 => { d := .vec e, a := .raw, ok := cls == 0 && a < 8 }
    | 0x14A =>
      { d := .vec e, a := .raw, c := .raw, dRead := true, dWrite := false, ok := cls == 0 && a < 8 && c < 16
        extra := [prdOpnd false (c % 16) true] }
    | 0x14B =>
      { d := .vec e, a := .raw, c := .raw, ok := cls == 0 && a < 8 && c < 16
        extra := [prdOpnd false (c % 16) true] }
    | 0x150 => formImg (if bitOf cls 0 then 2 else 4) (imgCoords c) false (cls < 2 && c < 5)
    | 0x151 => formImg (if bitOf cls 0 then 2 else 4) (imgCoords c + 1) false (cls < 2 && c < 5)
    | 0x152 => formImg (if bitOf cls 0 then 2 else 4) (imgCoords c + 2 * imgGrads c) false (cls < 2 && c < 5)
    | 0x153 => formImg 1 (imgCoords c + 1) false (cls == 0 && c < 5)
    | 0x154 => formImg 4 (imgCoords c) false (cls < 8 && !bitOf cls 0 && c < 5 && c != 0 && c != 2)
    | 0x155 => formImg (if bitOf cls 0 then 2 else 4) (imgCoords c + 1) false (cls < 2 && c < 5)
    | 0x156 => formImg (if bitOf cls 0 then 2 else 4) 3 false (cls < 2 && c == 5)
    | 0x158 => formImg 4 1 false (cls == 0 && c < 6)
    | 0x159 => formImg 2 (imgCoords c) false (cls == 0 && c < 5)
    | 0x15A => formImg (if bitOf cls 0 then 2 else 4) (imgCoords c + 1) false (cls < 2 && c < 6)
    | 0x15B => formImg 4 (imgCoords c + 1) false (cls == 0 && c < 6)
    | 0x15C => formImg 4 (imgCoords c + 1) true (cls < 2 && c < 6)
    | 0x15D => formImg 4 (imgCoords c + 1) true (cls == 0 && c < 6)
    | 0x160 => formNone (cls < 8)
    | 0x161 => formNone (cls < 16 && (cls % 4 == 0 || cls % 4 == 3) && cls / 4 != 0)
    | 0x162 => formNone (cls == 0)
    | 0x168 => { a := .sca 1, c := .raw, ok := c < 2 }
    | 0x169 => { d := .reg 1, uni := .may }
    | 0x16A => { d := .reg 1, a := .reg 1, uni := .may }
    | 0x16B => { a := .reg 1 }
    | 0x16C => { d := .prd 1, a := .reg 1, uni := .may }
    | 0x16D => formNone true
    | 0x16E => formNone (cls == 0)
    | 0x170 => if cls == 1 then { a := .sca 2 } else { b := .raw, ok := cls == 0 && b < 64 }
    | 0x171 | 0x172 => { d := .reg 1, a := .sca 2, uni := .may, ok := cls == 0 }
    | 0x173 => { d := .prd 1, b := .raw, uni := .may, ok := cls == 0 && b < 64 }
    | 0x174 => { d := .reg 1, b := .raw, uni := .may, ok := cls == 0 && b < 64 }
    | _ => formNone false
  else if op < 0x1C0 then
    match op with
    | 0x1B0 =>
      { d := .reg (if cls / 8 == 0 then 1 else if cls / 8 == 1 then 2 else 4)
        a := .sca 2, b := .reg (cls % 8), c := .reg 1, uni := .may
        ok := cls / 8 ≤ 2 && 1 ≤ cls % 8 && cls % 8 ≤ 5 }
    | 0x1B1 =>
      { d := .reg 1, a := .reg 2, c := .raw, uni := .may, ok := cls == 0 && c < 16 && (!f.u || c < 8)
        extra := [prdOpnd f.u (c % 16) true] }
    | 0x1B2 => { a := .reg 1, uni := .may, ok := cls == 0 }
    | 0x1B3 => { d := .sca 1, a := .sca 2, uni := .must, ok := cls == 0 }
    | _ => formNone false
  else
    match op with
    | 0x1C0 | 0x1C1 | 0x1C8 | 0x1C9 => formNone (cls == 0)
    | 0x1C2 =>
      { d := .vec 1, a := if bitOf cls 0 then .zero else .reg 1, b := .reg 4, ok := cls < 2 }
    | 0x1C3 => { d := .vec 4, a := .reg 1, ok := cls == 0 }
    | 0x1C4 => { d := .vec 4, a := .reg 1, b := .reg 1, ok := cls == 0 }
    | 0x1C5 | 0x1C7 => { d := .vec 1, b := .raw, ok := cls == 0 && b < 32 }
    | 0x1C6 => { d := .vec 1, a := .reg 1, b := .raw, ok := cls == 0 && b < 32 }
    | 0x1CA => { a := .reg 1, b := .vec (cls + 1), c := .raw, ok := cls < 8 && c + cls + 1 ≤ 36 }
    | 0x1CB => { a := .reg 1, b := .reg 1, ok := cls == 0 }
    | 0x1CC => { a := .sca 1, b := .sca 1, uni := .must, ok := cls == 0 }
    | 0x1D0 =>
      { d := .vec 1, a := .reg 8, b := .sca 3, c := if cls == 0 then .zero else .reg (4 * cls) }
    | 0x1D1 => { d := .vec 1, a := .reg 2, ok := cls == 0 }
    | 0x1D2 => { d := .vec 1, a := .reg 1, ok := cls == 0 }
    | 0x1D3 | 0x1D7 | 0x1D8 | 0x1DA => formNone (cls == 0)
    | 0x1D4 => { d := .vec 6, a := .reg 1, ok := cls == 0 }
    | 0x1D5 => { d := .prd 1, a := .reg 1, ok := cls == 0 }
    | 0x1D6 => { d := .prd 1, a := .reg 1, b := .reg 2, ok := cls == 0 }
    | 0x1D9 => { a := .reg 1, ok := cls == 0 }
    | _ => formNone false

/-- The form of an immediate twin (R245). -/
def immForm (op : Nat) (f : Imm) : Form :=
  let clb := f.clb.toNat
  match op with
  | 0x028 | 0x029 => formUn (clb < 4)
  | 0x02A | 0x02B | 0x02C => formUn (clb == 0)
  | 0x02D => { d := .prd 1, a := .reg 1, uni := .may, ok := clb < 32 && clb % 16 ≤ 5 }
  | 0x068 | 0x069 => formUn (clb < 4)
  | 0x06A => { formUn (clb < 4) with dRead := true }
  | 0x06B | 0x06C => formUn (clb == 0)
  | 0x06D => { d := .prd 1, a := .reg 1, uni := .may, ok := clb < 12 }
  | 0x090 | 0x091 | 0x092 | 0x093 => formUn (clb < 4 && f.imm.toNat < 65536)
  | 0x0AB =>
    { formUn (clb < 32 && (!f.u || clb % 16 < 8)) with extra := [prdOpnd f.u (clb % 16) false] }
  | 0x0D2 => { d := .vec 1, a := .reg 1, ok := clb < 32 && clb / 4 ≤ 6 }
  | _ => formNone false

/-- Whether one use of a field is met: `flag` is the field's flag, `u` the U bit, `src` whether the field is a
source (R244). -/
def useOk (us : Use) (v : Nat) (flag u src : Bool) : Bool :=
  match us with
  | .zero => v == 0 && (!flag || !src)
  | .reg n => (!flag || v + n ≤ 128) && (flag || !u)
  | .vec _ => !flag
  | .sca n => (flag || !src) && v + n ≤ 128
  | .prd n => v + n ≤ (if u then 8 else 16)
  | .qprd => v < 8
  | .raw => !flag || !src

/-- Whether the U bit is one the form assigns. -/
def uniOk (m : UMode) (u : Bool) : Bool :=
  match m with
  | .no => !u
  | .may => true
  | .must => u

/-- A plain word is well formed (R244). -/
def fullWf (op : Nat) (h : Hdr) (f : Full) : Bool :=
  let m := fullForm 1 op f
  m.ok && uniOk m.uni f.u
    && useOk m.d f.d.toNat f.u f.u false && useOk m.a f.a.toNat f.sa f.u true
    && useOk m.b f.b.toNat f.sb f.u true && useOk m.c f.c.toNat f.sc f.u true
    && (timingOf op == .variable || (f.csel == 0 && !f.cen))
    && (op != 0x0C8 && op != 0x16E || (h.guard == 0 && !h.neg))

/-- An immediate twin is well formed (R245). -/
def immWf (op : Nat) (f : Imm) : Bool :=
  let m := immForm op f
  m.ok && uniOk m.uni f.u && useOk m.d f.d.toNat f.u f.u false && useOk m.a f.a.toNat f.sa f.u true

/-- LDI is well formed (R246): the scalar form names a scalar. -/
def ldiWf (op : Nat) (f : Ldi) : Bool := op != 0x0A9 || f.d.toNat < 128

/-- A direct transfer is well formed (R301, R305, R309). -/
def directWf (op : Nat) (h : Hdr) (f : Direct) : Bool :=
  match op with
  | 0x0C0 | 0x0C7 => f.d == 0 && f.cls == 0
  | 0x0C1 => f.d.toNat < 16 && f.cls == 0 && h.guard == 0
  | 0x0C3 | 0x0E0 => f.cls == 0
  | 0x0C6 => f.d == 0 && f.cls.toNat < 2 && (f.cls == 0 || f.off == 0)
  | _ => false

/-- A matrix word is well formed (R247, R380 check 1): the scalar blocks fit, BAR is zero without BV. -/
def matWf (op : Nat) (f : Mat) : Bool :=
  let regs := (if bitOf op 3 then 4 else 1) + (if bitOf op 4 then 1 else 0)
  f.sb.toNat + regs ≤ 128 && (!f.sf || f.f.toNat < 128) && (f.bv || f.bar == 0)

/-- Parameter registers of a copy (R387). -/
def copyParams (op : Nat) : Nat :=
  match op with
  | 0x1A0 => 1
  | 0x1A1 => 3
  | 0x1A2 => 1
  | 0x1A3 => 3
  | 0x1A4 => 4
  | 0x1A5 => 2
  | 0x1A6 => 2
  | 0x1A7 => 3
  | 0x1A8 => 4
  | _ => 3

/-- Whether a copy opcode is one of the record kinds that carry coordinates (R386, R387). -/
def copyIsBox (op : Nat) : Bool := op ∈ [0x1A1, 0x1A3, 0x1A4, 0x1A7, 0x1A8]

/-- Slice registers of a copy with `n` coordinates (R387). -/
def copySlice (op n : Nat) : Nat :=
  if copyIsBox op then n + 1 else if op == 0x1A6 then 5 else 4

/-- A copy word is well formed (R386, R388 check 1). -/
def copyWf (op : Nat) (f : Copy) : Bool :=
  let n := f.nc.toNat
  (if copyIsBox op then 1 ≤ n && n ≤ 5 else n == 0) && (f.bv || f.bar == 0)
    && (!f.sa || f.a.toNat + copySlice op n ≤ 128) && f.sb.toNat + copyParams op ≤ 128

/-- One half of a pair: a scalar source is below 128 (R248). -/
def halfWf (h : Half) : Bool := !h.as || h.a.toNat < 128

/-- The banks of a pair differ (R250). -/
def pairBanksOk (p r : Half) : Bool :=
  p.d.toNat % 4 != r.d.toNat % 4 && (p.as || r.as || p.a.toNat % 4 != r.a.toNat % 4)

/-- The six layouts of an F-form word, with their fields. -/
inductive Parts where
  | full (f : Full)
  | imm (f : Imm)
  | ldi (f : Ldi)
  | direct (f : Direct)
  | mat (f : Mat)
  | copy (f : Copy)
  deriving DecidableEq, Repr

/-- An F-form word of any layout is well formed. -/
def partsWf (op : Nat) (h : Hdr) (p : Parts) : Bool :=
  match p with
  | .full f => fullWf op h f
  | .imm f => immWf op f
  | .ldi f => ldiWf op f
  | .direct f => directWf op h f
  | .mat f => matWf op f
  | .copy f => copyWf op f

end Sys2Proof
end

