-- ==== Sys2Proof/WellFormed.lean ====
section
/-! DEFINITION. Well-formed instructions: the word of an instruction in parts, and the checks of R244 to R250 on
it (the tables of the checks stand in Machine/Forms.lean). -/

namespace Sys2Proof

/-- An instruction's word in parts: its opcode number (R260), header and fields. An event and the P-form word
have none. -/
def Instr.word : Instr → Option (Nat × Hdr × Parts)
  | .iadd h f => some (0x000, h, .full f)
  | .isub h f => some (0x001, h, .full f)
  | .ineg h f => some (0x002, h, .full f)
  | .iabs h f => some (0x003, h, .full f)
  | .imul h f => some (0x004, h, .full f)
  | .imulh h f => some (0x005, h, .full f)
  | .imad h f => some (0x006, h, .full f)
  | .imadw h f => some (0x007, h, .full f)
  | .imin h f => some (0x008, h, .full f)
  | .imax h f => some (0x009, h, .full f)
  | .isad h f => some (0x00a, h, .full f)
  | .icmp h f => some (0x00b, h, .full f)
  | .iaddc h f => some (0x00c, h, .full f)
  | .andBits h f => some (0x00d, h, .full f)
  | .orBits h f => some (0x00e, h, .full f)
  | .xorBits h f => some (0x00f, h, .full f)
  | .notBits h f => some (0x010, h, .full f)
  | .bop3 h f => some (0x011, h, .full f)
  | .shl h f => some (0x012, h, .full f)
  | .shr h f => some (0x013, h, .full f)
  | .sar h f => some (0x014, h, .full f)
  | .rotl h f => some (0x015, h, .full f)
  | .shf h f => some (0x016, h, .full f)
  | .popc h f => some (0x017, h, .full f)
  | .clz h f => some (0x018, h, .full f)
  | .ctz h f => some (0x019, h, .full f)
  | .brev h f => some (0x01a, h, .full f)
  | .bfx h f => some (0x01b, h, .full f)
  | .bfi h f => some (0x01c, h, .full f)
  | .bypr h f => some (0x01d, h, .full f)
  | .bilv h f => some (0x01e, h, .full f)
  | .bdlv h f => some (0x01f, h, .full f)
  | .aadd h f => some (0x020, h, .full f)
  | .amad h f => some (0x021, h, .full f)
  | .iaddI h f => some (0x028, h, .imm f)
  | .imulI h f => some (0x029, h, .imm f)
  | .andI h f => some (0x02a, h, .imm f)
  | .orI h f => some (0x02b, h, .imm f)
  | .xorI h f => some (0x02c, h, .imm f)
  | .icmpI h f => some (0x02d, h, .imm f)
  | .fadd h f => some (0x040, h, .full f)
  | .fmul h f => some (0x041, h, .full f)
  | .ffma h f => some (0x042, h, .full f)
  | .fmin h f => some (0x043, h, .full f)
  | .fmax h f => some (0x044, h, .full f)
  | .fminn h f => some (0x045, h, .full f)
  | .fmaxn h f => some (0x046, h, .full f)
  | .fcmp h f => some (0x047, h, .full f)
  | .fclass h f => some (0x048, h, .full f)
  | .frnd h f => some (0x049, h, .full f)
  | .ffrac h f => some (0x04a, h, .full f)
  | .frcp h f => some (0x04b, h, .full f)
  | .frsq h f => some (0x04c, h, .full f)
  | .fsqrt h f => some (0x04d, h, .full f)
  | .fexp2 h f => some (0x04e, h, .full f)
  | .flog2 h f => some (0x04f, h, .full f)
  | .fsin h f => some (0x050, h, .full f)
  | .fcos h f => some (0x051, h, .full f)
  | .ftanh h f => some (0x052, h, .full f)
  | .dadd h f => some (0x053, h, .full f)
  | .dmul h f => some (0x054, h, .full f)
  | .dfma h f => some (0x055, h, .full f)
  | .dcmp h f => some (0x056, h, .full f)
  | .faddX2 h f => some (0x058, h, .full f)
  | .fmulX2 h f => some (0x059, h, .full f)
  | .ffmaX2 h f => some (0x05a, h, .full f)
  | .fminX2 h f => some (0x05b, h, .full f)
  | .fmaxX2 h f => some (0x05c, h, .full f)
  | .fminnX2 h f => some (0x05d, h, .full f)
  | .fmaxnX2 h f => some (0x05e, h, .full f)
  | .frndX2 h f => some (0x05f, h, .full f)
  | .fcmpX2 h f => some (0x060, h, .full f)
  | .faddI h f => some (0x068, h, .imm f)
  | .fmulI h f => some (0x069, h, .imm f)
  | .ffmaI h f => some (0x06a, h, .imm f)
  | .fminI h f => some (0x06b, h, .imm f)
  | .fmaxI h f => some (0x06c, h, .imm f)
  | .fcmpI h f => some (0x06d, h, .imm f)
  | .hadd2 h f => some (0x080, h, .full f)
  | .hmul2 h f => some (0x081, h, .full f)
  | .hfma2 h f => some (0x082, h, .full f)
  | .hmin2 h f => some (0x083, h, .full f)
  | .hmax2 h f => some (0x084, h, .full f)
  | .badd2 h f => some (0x085, h, .full f)
  | .bmul2 h f => some (0x086, h, .full f)
  | .bfma2 h f => some (0x087, h, .full f)
  | .hadd2X2 h f => some (0x088, h, .full f)
  | .hmul2X2 h f => some (0x089, h, .full f)
  | .hfma2X2 h f => some (0x08a, h, .full f)
  | .hmin2X2 h f => some (0x08b, h, .full f)
  | .hmax2X2 h f => some (0x08c, h, .full f)
  | .badd2X2 h f => some (0x08d, h, .full f)
  | .bmul2X2 h f => some (0x08e, h, .full f)
  | .bfma2X2 h f => some (0x08f, h, .full f)
  | .hadd2I h f => some (0x090, h, .imm f)
  | .hmul2I h f => some (0x091, h, .imm f)
  | .badd2I h f => some (0x092, h, .imm f)
  | .bmul2I h f => some (0x093, h, .imm f)
  | .fcmpF16 h f => some (0x094, h, .full f)
  | .fcmpBf16 h f => some (0x095, h, .full f)
  | .cvt1 h f => some (0x098, h, .full f)
  | .cvt2 h f => some (0x099, h, .full f)
  | .cvt4 h f => some (0x09a, h, .full f)
  | .cvt2w h f => some (0x09b, h, .full f)
  | .cvt4w h f => some (0x09c, h, .full f)
  | .pack h f => some (0x0a0, h, .full f)
  | .packB8 h f => some (0x0a1, h, .full f)
  | .unpk h f => some (0x0a2, h, .full f)
  | .unpkB8 h f => some (0x0a3, h, .full f)
  | .mov h f => some (0x0a4, h, .full f)
  | .mov2 h f => some (0x0a5, h, .full f)
  | .mov4 h f => some (0x0a6, h, .full f)
  | .ldiV h f => some (0x0a8, h, .ldi f)
  | .ldiS h f => some (0x0a9, h, .ldi f)
  | .sel h f => some (0x0aa, h, .full f)
  | .selI h f => some (0x0ab, h, .imm f)
  | .plop h f => some (0x0b0, h, .full f)
  | .plopQ h f => some (0x0b1, h, .full f)
  | .v2p h f => some (0x0b2, h, .full f)
  | .p2v h f => some (0x0b3, h, .full f)
  | .v2pQ h f => some (0x0b4, h, .full f)
  | .p2vQ h f => some (0x0b5, h, .full f)
  | .bra h f => some (0x0c0, h, .direct f)
  | .brau h f => some (0x0c1, h, .direct f)
  | .jmpi h f => some (0x0c2, h, .full f)
  | .call h f => some (0x0c3, h, .direct f)
  | .calli h f => some (0x0c4, h, .full f)
  | .ret h f => some (0x0c5, h, .full f)
  | .meet h f => some (0x0c6, h, .direct f)
  | .brk h f => some (0x0c7, h, .direct f)
  | .yield h f => some (0x0c8, h, .full f)
  | .exitThread h f => some (0x0c9, h, .full f)
  | .nop h f => some (0x0ca, h, .full f)
  | .trap h f => some (0x0cb, h, .full f)
  | .bpt h f => some (0x0cc, h, .full f)
  | .vote h f => some (0x0d0, h, .full f)
  | .shfl h f => some (0x0d1, h, .full f)
  | .shflI h f => some (0x0d2, h, .imm f)
  | .qred h f => some (0x0d3, h, .full f)
  | .qredF h f => some (0x0d4, h, .full f)
  | .qscan h f => some (0x0d5, h, .full f)
  | .qscanF h f => some (0x0d6, h, .full f)
  | .matchBits h f => some (0x0d7, h, .full f)
  | .rdlane h f => some (0x0d8, h, .full f)
  | .wrlane h f => some (0x0d9, h, .full f)
  | .tryBegin h f => some (0x0e0, h, .direct f)
  | .commit h f => some (0x0e1, h, .full f)
  | .abortTry h f => some (0x0e2, h, .full f)
  | .tstat h f => some (0x0e3, h, .full f)
  | .regq h f => some (0x0e8, h, .full f)
  | .mode h f => some (0x0e9, h, .full f)
  | .movs h f => some (0x0ea, h, .full f)
  | .ld h f => some (0x100, h, .full f)
  | .ldAcq h f => some (0x101, h, .full f)
  | .st h f => some (0x102, h, .full f)
  | .stRel h f => some (0x103, h, .full f)
  | .ldChk h f => some (0x104, h, .full f)
  | .ldX h f => some (0x108, h, .full f)
  | .ldAcqX h f => some (0x109, h, .full f)
  | .stX h f => some (0x10a, h, .full f)
  | .stRelX h f => some (0x10b, h, .full f)
  | .lds h f => some (0x110, h, .full f)
  | .ldsAcq h f => some (0x111, h, .full f)
  | .sts h f => some (0x112, h, .full f)
  | .stsRel h f => some (0x113, h, .full f)
  | .ldsX h f => some (0x118, h, .full f)
  | .ldsAcqX h f => some (0x119, h, .full f)
  | .stsX h f => some (0x11a, h, .full f)
  | .stsRelX h f => some (0x11b, h, .full f)
  | .ldp h f => some (0x120, h, .full f)
  | .stp h f => some (0x121, h, .full f)
  | .ldpX h f => some (0x122, h, .full f)
  | .stpX h f => some (0x123, h, .full f)
  | .ldc h f => some (0x124, h, .full f)
  | .ldcX h f => some (0x125, h, .full f)
  | .ldt h f => some (0x126, h, .full f)
  | .pref h f => some (0x128, h, .full f)
  | .prefX h f => some (0x129, h, .full f)
  | .atom h f => some (0x140, h, .full f)
  | .atomF h f => some (0x141, h, .full f)
  | .atomCas h f => some (0x142, h, .full f)
  | .red h f => some (0x143, h, .full f)
  | .redF h f => some (0x144, h, .full f)
  | .atoms h f => some (0x145, h, .full f)
  | .atomsF h f => some (0x146, h, .full f)
  | .atomsCas h f => some (0x147, h, .full f)
  | .fpush h f => some (0x148, h, .full f)
  | .fpop h f => some (0x149, h, .full f)
  | .fpushNb h f => some (0x14a, h, .full f)
  | .fpopNb h f => some (0x14b, h, .full f)
  | .tex h f => some (0x150, h, .full f)
  | .texL h f => some (0x151, h, .full f)
  | .texG h f => some (0x152, h, .full f)
  | .texC h f => some (0x153, h, .full f)
  | .tex4 h f => some (0x154, h, .full f)
  | .tld h f => some (0x155, h, .full f)
  | .tldMs h f => some (0x156, h, .full f)
  | .tqry h f => some (0x158, h, .full f)
  | .tqryLod h f => some (0x159, h, .full f)
  | .imld h f => some (0x15a, h, .full f)
  | .imldRaw h f => some (0x15b, h, .full f)
  | .imst h f => some (0x15c, h, .full f)
  | .imstRaw h f => some (0x15d, h, .full f)
  | .fence h f => some (0x160, h, .full f)
  | .pfence h f => some (0x161, h, .full f)
  | .rfence h f => some (0x162, h, .full f)
  | .barinit h f => some (0x168, h, .full f)
  | .bararr h f => some (0x169, h, .full f)
  | .bararrN h f => some (0x16a, h, .full f)
  | .barwait h f => some (0x16b, h, .full f)
  | .bartest h f => some (0x16c, h, .full f)
  | .barinval h f => some (0x16d, h, .full f)
  | .fbar h f => some (0x16e, h, .full f)
  | .tagwait h f => some (0x170, h, .full f)
  | .tagany h f => some (0x171, h, .full f)
  | .tagffr h f => some (0x172, h, .full f)
  | .tagtest h f => some (0x173, h, .full f)
  | .tagrd h f => some (0x174, h, .full f)
  | .mmaN8Sp h f => some (0x180, h, .mat f)
  | .mmaN16Sp h f => some (0x181, h, .mat f)
  | .mmaN32Sp h f => some (0x182, h, .mat f)
  | .mmaN64Sp h f => some (0x183, h, .mat f)
  | .mmaN8SpAcc h f => some (0x184, h, .mat f)
  | .mmaN16SpAcc h f => some (0x185, h, .mat f)
  | .mmaN32SpAcc h f => some (0x186, h, .mat f)
  | .mmaN64SpAcc h f => some (0x187, h, .mat f)
  | .mmaN8Gl h f => some (0x188, h, .mat f)
  | .mmaN16Gl h f => some (0x189, h, .mat f)
  | .mmaN32Gl h f => some (0x18a, h, .mat f)
  | .mmaN64Gl h f => some (0x18b, h, .mat f)
  | .mmaN8GlAcc h f => some (0x18c, h, .mat f)
  | .mmaN16GlAcc h f => some (0x18d, h, .mat f)
  | .mmaN32GlAcc h f => some (0x18e, h, .mat f)
  | .mmaN64GlAcc h f => some (0x18f, h, .mat f)
  | .mmasN8Sp h f => some (0x190, h, .mat f)
  | .mmasN16Sp h f => some (0x191, h, .mat f)
  | .mmasN32Sp h f => some (0x192, h, .mat f)
  | .mmasN64Sp h f => some (0x193, h, .mat f)
  | .mmasN8SpAcc h f => some (0x194, h, .mat f)
  | .mmasN16SpAcc h f => some (0x195, h, .mat f)
  | .mmasN32SpAcc h f => some (0x196, h, .mat f)
  | .mmasN64SpAcc h f => some (0x197, h, .mat f)
  | .mmasN8Gl h f => some (0x198, h, .mat f)
  | .mmasN16Gl h f => some (0x199, h, .mat f)
  | .mmasN32Gl h f => some (0x19a, h, .mat f)
  | .mmasN64Gl h f => some (0x19b, h, .mat f)
  | .mmasN8GlAcc h f => some (0x19c, h, .mat f)
  | .mmasN16GlAcc h f => some (0x19d, h, .mat f)
  | .mmasN32GlAcc h f => some (0x19e, h, .mat f)
  | .mmasN64GlAcc h f => some (0x19f, h, .mat f)
  | .cpy h f => some (0x1a0, h, .copy f)
  | .cpyR h f => some (0x1a1, h, .copy f)
  | .cpyw h f => some (0x1a2, h, .copy f)
  | .cpywR h f => some (0x1a3, h, .copy f)
  | .cpym h f => some (0x1a4, h, .copy f)
  | .cpyp h f => some (0x1a5, h, .copy f)
  | .cpypM h f => some (0x1a6, h, .copy f)
  | .cpyrd h f => some (0x1a7, h, .copy f)
  | .cpyrdP h f => some (0x1a8, h, .copy f)
  | .cpyg h f => some (0x1a9, h, .copy f)
  | .rng h f => some (0x1b0, h, .full f)
  | .spawn h f => some (0x1b1, h, .full f)
  | .gsig h f => some (0x1b2, h, .full f)
  | .recld h f => some (0x1b3, h, .full f)
  | .osenter h f => some (0x1c0, h, .full f)
  | .osexit h f => some (0x1c1, h, .full f)
  | .lappend h f => some (0x1c2, h, .full f)
  | .lfirst h f => some (0x1c3, h, .full f)
  | .lnext h f => some (0x1c4, h, .full f)
  | .interp h f => some (0x1c5, h, .full f)
  | .interpO h f => some (0x1c6, h, .full f)
  | .interpF h f => some (0x1c7, h, .full f)
  | .discard h f => some (0x1c8, h, .full f)
  | .discardH h f => some (0x1c9, h, .full f)
  | .meshoutV h f => some (0x1ca, h, .full f)
  | .meshoutP h f => some (0x1cb, h, .full f)
  | .meshoutN h f => some (0x1cc, h, .full f)
  | .trace h f => some (0x1d0, h, .full f)
  | .traceRec h f => some (0x1d1, h, .full f)
  | .twait h f => some (0x1d2, h, .full f)
  | .twaitAll h f => some (0x1d3, h, .full f)
  | .thit h f => some (0x1d4, h, .full f)
  | .ireport h f => some (0x1d5, h, .full f)
  | .ireportA h f => some (0x1d6, h, .full f)
  | .iresume h f => some (0x1d7, h, .full f)
  | .iresumeN h f => some (0x1d8, h, .full f)
  | .tcancel h f => some (0x1d9, h, .full f)
  | .tcancelAll h f => some (0x1da, h, .full f)
  | _ => none

/-- An instruction is well formed: every check of R244 to R250 that the word alone decides. An event has no
word and is well formed. -/
def Instr.wf (i : Instr) : Bool :=
  match i with
  | .pformWord _ _ p r => halfWf p && halfWf r && pairBanksOk p r
  | i =>
    match i.word with
    | some (op, h, p) => partsWf op h p
    | none => true

end Sys2Proof
end

