-- ==== Sys2Proof/Decode.lean ====
section
/-! DEFINITION. The decoder and the encoder of 64-bit instruction words (R242 to R250, R260 to R262, R301, R375,
R386). Decoding is total: a word that is not an instruction is rejected by the name of the trap it takes (R261). -/

namespace Sys2Proof

/-- Why a word is no instruction, in the order in which R261 raises the reasons. -/
inductive DecodeErr where
  | illegalOpcode
  | illegalEncoding
  | pairBank
  deriving DecidableEq, Repr

/-- The layouts of F-form words (R242, R245, R246, R301, R375, R386). -/
inductive Layout where
  | full
  | imm
  | ldi
  | direct
  | mat
  | copy
  deriving DecidableEq, Repr

/-- The layout of each assigned opcode (R260); none for an unassigned one. -/
def layoutOf (op : Nat) : Option Layout :=
  if op ∈ [0x028, 0x029, 0x02a, 0x02b, 0x02c, 0x02d, 0x068, 0x069, 0x06a, 0x06b, 0x06c, 0x06d, 0x090, 0x091,
      0x092, 0x093, 0x0ab, 0x0d2] then some .imm
  else if op ∈ [0x0A8, 0x0A9] then some .ldi
  else if op ∈ [0x0C0, 0x0C1, 0x0C3, 0x0C6, 0x0C7, 0x0E0] then some .direct
  else if 0x180 ≤ op ∧ op ≤ 0x19F then some .mat
  else if 0x1A0 ≤ op ∧ op ≤ 0x1A9 then some .copy
  else if (0x000 ≤ op ∧ op ≤ 0x021) ∨ (0x040 ≤ op ∧ op ≤ 0x056) ∨ (0x058 ≤ op ∧ op ≤ 0x060) ∨ (0x080 ≤ op ∧ op ≤
      0x08f) ∨ (0x094 ≤ op ∧ op ≤ 0x095) ∨ (0x098 ≤ op ∧ op ≤ 0x09c) ∨ (0x0a0 ≤ op ∧ op ≤ 0x0a6) ∨ op = 0x0aa ∨
      (0x0b0 ≤ op ∧ op ≤ 0x0b5) ∨ op = 0x0c2 ∨ (0x0c4 ≤ op ∧ op ≤ 0x0c5) ∨ (0x0c8 ≤ op ∧ op ≤ 0x0cc) ∨ (0x0d0 ≤
      op ∧ op ≤ 0x0d1) ∨ (0x0d3 ≤ op ∧ op ≤ 0x0d9) ∨ (0x0e1 ≤ op ∧ op ≤ 0x0e3) ∨ (0x0e8 ≤ op ∧ op ≤ 0x0ea) ∨
      (0x100 ≤ op ∧ op ≤ 0x104) ∨ (0x108 ≤ op ∧ op ≤ 0x10b) ∨ (0x110 ≤ op ∧ op ≤ 0x113) ∨ (0x118 ≤ op ∧ op ≤
      0x11b) ∨ (0x120 ≤ op ∧ op ≤ 0x126) ∨ (0x128 ≤ op ∧ op ≤ 0x129) ∨ (0x140 ≤ op ∧ op ≤ 0x14b) ∨ (0x150 ≤ op
      ∧ op ≤ 0x156) ∨ (0x158 ≤ op ∧ op ≤ 0x15d) ∨ (0x160 ≤ op ∧ op ≤ 0x162) ∨ (0x168 ≤ op ∧ op ≤ 0x16e) ∨
      (0x170 ≤ op ∧ op ≤ 0x174) ∨ (0x1b0 ≤ op ∧ op ≤ 0x1b3) ∨ (0x1c0 ≤ op ∧ op ≤ 0x1cc) ∨ (0x1d0 ≤ op ∧ op ≤
      0x1da) then some .full
  else none

/-- The P-form opcodes in the order of OP6 (R262). -/
def pairOps : List PairOp :=
  [.iadd, .isub, .imul, .iminI32, .imaxI32, .iminN32, .imaxN32, .ineg, .iabs, .and, .or, .xor, .not, .shl, .shr,
   .sar, .rotl, .popc, .clz, .ctz, .brev, .fadd, .fmul, .fmin, .fmax, .fminn, .fmaxn, .frnd, .ffrac, .frcp, .frsq,
   .fsqrt, .fexp2, .flog2, .fsin, .fcos, .ftanh, .hadd2, .hmul2, .hmin2, .hmax2, .badd2, .bmul2, .mov,
   .cvtF32F16, .cvtF32Bf16, .cvtF32I32, .cvtI32F32]

/-- OP6 of a P-form opcode. -/
def pairCode (p : PairOp) : Nat := pairOps.idxOf p

/-- The header fields of an F-form word (R242). -/
def decodeHdr (w : Nat) : Hdr :=
  { last := w.testBit 63, stall := BitVec.ofNat 4 (w / 2 ^ 58), guard := BitVec.ofNat 4 (w / 2 ^ 45)
    neg := w.testBit 44 }

/-- The plain layout (R242, R243). -/
def decodeFull (w : Nat) : Full :=
  { d := BitVec.ofNat 8 (w / 2 ^ 36), a := BitVec.ofNat 8 (w / 2 ^ 28), b := BitVec.ofNat 8 (w / 2 ^ 20)
    c := BitVec.ofNat 8 (w / 2 ^ 12), sa := w.testBit 11, sb := w.testBit 10, sc := w.testBit 9, u := w.testBit 8
    csel := BitVec.ofNat 2 (w / 2 ^ 6), cen := w.testBit 5, cls := BitVec.ofNat 5 w }

/-- The immediate layout (R245). -/
def decodeImm (w : Nat) : Imm :=
  { d := BitVec.ofNat 8 (w / 2 ^ 36), a := BitVec.ofNat 8 (w / 2 ^ 28), sa := w.testBit 27, u := w.testBit 26
    clb := BitVec.ofNat 6 (w / 2 ^ 20), imm := BitVec.ofNat 20 w }

/-- The LDI layout (R246). -/
def decodeLdi (w : Nat) : Ldi :=
  { d := BitVec.ofNat 8 (w / 2 ^ 36)
    imm := BitVec.ofNat 8 (w / 2 ^ 28) ++ BitVec.ofNat 8 (w / 2 ^ 20) ++ BitVec.ofNat 16 w }

/-- The direct-target layout (R301). -/
def decodeDirect (w : Nat) : Direct :=
  { d := BitVec.ofNat 8 (w / 2 ^ 36), off := BitVec.ofNat 24 (w / 2 ^ 12), cls := BitVec.ofNat 5 w }

/-- The matrix layout (R375). -/
def decodeMat (w : Nat) : Mat :=
  { c := BitVec.ofNat 8 (w / 2 ^ 36), a := BitVec.ofNat 8 (w / 2 ^ 28), sb := BitVec.ofNat 8 (w / 2 ^ 20)
    f := BitVec.ofNat 8 (w / 2 ^ 12), ra := w.testBit 11, hc := w.testBit 10, sf := w.testBit 9, bv := w.testBit 8
    csel := BitVec.ofNat 2 (w / 2 ^ 6), cen := w.testBit 5, bar := BitVec.ofNat 5 w }

/-- The copy layout (R386). -/
def decodeCopy (w : Nat) : Copy :=
  { tag := BitVec.ofNat 6 (w / 2 ^ 36), a := BitVec.ofNat 8 (w / 2 ^ 28), sb := BitVec.ofNat 8 (w / 2 ^ 20)
    bv := w.testBit 19, bar := BitVec.ofNat 5 (w / 2 ^ 12), sa := w.testBit 11
    csel := BitVec.ofNat 2 (w / 2 ^ 6), cen := w.testBit 5, nc := BitVec.ofNat 3 w }

/-- The reserved bits of a layout (R246, R301, R386): nonzero traps ILLEGAL_ENCODING. -/
def reservedBits (l : Layout) (w : Nat) : Nat :=
  match l with
  | .ldi => bitsOf w 19 16
  | .direct => bitsOf w 11 5
  | .copy => bitsOf w 43 42 + bitsOf w 18 17 + bitsOf w 10 8 + bitsOf w 4 3
  | _ => 0

/-- The operand fields of an F-form word in its layout. -/
def decodeParts (l : Layout) (w : Nat) : Parts :=
  match l with
  | .full => .full (decodeFull w)
  | .imm => .imm (decodeImm w)
  | .ldi => .ldi (decodeLdi w)
  | .direct => .direct (decodeDirect w)
  | .mat => .mat (decodeMat w)
  | .copy => .copy (decodeCopy w)

/-- A P-form half (R248): its reserved bits stand below the AS bit. -/
def decodeHalf (x : Nat) : Option Half :=
  (pairOps[bitsOf x 28 23]?).map fun op =>
    { op := op, guard := BitVec.ofNat 3 (x / 2 ^ 20), neg := x.testBit 19, d := BitVec.ofNat 8 (x / 2 ^ 11)
      a := BitVec.ofNat 8 (x / 2 ^ 3), as := x.testBit 2 }

/-- The bits of a header with its opcode and D field. -/
def encodeHdr (op : Nat) (h : Hdr) (d : Nat) : Nat :=
  bit h.last * 2 ^ 63 + h.stall.toNat * 2 ^ 58 + op * 2 ^ 49 + h.guard.toNat * 2 ^ 45 + bit h.neg * 2 ^ 44
    + d * 2 ^ 36

/-- The D field and the low 36 bits of a layout. -/
def encodeParts (p : Parts) : Nat × Nat :=
  match p with
  | .full f =>
    (f.d.toNat, f.a.toNat * 2 ^ 28 + f.b.toNat * 2 ^ 20 + f.c.toNat * 2 ^ 12 + bit f.sa * 2 ^ 11
      + bit f.sb * 2 ^ 10 + bit f.sc * 2 ^ 9 + bit f.u * 2 ^ 8 + f.csel.toNat * 2 ^ 6 + bit f.cen * 2 ^ 5
      + f.cls.toNat)
  | .imm f =>
    (f.d.toNat, f.a.toNat * 2 ^ 28 + bit f.sa * 2 ^ 27 + bit f.u * 2 ^ 26 + f.clb.toNat * 2 ^ 20 + f.imm.toNat)
  | .ldi f =>
    (f.d.toNat, f.imm.toNat / 2 ^ 24 * 2 ^ 28 + f.imm.toNat / 2 ^ 16 % 2 ^ 8 * 2 ^ 20 + f.imm.toNat % 2 ^ 16)
  | .direct f => (f.d.toNat, f.off.toNat * 2 ^ 12 + f.cls.toNat)
  | .mat f =>
    (f.c.toNat, f.a.toNat * 2 ^ 28 + f.sb.toNat * 2 ^ 20 + f.f.toNat * 2 ^ 12 + bit f.ra * 2 ^ 11
      + bit f.hc * 2 ^ 10 + bit f.sf * 2 ^ 9 + bit f.bv * 2 ^ 8 + f.csel.toNat * 2 ^ 6 + bit f.cen * 2 ^ 5
      + f.bar.toNat)
  | .copy f =>
    (f.tag.toNat, f.a.toNat * 2 ^ 28 + f.sb.toNat * 2 ^ 20 + bit f.bv * 2 ^ 19 + f.bar.toNat * 2 ^ 12
      + bit f.sa * 2 ^ 11 + f.csel.toNat * 2 ^ 6 + bit f.cen * 2 ^ 5 + f.nc.toNat)

/-- The bits of a P-form half (R248). -/
def encodeHalf (h : Half) : Nat :=
  pairCode h.op * 2 ^ 23 + h.guard.toNat * 2 ^ 20 + bit h.neg * 2 ^ 19 + h.d.toNat * 2 ^ 11 + h.a.toNat * 2 ^ 3
    + bit h.as * 2 ^ 2

/-- The word of an instruction (R242, R248); an event has none and gives 0. -/
def encode (i : Instr) : DWord :=
  match i with
  | .pformWord last stall p r =>
    BitVec.ofNat 64 (bit last * 2 ^ 63 + 2 ^ 62 + stall.toNat * 2 ^ 58 + encodeHalf p * 2 ^ 29 + encodeHalf r)
  | i =>
    match i.word with
    | some (op, h, p) => BitVec.ofNat 64 (encodeHdr op h (encodeParts p).1 + (encodeParts p).2)
    | none => 0

/-- The plain-layout opcodes of class 0 (R260). -/
noncomputable def instrOfFull0 (op : Nat) (h : Hdr) (f : Full) : Option Instr :=
  match op with
  | 0x000 => some (.iadd h f)
  | 0x001 => some (.isub h f)
  | 0x002 => some (.ineg h f)
  | 0x003 => some (.iabs h f)
  | 0x004 => some (.imul h f)
  | 0x005 => some (.imulh h f)
  | 0x006 => some (.imad h f)
  | 0x007 => some (.imadw h f)
  | 0x008 => some (.imin h f)
  | 0x009 => some (.imax h f)
  | 0x00a => some (.isad h f)
  | 0x00b => some (.icmp h f)
  | 0x00c => some (.iaddc h f)
  | 0x00d => some (.andBits h f)
  | 0x00e => some (.orBits h f)
  | 0x00f => some (.xorBits h f)
  | 0x010 => some (.notBits h f)
  | 0x011 => some (.bop3 h f)
  | 0x012 => some (.shl h f)
  | 0x013 => some (.shr h f)
  | 0x014 => some (.sar h f)
  | 0x015 => some (.rotl h f)
  | 0x016 => some (.shf h f)
  | 0x017 => some (.popc h f)
  | 0x018 => some (.clz h f)
  | 0x019 => some (.ctz h f)
  | 0x01a => some (.brev h f)
  | 0x01b => some (.bfx h f)
  | 0x01c => some (.bfi h f)
  | 0x01d => some (.bypr h f)
  | 0x01e => some (.bilv h f)
  | 0x01f => some (.bdlv h f)
  | 0x020 => some (.aadd h f)
  | 0x021 => some (.amad h f)
  | _ => none

/-- The plain-layout opcodes of class 1 (R260). -/
noncomputable def instrOfFull1 (op : Nat) (h : Hdr) (f : Full) : Option Instr :=
  match op with
  | 0x040 => some (.fadd h f)
  | 0x041 => some (.fmul h f)
  | 0x042 => some (.ffma h f)
  | 0x043 => some (.fmin h f)
  | 0x044 => some (.fmax h f)
  | 0x045 => some (.fminn h f)
  | 0x046 => some (.fmaxn h f)
  | 0x047 => some (.fcmp h f)
  | 0x048 => some (.fclass h f)
  | 0x049 => some (.frnd h f)
  | 0x04a => some (.ffrac h f)
  | 0x04b => some (.frcp h f)
  | 0x04c => some (.frsq h f)
  | 0x04d => some (.fsqrt h f)
  | 0x04e => some (.fexp2 h f)
  | 0x04f => some (.flog2 h f)
  | 0x050 => some (.fsin h f)
  | 0x051 => some (.fcos h f)
  | 0x052 => some (.ftanh h f)
  | 0x053 => some (.dadd h f)
  | 0x054 => some (.dmul h f)
  | 0x055 => some (.dfma h f)
  | 0x056 => some (.dcmp h f)
  | 0x058 => some (.faddX2 h f)
  | 0x059 => some (.fmulX2 h f)
  | 0x05a => some (.ffmaX2 h f)
  | 0x05b => some (.fminX2 h f)
  | 0x05c => some (.fmaxX2 h f)
  | 0x05d => some (.fminnX2 h f)
  | 0x05e => some (.fmaxnX2 h f)
  | 0x05f => some (.frndX2 h f)
  | 0x060 => some (.fcmpX2 h f)
  | _ => none

/-- The plain-layout opcodes of class 2 (R260). -/
noncomputable def instrOfFull2 (op : Nat) (h : Hdr) (f : Full) : Option Instr :=
  match op with
  | 0x080 => some (.hadd2 h f)
  | 0x081 => some (.hmul2 h f)
  | 0x082 => some (.hfma2 h f)
  | 0x083 => some (.hmin2 h f)
  | 0x084 => some (.hmax2 h f)
  | 0x085 => some (.badd2 h f)
  | 0x086 => some (.bmul2 h f)
  | 0x087 => some (.bfma2 h f)
  | 0x088 => some (.hadd2X2 h f)
  | 0x089 => some (.hmul2X2 h f)
  | 0x08a => some (.hfma2X2 h f)
  | 0x08b => some (.hmin2X2 h f)
  | 0x08c => some (.hmax2X2 h f)
  | 0x08d => some (.badd2X2 h f)
  | 0x08e => some (.bmul2X2 h f)
  | 0x08f => some (.bfma2X2 h f)
  | 0x094 => some (.fcmpF16 h f)
  | 0x095 => some (.fcmpBf16 h f)
  | 0x098 => some (.cvt1 h f)
  | 0x099 => some (.cvt2 h f)
  | 0x09a => some (.cvt4 h f)
  | 0x09b => some (.cvt2w h f)
  | 0x09c => some (.cvt4w h f)
  | 0x0a0 => some (.pack h f)
  | 0x0a1 => some (.packB8 h f)
  | 0x0a2 => some (.unpk h f)
  | 0x0a3 => some (.unpkB8 h f)
  | 0x0a4 => some (.mov h f)
  | 0x0a5 => some (.mov2 h f)
  | 0x0a6 => some (.mov4 h f)
  | 0x0aa => some (.sel h f)
  | 0x0b0 => some (.plop h f)
  | 0x0b1 => some (.plopQ h f)
  | 0x0b2 => some (.v2p h f)
  | 0x0b3 => some (.p2v h f)
  | 0x0b4 => some (.v2pQ h f)
  | 0x0b5 => some (.p2vQ h f)
  | _ => none

/-- The plain-layout opcodes of class 3 (R260). -/
noncomputable def instrOfFull3 (op : Nat) (h : Hdr) (f : Full) : Option Instr :=
  match op with
  | 0x0c2 => some (.jmpi h f)
  | 0x0c4 => some (.calli h f)
  | 0x0c5 => some (.ret h f)
  | 0x0c8 => some (.yield h f)
  | 0x0c9 => some (.exitThread h f)
  | 0x0ca => some (.nop h f)
  | 0x0cb => some (.trap h f)
  | 0x0cc => some (.bpt h f)
  | 0x0d0 => some (.vote h f)
  | 0x0d1 => some (.shfl h f)
  | 0x0d3 => some (.qred h f)
  | 0x0d4 => some (.qredF h f)
  | 0x0d5 => some (.qscan h f)
  | 0x0d6 => some (.qscanF h f)
  | 0x0d7 => some (.matchBits h f)
  | 0x0d8 => some (.rdlane h f)
  | 0x0d9 => some (.wrlane h f)
  | 0x0e1 => some (.commit h f)
  | 0x0e2 => some (.abortTry h f)
  | 0x0e3 => some (.tstat h f)
  | 0x0e8 => some (.regq h f)
  | 0x0e9 => some (.mode h f)
  | 0x0ea => some (.movs h f)
  | _ => none

/-- The plain-layout opcodes of class 4 (R260). -/
noncomputable def instrOfFull4 (op : Nat) (h : Hdr) (f : Full) : Option Instr :=
  match op with
  | 0x100 => some (.ld h f)
  | 0x101 => some (.ldAcq h f)
  | 0x102 => some (.st h f)
  | 0x103 => some (.stRel h f)
  | 0x104 => some (.ldChk h f)
  | 0x108 => some (.ldX h f)
  | 0x109 => some (.ldAcqX h f)
  | 0x10a => some (.stX h f)
  | 0x10b => some (.stRelX h f)
  | 0x110 => some (.lds h f)
  | 0x111 => some (.ldsAcq h f)
  | 0x112 => some (.sts h f)
  | 0x113 => some (.stsRel h f)
  | 0x118 => some (.ldsX h f)
  | 0x119 => some (.ldsAcqX h f)
  | 0x11a => some (.stsX h f)
  | 0x11b => some (.stsRelX h f)
  | 0x120 => some (.ldp h f)
  | 0x121 => some (.stp h f)
  | 0x122 => some (.ldpX h f)
  | 0x123 => some (.stpX h f)
  | 0x124 => some (.ldc h f)
  | 0x125 => some (.ldcX h f)
  | 0x126 => some (.ldt h f)
  | 0x128 => some (.pref h f)
  | 0x129 => some (.prefX h f)
  | _ => none

/-- The plain-layout opcodes of class 5 (R260). -/
noncomputable def instrOfFull5 (op : Nat) (h : Hdr) (f : Full) : Option Instr :=
  match op with
  | 0x140 => some (.atom h f)
  | 0x141 => some (.atomF h f)
  | 0x142 => some (.atomCas h f)
  | 0x143 => some (.red h f)
  | 0x144 => some (.redF h f)
  | 0x145 => some (.atoms h f)
  | 0x146 => some (.atomsF h f)
  | 0x147 => some (.atomsCas h f)
  | 0x148 => some (.fpush h f)
  | 0x149 => some (.fpop h f)
  | 0x14a => some (.fpushNb h f)
  | 0x14b => some (.fpopNb h f)
  | 0x150 => some (.tex h f)
  | 0x151 => some (.texL h f)
  | 0x152 => some (.texG h f)
  | 0x153 => some (.texC h f)
  | 0x154 => some (.tex4 h f)
  | 0x155 => some (.tld h f)
  | 0x156 => some (.tldMs h f)
  | 0x158 => some (.tqry h f)
  | 0x159 => some (.tqryLod h f)
  | 0x15a => some (.imld h f)
  | 0x15b => some (.imldRaw h f)
  | 0x15c => some (.imst h f)
  | 0x15d => some (.imstRaw h f)
  | 0x160 => some (.fence h f)
  | 0x161 => some (.pfence h f)
  | 0x162 => some (.rfence h f)
  | 0x168 => some (.barinit h f)
  | 0x169 => some (.bararr h f)
  | 0x16a => some (.bararrN h f)
  | 0x16b => some (.barwait h f)
  | 0x16c => some (.bartest h f)
  | 0x16d => some (.barinval h f)
  | 0x16e => some (.fbar h f)
  | 0x170 => some (.tagwait h f)
  | 0x171 => some (.tagany h f)
  | 0x172 => some (.tagffr h f)
  | 0x173 => some (.tagtest h f)
  | 0x174 => some (.tagrd h f)
  | _ => none

/-- The plain-layout opcodes of class 6 (R260). -/
noncomputable def instrOfFull6 (op : Nat) (h : Hdr) (f : Full) : Option Instr :=
  match op with
  | 0x1b0 => some (.rng h f)
  | 0x1b1 => some (.spawn h f)
  | 0x1b2 => some (.gsig h f)
  | 0x1b3 => some (.recld h f)
  | _ => none

/-- The plain-layout opcodes of class 7 (R260). -/
noncomputable def instrOfFull7 (op : Nat) (h : Hdr) (f : Full) : Option Instr :=
  match op with
  | 0x1c0 => some (.osenter h f)
  | 0x1c1 => some (.osexit h f)
  | 0x1c2 => some (.lappend h f)
  | 0x1c3 => some (.lfirst h f)
  | 0x1c4 => some (.lnext h f)
  | 0x1c5 => some (.interp h f)
  | 0x1c6 => some (.interpO h f)
  | 0x1c7 => some (.interpF h f)
  | 0x1c8 => some (.discard h f)
  | 0x1c9 => some (.discardH h f)
  | 0x1ca => some (.meshoutV h f)
  | 0x1cb => some (.meshoutP h f)
  | 0x1cc => some (.meshoutN h f)
  | 0x1d0 => some (.trace h f)
  | 0x1d1 => some (.traceRec h f)
  | 0x1d2 => some (.twait h f)
  | 0x1d3 => some (.twaitAll h f)
  | 0x1d4 => some (.thit h f)
  | 0x1d5 => some (.ireport h f)
  | 0x1d6 => some (.ireportA h f)
  | 0x1d7 => some (.iresume h f)
  | 0x1d8 => some (.iresumeN h f)
  | 0x1d9 => some (.tcancel h f)
  | 0x1da => some (.tcancelAll h f)
  | _ => none

/-- The instruction of an opcode in the full layout (R260). -/
noncomputable def instrOfFull (op : Nat) (h : Hdr) (f : Full) : Option Instr :=
  match op / 64 with
  | 0 => instrOfFull0 op h f
  | 1 => instrOfFull1 op h f
  | 2 => instrOfFull2 op h f
  | 3 => instrOfFull3 op h f
  | 4 => instrOfFull4 op h f
  | 5 => instrOfFull5 op h f
  | 6 => instrOfFull6 op h f
  | 7 => instrOfFull7 op h f
  | _ => none

/-- The instruction of an opcode in the imm layout (R260). -/
noncomputable def instrOfImm (op : Nat) (h : Hdr) (f : Imm) : Option Instr :=
  match op with
  | 0x028 => some (.iaddI h f)
  | 0x029 => some (.imulI h f)
  | 0x02a => some (.andI h f)
  | 0x02b => some (.orI h f)
  | 0x02c => some (.xorI h f)
  | 0x02d => some (.icmpI h f)
  | 0x068 => some (.faddI h f)
  | 0x069 => some (.fmulI h f)
  | 0x06a => some (.ffmaI h f)
  | 0x06b => some (.fminI h f)
  | 0x06c => some (.fmaxI h f)
  | 0x06d => some (.fcmpI h f)
  | 0x090 => some (.hadd2I h f)
  | 0x091 => some (.hmul2I h f)
  | 0x092 => some (.badd2I h f)
  | 0x093 => some (.bmul2I h f)
  | 0x0ab => some (.selI h f)
  | 0x0d2 => some (.shflI h f)
  | _ => none

/-- The instruction of an opcode in the ldi layout (R260). -/
noncomputable def instrOfLdi (op : Nat) (h : Hdr) (f : Ldi) : Option Instr :=
  match op with
  | 0x0a8 => some (.ldiV h f)
  | 0x0a9 => some (.ldiS h f)
  | _ => none

/-- The instruction of an opcode in the direct layout (R260). -/
noncomputable def instrOfDirect (op : Nat) (h : Hdr) (f : Direct) : Option Instr :=
  match op with
  | 0x0c0 => some (.bra h f)
  | 0x0c1 => some (.brau h f)
  | 0x0c3 => some (.call h f)
  | 0x0c6 => some (.meet h f)
  | 0x0c7 => some (.brk h f)
  | 0x0e0 => some (.tryBegin h f)
  | _ => none

/-- The instruction of an opcode in the mat layout (R260). -/
noncomputable def instrOfMat (op : Nat) (h : Hdr) (f : Mat) : Option Instr :=
  match op with
  | 0x180 => some (.mmaN8Sp h f)
  | 0x181 => some (.mmaN16Sp h f)
  | 0x182 => some (.mmaN32Sp h f)
  | 0x183 => some (.mmaN64Sp h f)
  | 0x184 => some (.mmaN8SpAcc h f)
  | 0x185 => some (.mmaN16SpAcc h f)
  | 0x186 => some (.mmaN32SpAcc h f)
  | 0x187 => some (.mmaN64SpAcc h f)
  | 0x188 => some (.mmaN8Gl h f)
  | 0x189 => some (.mmaN16Gl h f)
  | 0x18a => some (.mmaN32Gl h f)
  | 0x18b => some (.mmaN64Gl h f)
  | 0x18c => some (.mmaN8GlAcc h f)
  | 0x18d => some (.mmaN16GlAcc h f)
  | 0x18e => some (.mmaN32GlAcc h f)
  | 0x18f => some (.mmaN64GlAcc h f)
  | 0x190 => some (.mmasN8Sp h f)
  | 0x191 => some (.mmasN16Sp h f)
  | 0x192 => some (.mmasN32Sp h f)
  | 0x193 => some (.mmasN64Sp h f)
  | 0x194 => some (.mmasN8SpAcc h f)
  | 0x195 => some (.mmasN16SpAcc h f)
  | 0x196 => some (.mmasN32SpAcc h f)
  | 0x197 => some (.mmasN64SpAcc h f)
  | 0x198 => some (.mmasN8Gl h f)
  | 0x199 => some (.mmasN16Gl h f)
  | 0x19a => some (.mmasN32Gl h f)
  | 0x19b => some (.mmasN64Gl h f)
  | 0x19c => some (.mmasN8GlAcc h f)
  | 0x19d => some (.mmasN16GlAcc h f)
  | 0x19e => some (.mmasN32GlAcc h f)
  | 0x19f => some (.mmasN64GlAcc h f)
  | _ => none

/-- The instruction of an opcode in the copy layout (R260). -/
noncomputable def instrOfCopy (op : Nat) (h : Hdr) (f : Copy) : Option Instr :=
  match op with
  | 0x1a0 => some (.cpy h f)
  | 0x1a1 => some (.cpyR h f)
  | 0x1a2 => some (.cpyw h f)
  | 0x1a3 => some (.cpywR h f)
  | 0x1a4 => some (.cpym h f)
  | 0x1a5 => some (.cpyp h f)
  | 0x1a6 => some (.cpypM h f)
  | 0x1a7 => some (.cpyrd h f)
  | 0x1a8 => some (.cpyrdP h f)
  | 0x1a9 => some (.cpyg h f)
  | _ => none

/-- The instruction of an opcode, a header and operand fields. -/
noncomputable def Instr.ofParts (op : Nat) (h : Hdr) (p : Parts) : Option Instr :=
  match p with
  | .full f => instrOfFull op h f
  | .imm f => instrOfImm op h f
  | .ldi f => instrOfLdi op h f
  | .direct f => instrOfDirect op h f
  | .mat f => instrOfMat op h f
  | .copy f => instrOfCopy op h f

/-- A word that passes the checks of R261, as its fields. -/
inductive WordParts where
  | pair (last : Bool) (stall : BitVec 4) (p r : Half)
  | form (op : Nat) (h : Hdr) (p : Parts)
  deriving DecidableEq, Repr

/-- Read a P-form word (R248, R250, R261): the unassigned opcodes are raised first, then the reserved bits, then
the banks. -/
def readPair (w : Nat) : Except DecodeErr WordParts :=
  match decodeHalf (bitsOf w 57 29), decodeHalf (bitsOf w 28 0) with
  | some p, some r =>
    if bitsOf w 30 29 ≠ 0 ∨ bitsOf w 1 0 ≠ 0 ∨ halfWf p = false ∨ halfWf r = false then .error .illegalEncoding
    else if pairBanksOk p r = false then .error .pairBank
    else .ok (.pair (w.testBit 63) (BitVec.ofNat 4 (w / 2 ^ 58)) p r)
  | _, _ => .error .illegalOpcode

/-- Read an F-form word (R242, R261). -/
def readForm (w : Nat) : Except DecodeErr WordParts :=
  match layoutOf (bitsOf w 57 49) with
  | none => .error .illegalOpcode
  | some l =>
    if reservedBits l w ≠ 0 ∨ partsWf (bitsOf w 57 49) (decodeHdr w) (decodeParts l w) = false then
      .error .illegalEncoding
    else .ok (.form (bitsOf w 57 49) (decodeHdr w) (decodeParts l w))

/-- Read a 64-bit word (R242): bit 62 tells the P-form from the F-form. -/
def readWord (w : DWord) : Except DecodeErr WordParts :=
  if w.toNat.testBit 62 then readPair w.toNat else readForm w.toNat

/-- The instruction of a word's fields. -/
noncomputable def WordParts.instr : WordParts → Option Instr
  | .pair last stall p r => some (.pformWord last stall p r)
  | .form op h p => Instr.ofParts op h p

/-- Decode a 64-bit word. -/
noncomputable def decode (w : DWord) : Except DecodeErr Instr :=
  match readWord w with
  | .error e => .error e
  | .ok x =>
    match x.instr with
    | some i => .ok i
    | none => .error .illegalOpcode

/-- The instruction the decoder reads from a word whose bits are `w` (the host's question). A word is 64 bits, so
bits at and above `nbits` are zero. -/
noncomputable def decodeTableWord (nbits w : Nat) : Option Instr :=
  match decode (BitVec.ofNat 64 (w % 2 ^ nbits)) with
  | .ok i => some i
  | .error _ => none

end Sys2Proof
end

