-- ==== Sys2Proof/Config.lean ====
section
/-! DEFINITION. What no rule fixes: the free values. Every constant here is opaque, without a body, so
nothing can be proved about its value; the assumption log names each. -/

namespace Sys2Proof.Config

/-- A free choice between two outcomes that a rule permits (R254, R257, R188). DESIGN CHOICE, log 2. -/
opaque choice : Nat → Bool

/-- A free choice named by what it is about, so that a deterministic launch makes it alike in every run (R192): a register
after an abort (R188). DESIGN CHOICE, log 2. -/
opaque named : List Nat → Bool

/-- The power limit in watts and the routed fabric ports that the integrator of the bare die configures (R12, R489).
DESIGN CHOICE, log 26. -/
opaque dieLimit : Nat
opaque dieRouted : (port : Nat) → Bool

/-- Byte `i` of a 16-byte block written under `old` when it is read under `new` (R32, R72): ciphertext or
its false decryption. DESIGN CHOICE, log 6. -/
opaque recrypt : (old new : Key) → (block : Nat) → (bytes : List Byte) → (i : Nat) → Byte

/-- Pick(mask, line) of R483: a fixed function whose value the manual does not give. DESIGN CHOICE, log 7. -/
opaque pickPort : (mask : Nat) → (line : Nat) → Nat

/-- SHA-512 (R486), left uninterpreted. DESIGN CHOICE, log 7. -/
opaque sha512 : List Byte → BitVec 512

/-- The digest of the image that boot step 1 to 4 measures (R487). DESIGN CHOICE, log 7. -/
opaque imageDigest : Nat → BitVec 512

/-- Whether the image of boot step 1 to 4 passes verification (R487). DESIGN CHOICE, log 7. -/
opaque imageVerifies : Nat → Bool

/-- The security processor's signature or certificate bytes for a request and its nonce (R486, R488).
DESIGN CHOICE, log 7. -/
opaque spdmBytes : (request : Nat) → (nonce : Nat) → List Byte

/-- The byte a NaN channel is stored as in a UN8 or SRGB image (R363 states none). DESIGN CHOICE, log 13. -/
opaque unormNan : Nat → Byte

/-- A depth or an attribute for which R428 and R429 state no result: a degenerate primitive, an infinite value.
DESIGN CHOICE, log 16. -/
opaque openFp : Nat → Word

/-- The coverage of a pixel by a primitive for which R427 states none: positions that are not finite, a clipped vertex
at w = 0. DESIGN CHOICE, log 16. -/
opaque openCover : (order pixel : Nat) → Bool

/-- The bytes of the primitive buffer's pages, whose layout belongs to the device (R424). DESIGN CHOICE, log 22. -/
opaque primByte : Nat → Byte

/-- The words of DIAG_BVIEW between a write of DIAG_BSEL and the next read of 0x420, which R492 does not give. DESIGN CHOICE,
log 57. -/
opaque openView : Nat → BitVec 256

/-- Registers between a quire's count and the end of its granule of four, which REGQ neither frees nor allocates (R327): whether
they keep what they held or read zero once the count covers them again (R48). DESIGN CHOICE, log 14. -/
opaque regqKeeps : Bool

end Sys2Proof.Config
end

