-- ==== Sys2Proof/Machine/State.lean ====
section
/-! DEFINITION. The state of the device: everything the manual gives the machine, as plain data, the reasons a
step can stop, and the state after reset. Fields marked MODEL are the model's own. -/

namespace Sys2Proof.Machine

/-- A generic, physical, scratchpad or private location as a number. Physical locations of the three targets of
R14 stand apart: device memory from 0, host memory from 2^52, peer n's export space from 2^60 (n + 1). -/
abbrev Loc := Nat

/-- Bytes by location: addresses strictly rising, no entry equal to what an unlisted byte reads as. -/
abbrev Mem := List Host.Cell

/-- Why a thread is halted (R400, R401): the trap code and the address of the trapping word. -/
structure Halt where
  code : Nat
  pc : DWord
  deriving DecidableEq, Repr

/-- A fragment's section state (R431). -/
inductive Section where
  | none
  | opened
  /-- its thread has halted in it: it is released once the thread's own accesses have completed (R408) -/
  | leaving
  | done
  deriving DecidableEq, Repr

/-- The fragment or helper a fragment-stage thread holds (R428): pass, tile, pixel, order, primitive. -/
structure FragTh where
  pass : Nat
  tile : Nat
  x : Nat
  y : Nat
  order : Nat
  prim : Nat
  helper : Bool
  deriving DecidableEq, Repr

/-- A hit (R449, R456, R464): t, HPRIM, HBARY, HK and the attribute words of `IREPORT.a`. -/
structure Hit where
  t : Nat
  prim : Nat
  bary : Nat
  kind : Nat
  attr : Option (Nat × Nat)
  deriving DecidableEq, Repr

/-- The ray a routine thread holds and its pending hit (R464), and what a trace of the thread takes from that ray: DEPTH, PIX, ORD, and
the node that traced it with its ANYHIT (R449, R456, R464, R469). -/
structure RayTh where
  handle : Nat
  held : Bool
  pend : Option Hit
  depth : Nat
  pix : Nat
  ord : Nat
  anyhit : Bool
  node : Nat
  /-- the tile of the folio that traced the ray (R435) -/
  tile : Nat
  deriving DecidableEq, Repr

/-- What a thread keeps while it is a member of a try region (R183 to R188). `regs` are the vector registers at
the TRY, for the registers outside the live mask (R188). -/
structure TryTh where
  handler : DWord
  codereg : Nat
  depth0 : Nat
  live : List Nat
  regs : List Word
  /-- recorded `.chk` ranges: address and length (R185) -/
  chk : List (Nat × Nat)
  /-- the quire's next word of variable latency at the TRY: what it issued before stands outside the region (R188) -/
  since : Nat
  /-- an abort that waits for the rally boundary: code and value of `codereg` (R188) -/
  abort : Option (Nat × Nat)
  /-- the vector registers after the thread's last word, and the values it has written in the region to registers outside the
  live mask: register and value (R188) -/
  seen : List Word
  wrote : List (Nat × Word)
  deriving DecidableEq, Repr

/-- One thread (R43, R47, R49, R174). -/
structure Thread where
  pc : DWord
  mr : Option DWord
  depth : Nat
  y : Bool
  td : Nat
  p : Bool
  c : Bool
  x : Bool
  v : List Word
  pr : BitVec 16
  slice : List Byte
  /-- the pc that a transfer gives, taken at the rally's end (R303) -/
  npc : Option DWord
  /-- the last transfer's target is still to be checked under R259 -/
  xfer : Bool
  /-- X is set at the rally's end (R312, R430) -/
  exiting : Bool
  halt : Option Halt
  tryTh : Option TryTh
  frag : Option FragTh
  ray : Option RayTh
  deriving DecidableEq, Repr

/-- One access of an operand log entry (R405): a thread (or the quire, under U), its operands at first issue. -/
inductive AccSt where
  | waiting
  | parked
  | done
  deriving DecidableEq, Repr

/-- One thread's access in the operand log: the generic address, the physical location found at issue, the bytes,
the data and further operands (R405). -/
structure Acc where
  t : Nat
  /-- which 8-byte half of a 128-bit access this is; 0 for any other (R105) -/
  piece : Nat
  va : Nat
  loc : Loc
  len : Nat
  /-- the bytes an image read or a tensor read touches, by generic address, location and length; empty where `va`, `loc` and
  `len` say it (R114) -/
  spans : List (Nat × Loc × Nat)
  /-- a route 0 load or store issued by a member of a try region (R185) -/
  inTry : Bool
  /-- the value a load takes from a fill that was passed on or recalled (R94) -/
  got : Option Nat
  /-- units of an image read already bound: 0 for its descriptor, k + 1 for its k-th unit (R105) -/
  vals : List (Nat × Nat)
  /-- the access leaves permissions and key of its page: key and NC (R14, R32) -/
  key : Key
  nc : Bool
  st : AccSt
  data : Nat
  args : List Nat
  deriving DecidableEq, Repr

/-- One entry of a quire's operand log (R405): the instruction and its accesses. -/
structure LogEntry where
  seq : Nat
  pc : DWord
  op : Nat
  f : Full
  /-- performed once for the quire (R340) -/
  uni : Bool
  /-- the completion counter that the entry holds up (R256) -/
  ctr : Option Nat
  /-- the active threads of the word, for an access made once (R340) -/
  act : List Nat
  acc : List Acc
  deriving DecidableEq, Repr

/-- A fixed-latency result on its way (R254): before cycle `ready`, a read may see the old value. A scalar or
uniform register has `vec` false; register 256 + k is predicate k. -/
structure FixPend where
  t : Nat
  vec : Bool
  reg : Nat
  old : Word
  ready : Nat
  deriving DecidableEq, Repr

/-- A variable-latency destination whose counter has not been waited on (R257). -/
structure VarPend where
  t : Nat
  vec : Bool
  reg : Nat
  seq : Nat
  ctr : Option Nat
  /-- it stays after its result is written (R257) -/
  keep : Bool
  done : Bool
  /-- the value before it; none once a later word has written the register -/
  old : Option Word
  deriving DecidableEq, Repr

/-- A held accumulator chain (R382): its key, format word and rows. -/
structure Chain where
  c : Nat
  n : Nat
  mmas : Bool
  fmt : Nat
  held : List (List Nat)
  touched : List Nat
  deriving DecidableEq, Repr

/-- The operand latch of `.r` (R383). -/
structure Latch where
  a : Nat
  rows : List (List Word)
  scales : List Nat
  deriving DecidableEq, Repr

/-- A quire's open try region (R183 to R187): members, read and write sets (lines), buffered stores (thread, age,
location, byte), commit scope, collection start. -/
structure Region where
  members : List Nat
  reads : List Nat
  writes : List Nat
  buf : List (Nat × Nat × Loc × Byte × Key)
  entries : List (Nat × Nat)
  scope : Nat
  start : Nat
  begun : Nat
  collecting : Option Nat
  /-- a commit that failed or an abort of the whole quire, taken at the rally boundary -/
  conflict : Option (Nat × Nat)
  deriving DecidableEq, Repr

/-- The word being issued (MODEL): quire slot, address, active threads, leading set, first issue cycles, values
that R254 returns in place of registers. -/
structure Cur where
  slot : Slot
  pc : DWord
  lead : List Nat
  act : List Nat
  issues : List (Nat × Nat)
  /-- (thread, vector?, register, value) read in place of the register; 256 + k names predicate k -/
  view : List (Nat × Bool × Nat × Word)
  /-- accesses are left in the log, to be served by later moves -/
  lazy : Bool
  /-- the word ends its rally -/
  last : Bool
  /-- the word ended the rally by YIELD -/
  yielded : Bool
  /-- progress of a word that waits in the middle (R370) -/
  prog : List (Nat × Nat)
  /-- the word's first issue cycle, its sweep length I and its stall count S (R252, R253) -/
  began : Nat
  sweep : Nat
  stall : Nat
  /-- a variable-latency word's destinations and counter (R256, R257) -/
  dsts : Option (List Opnd)
  ctr : Option Nat
  /-- the values of those destinations before the word: (thread, vector?, register, value) -/
  was : List (Nat × Bool × Nat × Word)
  deriving DecidableEq, Repr

/-- What a blocked quire waits for (R212). -/
inductive Why where
  /-- the word is tried again: full log, counter at 63, chain, latch, parked access before a fence -/
  | again
  | fetch
  | bararr
  | barwait
  | fpush
  | fpop
  | tagwait
  | fbar
  | regq
  | osenter
  | twait
  | commit
  deriving DecidableEq, Repr

/-- A quire blocked in an instruction: the reason, the word and its fields. -/
structure Wait where
  why : Why
  cur : Cur
  op : Nat
  f : Full
  /-- arrival order, for waits served in order (R328, R350) -/
  order : Nat
  deriving DecidableEq, Repr

/-- A running rally (R171, R258): its leading set and depth, its next word, the timing of the previous word
(begin, sweep length, stall count, issues), all for R252. -/
structure Rally where
  lead : List Nat
  depth : Nat
  head : DWord
  next : DWord
  words : Nat
  begun : Nat
  sweep : Nat
  stall : Nat
  issues : List (Nat × Nat)
  deriving DecidableEq, Repr

/-- A resident quire (R168, R174). -/
structure Quire where
  slot : Slot
  ctx : Nat
  folio : Nat
  qid : Nat
  w : Nat
  /-- register count C (R44) -/
  regs : Nat
  th : List Thread
  s : List Word
  q : BitVec 8
  ftz : Bool
  ctr : List Nat
  /-- the cycle of its start (R208) -/
  born : Nat
  rally : Option Rally
  rallies : Nat
  ready : Option Nat
  wait : Option Wait
  log : List LogEntry
  seq : Nat
  region : Option Region
  chain : Option Chain
  latch : Option Latch
  /-- deferred traps: (threads, code, reason, va, pc) (R398) -/
  deferred : List (List Nat × Nat × Nat × Nat × DWord)
  fixp : List FixPend
  varp : List VarPend
  deriving DecidableEq, Repr

/-- Bench entry (R213, R381). -/
structure Bench where
  id : Nat
  /-- the word's place in its quire's order -/
  seq : Nat
  slot : Slot
  op : Nat
  f : Mat
  pc : DWord
  fmt : Nat
  act : List Nat
  arow : List (List Word)
  sa : List Nat
  cin : List (List Word)
  useLatch : Bool
  sblk : List Word
  /-- barrier number and the captured PH (R163) -/
  bar : Option (Nat × Nat)
  eligible : Option Nat
  prio : Nat
  /-- the entry waits for a page (R384) -/
  parked : Bool
  /-- the record of a `.gl` entry, once it has been taken (R120, R384) -/
  rcd : Option Nat
  deriving DecidableEq, Repr

/-- One barrier instance (R153). -/
structure Bar where
  num : Nat
  /-- folio-relative core of a `.co` instance; none for `.fo` -/
  core : Option Nat
  v : Bool
  a : Nat
  arr : Nat
  pend : Nat
  decl : Nat
  got : Nat
  ph : Nat
  err : Bool
  lerr : Bool
  wait : Nat
  deriving DecidableEq, Repr

/-- The state of a tag (R149). -/
inductive TagSt where
  | idle
  | collecting
  | running
  | done
  deriving DecidableEq, Repr

/-- One slice of a copy (R145): the contributing quire, its ranges or boxes (registers by thread). -/
structure Slice where
  qid : Nat
  /-- NC of its word (R386) -/
  nc : Nat
  blocks : List (List Word)
  deriving DecidableEq, Repr

/-- One side of a copy's move: generic memory by plain address or through a record, the scratchpad, a fill value. -/
inductive Side where
  | mem (va : Nat) (tile : Bool)
  | scr (off : Nat)
  | fill (v : Nat)
  deriving DecidableEq, Repr

/-- One move of a copy (R141, R389 to R391): its source, the value read from it once that is bound, the destinations that are
still to be written with the core whose arrival counts each (R126, R154), its bytes, and the format under which it adds
(R161). -/
structure CopyMove where
  src : Side
  val : Option Nat
  dst : List (Nat × Side)
  n : Nat
  add : Option Nat
  deriving DecidableEq, Repr

/-- How far a running copy has come (R122, R123, R126, R152): ADDR of its completion, its size for one destination, the moves still to be made in order, the
bytes written by core, the lines its writes have entered, and the cores whose arrivals have been made. -/
structure CopyProg where
  addr : Nat
  size : Nat
  left : List CopyMove
  wrote : List (Nat × Nat)
  lines : List Nat
  arrived : List Nat
  deriving DecidableEq, Repr

/-- A tag with the copy that collects or runs under it (R146, R149). -/
structure Tag where
  core : Nat
  num : Nat
  st : TagSt
  lstat : Nat
  op : Nat
  bar : Option Nat
  declared : Nat
  mask : Nat
  peer : Nat
  record : Nat
  nc : Nat
  match_ : Bool
  slices : List Slice
  started : Option Nat
  /-- paused on a NOT_VALID page (R166) -/
  paused : Bool
  /-- what the engine has done since the checks of its start; none before them (R389) -/
  prog : Option CopyProg
  /-- index words of CPYG bound so far: block, row, word (R391) -/
  rows : List (Nat × Nat × Nat)
  deriving DecidableEq, Repr

/-- A hardware FIFO ring (R63): entries oldest first. -/
structure Fifo where
  ring : List (List Word)
  deriving DecidableEq, Repr

/-- The stage a folio belongs to (R419, R420, R439, R463). -/
inductive Stage where
  | compute
  | mesh
  | fragment
  | resolve
  | recon
  | post
  | merge
  | routine
  deriving DecidableEq, Repr

/-- Where a folio stands (R55, R209): its banks drain; its planes are filled and it waits for its start (R441); it runs. -/
inductive FolioSt where
  | draining
  | filling
  | running
  deriving DecidableEq, Repr

/-- A registered window line (R22, R23): scratchpad line, physical line, the key of its page, the key its bytes are held
under now (R72), valid, dirty. -/
structure WinLine where
  sl : Nat
  pl : Nat
  pkey : Key
  key : Key
  valid : Bool
  dirty : Bool
  deriving DecidableEq, Repr

/-- A placed folio (R168 to R170, R200): its record's bits, cores, scratchpad, window, FIFOs, barriers, tags. -/
structure Folio where
  id : Nat
  node : Nat
  ctx : Nat
  rcd : Nat
  /-- the address and slot that s2:s3 and s4 receive (R201) -/
  recAddr : Nat
  recSlot : Nat
  fid : Nat
  stage : Stage
  pass : Nat
  tile : Nat
  st : FolioSt
  cores : List Nat
  /-- the lane slots of its quires, with their quire numbers (R209) -/
  seats : List (Slot × Nat)
  /-- scratchpad bytes; an unlisted byte reads zero (R20) -/
  scr : Mem
  /-- registered window lines (R22, R23) -/
  win : List WinLine
  fifos : List Fifo
  bars : List Bar
  tags : List Tag
  ringN : Nat
  /-- threads that have arrived in the folio barrier's round: (qid, thread) (R372) -/
  fbar : List (Nat × Nat)
  /-- mesh vertex records, primitive records and counts (R422) -/
  mverts : List (Nat × Nat × Word)
  mprims : List (Nat × Nat)
  vc : Nat
  pc : Nat
  /-- the fragments, rays or merges its threads start with -/
  start : List (List Nat)
  /-- a pre-emption request reached it in placement (R215) -/
  preempt : Bool
  deriving DecidableEq, Repr

/-- A held fault or trap record (R40, R402): 256 bits. -/
abbrev Record := Nat

/-- A trap record whose capture waits for a page (R407): the trapping word, its threads and the record's fields. -/
structure CapWait where
  slot : Slot
  pc : DWord
  code : Nat
  ts : List Nat
  ucode : Nat
  reason : Nat
  va : Nat
  /-- the quire at the trap, and its folio's number: what is captured (R403, R404) -/
  snap : Quire
  fid : Nat
  deriving DecidableEq, Repr

/-- One context's register block and its other state (R37, R199, R401, R447). -/
structure Ctx where
  /-- CTX_OWNER V and MASTER (R478) -/
  v : Bool
  master : Nat
  epoch : Nat
  ran : Bool
  ptbase : DWord
  fqBase : DWord
  fqFull : Bool
  fqSize : Nat
  fqPut : BitVec 16
  fqGet : BitVec 16
  invalVa : DWord
  invalBusy : Bool
  /-- the drop in progress: KIND, and CTX_INVAL_VA as it stood at the write of KIND (R38) -/
  invalKind : Nat
  invalPage : DWord
  heldRecs : List Record
  /-- pages with an outstanding NOT_VALID record (R40) -/
  outPages : List Nat
  tgBase : DWord
  ghAddr : DWord
  tgEn : Bool
  tgWeight : Nat
  tgQsize : Nat
  tgHsize : Nat
  nodeFail : Bool
  wdog : Bool
  qfull : Bool
  depUnder : Bool
  consumed : Word
  head : Word
  wdogLimit : Nat
  wdogStart : Nat
  dead : Bool
  recl : Bool
  capBase : DWord
  capNext : BitVec 16
  capSize : Nat
  /-- trap records whose capture waits for a page (R407) -/
  capWait : List CapWait
  rayBase : DWord
  rayPages : Nat
  rayFull : Bool
  /-- blocks in use of the ray pool: (first block, count) (R448) -/
  rayBlocks : List (Nat × Nat)
  /-- thread slots held by quires that have ended: width, from, to (R208) -/
  used : List (Nat × Nat × Nat)
  /-- pages that a parked access of the executor waits on (R198, R42) -/
  execWait : List Nat
  /-- what the consumption of the record at an address has read while it waits for a page: record, read address, bytes (R418, R503) -/
  got : List (Nat × Nat × List Byte)
  deriving DecidableEq, Repr

/-- One master's error ring and interrupts (R412, R476). -/
structure Master where
  errBase : DWord
  errFull : Bool
  errLost : Nat
  errSize : Nat
  errPut : BitVec 16
  errGet : BitVec 16
  /-- pending MSI-X vectors -/
  msix : List Nat
  deriving DecidableEq, Repr

/-- A TLB entry (R33): context, level of the leaf, generic page number at that level, leaf bits. -/
structure Tlb where
  ctx : Nat
  level : Nat
  page : Nat
  leaf : DWord
  deriving DecidableEq, Repr

/-- A walk in flight or waiting for a free walker (R34): the page, the CTX_PTBASE it started from (R37; none while it waits),
and the word that waits for it. -/
structure Walk where
  id : Nat
  ctx : Nat
  page : Nat
  root : Option DWord
  core : Option Nat
  gath : Nat
  slot : Option Slot
  discard : Bool
  deriving DecidableEq, Repr

/-- The state of one bank (R50): CACHE, draining for or held by a folio or a pass's tile. -/
inductive BankSt where
  | cache
  | drain (owner : Nat) (fifo : Bool)
  | scratch (owner : Nat)
  | fifo (owner : Nat)
  deriving DecidableEq, Repr

/-- A gathering's sleep (R95). -/
inductive Sleep where
  | awake
  | retain
  | flushed
  deriving DecidableEq, Repr

/-- A record-cache entry (R65): context, address, the 1,536-bit snapshot. -/
structure RecEntry where
  ctx : Nat
  addr : Nat
  val : Nat
  deriving DecidableEq, Repr

/-- A mapping-table entry (R26). -/
structure MapEntry where
  ix : Nat
  folio : Nat
  wbase : Nat
  portOff : Nat
  ctx : Nat
  banks : Nat
  deriving DecidableEq, Repr

/-- One gathering. -/
structure Gath where
  banks : List BankSt
  tlb : List Tlb
  recs : List RecEntry
  maps : List MapEntry
  sleep : Sleep
  bench : List Bench
  /-- DIAG_BSEL and the DIAG_BVIEW snapshot (R492) -/
  bsel : Nat
  bview : Nat
  /-- cycle at which the next pass may start (R385, R490) -/
  passAt : Nat
  /-- a pass that has started: its entries, and the units of B, in order of k and then of j, that it has bound (R107, R127) -/
  passNow : Option (List Nat × List (Option Nat))
  /-- lines used in its CACHE banks, most recently used first: lease-held (route 3) or not, line (R56) -/
  lru : List (Bool × Nat)
  deriving DecidableEq, Repr

/-- One core: its L0 TLB (R33) and the slot that is oldest (R212). -/
structure Core where
  tlb : List Tlb
  oldest : Option (Slot × Nat)
  deriving DecidableEq, Repr

/-- A lease copy of a line (R67): place, line, key, version, end, expired mark, and the bytes at the grant that
differ from what memory holds later are kept in full. -/
structure Lease where
  at_ : LeaseAt
  line : Nat
  key : Key
  /-- KEY of R67: the context number, or 64 for an open page -/
  kfield : Nat
  ver : Nat
  exp : Nat
  expired : Bool
  data : List Byte
  deriving DecidableEq, Repr

/-- A line's fields at its home (R75). -/
structure Home where
  line : Nat
  ht : Nat
  ho : Bool
  hv : Bool
  hold : List Nat
  ver : Nat
  /-- the cycle after the last event that moved VER (R90) -/
  verAt : Nat
  lexp : Nat
  /-- the KEY field of the line's copies (R72): none while it has had no copy -/
  ckey : Option Key
  pra : Bool
  win : Bool
  deriving DecidableEq, Repr

/-- The kind of a token request (R78). -/
inductive Req where
  | read
  | write
  deriving DecidableEq, Repr

/-- A line at an agent (R76, R77, R79, R94). -/
structure Held where
  agent : Nat
  line : Nat
  tok : Nat
  own : Bool
  valid : Bool
  dirty : Bool
  /-- outstanding request with its issue cycle -/
  req : Option (Req × Nat)
  fails : Nat
  /-- the cycle of the fourth failed attempt (R79) -/
  fourth : Nat
  /-- the kind of the agent's persistent request for the line (R79) -/
  pers : Option Req
  /-- a request recorded against a fill in flight: its requester, none for a recall (R94) -/
  recorded : Option (Option Nat)
  /-- the loads that were bound to the fill when the request was recorded: slot, entry, thread, half (R94) -/
  bound : List (Slot × Nat × Nat × Nat)
  deriving DecidableEq, Repr

/-- Who made a posted write (R106, R107, R114, R119, R409): its context, its route, the folio, quire and threads of a word that made
it, and the format under which it adds at its home (R161). -/
structure Poster where
  ctx : Nat
  route : Nat
  who : Option (Nat × Nat × List Nat)
  add : Option Nat
  deriving DecidableEq, Repr

/-- A coherence message (R78 to R80). -/
inductive MsgKind where
  | request (r : Req)
  | forward (r : Req)
  | tokens (tok : Nat) (own data dirty fill : Bool)
  | persist (r : Req)
  | activate (r : Req)
  | deactivate
  /-- a recall of every token, not yet answered (R81, R104) -/
  | recall
  | write3 (data : List (Nat × Byte)) (key : Key) (back : Option (Slot × Nat × Nat × Nat))
  | posted (data : List (Nat × Byte)) (key : Key) (by_ : Poster)
  deriving DecidableEq, Repr

/-- A message in flight: to an agent, or to the home when `dst` is none; `src` is the agent it acts for. -/
structure Msg where
  id : Nat
  line : Nat
  src : Nat
  dst : Option Nat
  kind : MsgKind
  /-- the cycle it was sent, and the agents whose silence has been reported (R81) -/
  sent : Nat
  told : List Nat
  deriving DecidableEq, Repr

/-- A persistent request registered at a home (R80). -/
structure Persist where
  agent : Nat
  line : Nat
  req : Req
  active : Bool
  deriving DecidableEq, Repr

/-- A store that has entered its gathering's CACHE line and is not yet performed (R82): in entry order. -/
structure Pending where
  gath : Nat
  slot : Option Slot
  ctx : Nat
  key : Key
  loc : Loc
  byte : Byte
  deriving DecidableEq, Repr

/-- Host cache state of a half line (R97). -/
inductive Mesi where
  | i
  | s
  | e
  | m
  deriving DecidableEq, Repr

/-- A route 1 host-bridge entry: the MESI state of both halves of a line of host memory (R97). -/
structure Bridge where
  line : Nat
  h0 : Mesi
  h1 : Mesi
  deriving DecidableEq, Repr

/-- A node of a task graph that has been consumed and is not finished (R203 to R207). -/
structure Node where
  id : Nat
  ctx : Nat
  slot : Nat
  addr : Nat
  rcd : Nat
  /-- host record index, none for a spawned one -/
  index : Option Nat
  tgBase : Nat
  hsize : Nat
  qsize : Nat
  dep : Nat
  ready : Option Nat
  nextFid : Nat
  requeued : List Nat
  pass : Option Nat
  /-- a failure raised at placement: REASON (R202) -/
  failed : Option Nat
  /-- gatherings held by a deterministic launch, in logical order (R211) -/
  gang : List Nat
  /-- how far its finish has come: 0, then 1 with steps 2 and 3 of R207 done, and one more for each decrement -/
  fin : Nat
  deriving DecidableEq, Repr

/-- A spawned record whose consumption waits for a page, with the region as it stood at the SPAWN (R199, R206). -/
structure SpawnLate where
  ctx : Nat
  slot : Nat
  base : Nat
  hsize : Nat
  qsize : Nat
  deriving DecidableEq, Repr

/-- The stage of a pass (R420). -/
inductive PassSt where
  | start
  | mesh
  | sample
  | raster
  | resolve
  | recon
  | post
  | ending
  deriving DecidableEq, Repr

/-- A primitive in the primitive buffer (R423): order, the buffer page of its mesh folio, three vertices of 36 words. -/
structure Prim where
  order : Nat
  page : Nat
  v0 : List Word
  v1 : List Word
  v2 : List Word
  deriving DecidableEq, Repr

/-- A fragment of a pass (R427, R431, R432). -/
structure Frag where
  tile : Nat
  x : Nat
  y : Nat
  order : Nat
  st : Section
  retired : Bool
  deriving DecidableEq, Repr

/-- A list append that waits (R435, R437): the pixel, the node, the ordering fragment, who asked. -/
structure Append where
  id : Nat
  x : Nat
  y : Nat
  node : Nat
  ord : Option Nat
  /-- its place in program order: its own number, or the number its ray took at its trace (R437) -/
  prog : Nat
  /-- the thread that issued it or traced its ray: folio, slot, thread (R437) -/
  src : Nat × Slot × Nat
  /-- the fragment that made it: x, y, order -/
  frag : Option (Nat × Nat × Nat)
  /-- the tile of the folio that made it -/
  tile : Nat
  gath : Nat
  /-- the thread to answer: slot, word, thread; none for a ray -/
  slot : Option (Slot × Nat × Nat)
  /-- its destination register and completion counter -/
  d : Nat
  ctr : Option Nat
  ray : Option Nat
  /-- a CUSTOM merge under way, its near and far nodes, and its result (R439) -/
  merging : Bool
  pair : Option (Nat × Nat)
  result : Option Nat
  deriving DecidableEq, Repr

/-- A tile in flight (R421, R434): its gathering, list banks (bytes) and pool pages. -/
structure Tile where
  n : Nat
  gath : Nat
  bytes : Mem
  pages : List Nat
  free : List Nat
  next : Nat
  rastered : Bool
  resolved : Bool
  deriving DecidableEq, Repr

/-- A fragment quire formed and not yet placed (R428): tile, per-thread (x, y, order, primitive, fragment?). -/
structure FragQuire where
  tile : Nat
  thr : List (Nat × Nat × Nat × Nat × Bool)
  /-- its folio was discarded: it is placed before the unplaced ones (R208) -/
  again : Bool
  deriving DecidableEq, Repr

/-- A pass under way (R418 to R421). -/
structure Pass where
  id : Nat
  node : Nat
  ctx : Nat
  desc : Nat
  addr : Nat
  /-- stage templates: mesh, fragment, resolve, reconstruction, post, merge; 0 where absent (R419) -/
  tmpl : List Nat
  imm : Bool
  st : PassSt
  status : Nat
  meshOut : List (Nat × List (List Word) × List (Nat × Nat))
  primPages : Nat
  prims : List Prim
  samples : List (Nat × Nat)
  nextFid : Nat
  nextTile : Nat
  tiles : List Tile
  frags : List Frag
  quires : List FragQuire
  appends : List Append
  poolNext : Nat
  poolFree : List Nat
  fail : Option Nat
  deriving DecidableEq, Repr

/-- Where a ray waits (R457, R460, R463). -/
inductive RayAt where
  /-- the completion's record write waits -/
  | ending
  | huddle
  | routineQ
  | inRoutine
  | append
  | complete
  deriving DecidableEq, Repr

/-- A live ray (R447 to R451): the device's own copy of the record's 1,024 bits and of its origin. -/
structure Ray where
  handle : Nat
  ctx : Nat
  node : Nat
  folio : Nat
  gath : Nat
  slot : Slot
  tidx : Nat
  /-- the tracing node has ANYHIT set (R456) -/
  anyhit : Bool
  rcd : Nat
  at_ : RayAt
  /-- the suspension: kind, candidate, its face, the routine and the entry's USER (R451, R463) -/
  skind : Nat
  ct : Nat
  cbary : Nat
  cprim : Nat
  face : Nat
  rout : Nat
  user : Nat
  cancel : Bool
  /-- append status for `THIT`; 7 for none (R471) -/
  appStat : Nat
  /-- the hit carries the attribute words of `IREPORT.a` (R459) -/
  attr : Bool
  /-- a record write that waits for a page (R466) -/
  wpend : Bool
  /-- the record has to be read before it is written, since programs may have stored to it (R449, R462) -/
  stale : Bool
  /-- a fault that its LINK's write met: 0 where it waits for the page (R460, R466) -/
  link : Option Nat
  /-- its number in program order (R437), and the tile its appends belong to (R435) -/
  born : Nat
  tile : Nat
  /-- suspension order -/
  order : Nat
  /-- the cycle at which it joined its present huddle (R214, R460) -/
  joined : Nat
  deriving DecidableEq, Repr

/-- A huddle (R460): gathering, context, subtree address (none for the overflow huddle), handles in
arrival order, suspension by a fault. -/
structure Huddle where
  gath : Nat
  ctx : Nat
  addr : Option Nat
  rays : List Nat
  susp : Bool
  deriving DecidableEq, Repr

/-- A service that an engine has begun (R461): the huddle as it was chosen, the rays admitted, and the blocks of the subtree that
have been streamed so far, with their numbers. -/
structure Serving where
  huddle : Huddle
  adm : List Nat
  blocks : List (Nat × List Byte)
  deriving DecidableEq, Repr

/-- An Estex Link port (R482, R484). -/
structure Port where
  trained : Bool
  dev : Nat
  flits : Nat
  replays : Nat
  epoch : Nat
  deriving DecidableEq, Repr

/-- The waiting head of the distributor (R209): what names its folio, and its target cores. -/
structure WaitHead where
  node : Nat
  fid : Nat
  stage : Stage
  tile : Nat
  gath : Option Nat
  target : List Nat
  deriving DecidableEq, Repr

/-- SPDM over function 0's mailbox (R488): the sessions, each with whether FINISH has closed its exchange, the next
session number, and what the mailbox last answered. -/
structure Spdm where
  sessions : List (Nat × Bool)
  next : Nat
  reply : List Byte
  deriving DecidableEq, Repr

/-- An error of a store (R73, R411), with the unit of R413 that its record or its counter names: one corrected in place or by
fetching a clean copy again; a lease copy, a translation or a shape record that is dropped; one that threads meet at their next
word; one that the next walk for a page of a context meets at an entry (R31); one that the next read by an engine, the executor or
a quire for itself meets at an 8-byte word of memory; one that a parked access meets at its replay; a region's buffer entry; a
dirty line's write-back from a CACHE bank or from the L2; one that a copy or a bench entry meets. -/
inductive SoftErr where
  | corrected (unit : Nat)
  | copyLost (w : LeaseAt) (line unit : Nat)
  | tlbLost (core : Option Nat) (g c page unit : Nat)
  | recordLost (g c addr unit : Nat)
  | word (q : Slot) (ts : List Nat) (unit va addr : Nat)
  | walk (c page addr : Nat)
  | read (word unit : Nat)
  | parked (q : Slot) (seq t unit addr : Nat)
  | buffer (q : Slot) (t addr : Nat)
  | writeBack (g line words : Nat)
  | l2Back (line words : Nat) (old : List Byte)
  | copy (core tag unit va addr : Nat)
  | bench (g id unit va addr : Nat)
  deriving DecidableEq, Repr

/-- Who moves next (MODEL): a word of a quire, an event of the table, a service of a quire's operand log, or the replacement
of a line in a gathering's cache (R56, R85) or in the host bridge (R100), or an error of a store (R73). -/
inductive Move where
  | word (q : Slot) (lazy : Bool)
  /-- the same, after the walk for a page that the word waited for has ended in a fault: context, page, reason (R34) -/
  | walked (q : Slot) (ctx page reason : Nat)
  | event (e : Instr)
  | serve (q : Slot)
  /-- one access of a log, by entry, thread and half: the memory model allows any order among those that are ready (R107) -/
  | access (q : Slot) (seq t piece : Nat)
  /-- a store by the host processor, or to a peer window's memory by its device or another importer (R106, R136) -/
  | outside (l : Loc) (bytes : List Byte)
  /-- one unit of B of a pass that has started is bound (R107, R127) -/
  | benchUnit (g unit : Nat)
  /-- the source of a copy's move is read; a destination of it is written; a `CPYM` arrives on one core's instance (R122, R126) -/
  | copyRead (core tag move : Nat)
  | copyWrite (core tag move dst : Nat)
  | copyArrive (core tag dest : Nat)
  /-- an engine's next service begins, if none has, and one block of its subtree is streamed (R107, R461) -/
  | streamBlock (g block : Nat)
  /-- one index word of a CPYG is bound (R391) -/
  | copyIndex (core tag block row : Nat)
  /-- a home recalls a line; an agent answers a recall (R81, R104) -/
  | recall (line : Nat)
  | recallAnswer (msg : Nat)
  | evictCache (g line : Nat)
  | evictBridge (line : Nat)
  | soft (e : SoftErr)
  deriving DecidableEq, Repr

/-- The state of the device. -/
structure State where
  /-- device cycles since reset (R331) -/
  cycle : Nat
  /-- MODEL: moves still to come, first next -/
  agenda : List Move
  /-- MODEL: the count of moves of the default order -/
  turn : Nat
  /-- MODEL: the counter that names free values -/
  fresh : Nat
  /-- MODEL: the word being issued -/
  cur : Option Cur
  /-- MODEL: the next number for folios, nodes, messages, walks and other named things -/
  nextId : Nat
  /-- bring-up stage (R491): 0 reset, 1 firmware, 2 memory trained, 3 link trained -/
  boot : Nat
  fwOk : Bool
  ready : Bool
  product : Product
  /-- installed device memory in bytes -/
  installed : Nat
  hostCache : Bool
  hostMem : Bool
  meas : List (BitVec 512)
  spdm : Spdm
  fabEn : Bool
  devnum : Nat
  mstPriv : Word
  retmax : Nat
  powLimit : Nat
  extra : Nat
  est : Nat
  corrected : List Word
  routeTab : List (Nat × BitVec 96)
  exportTab : List (Nat × BitVec 128)
  ports : List Port
  ctxs : List Ctx
  masters : List Master
  gaths : List Gath
  cores : List Core
  mem : Mem
  stale : Mem
  keyTags : List (Nat × Key)
  /-- the lines present in the L2 and in the bridges' tables, most recently used first (R70) -/
  homes : List Home
  /-- the arbitration pointers of R80 that are not 0, by line -/
  ptrs : List (Nat × Nat)
  /-- graph-head lines that are monitored, each with its context (R203) -/
  monitors : List (Nat × Nat)
  held : List Held
  msgs : List Msg
  persists : List Persist
  pending : List Pending
  leases : List Lease
  bridges : List Bridge
  /-- lines of device memory that the host caches, by half (R101) -/
  hostLines : List (Nat × Mesi × Mesi)
  /-- tokens of exported lines by importer (R102) -/
  peerTab : List (Nat × Nat × Nat)
  /-- importers whose token requests are outstanding: line, importer (R102) -/
  peerAsks : List (Nat × Nat)
  /-- the importer that has the owner token of the fabric bridge's tokens of a line (R76, R104) -/
  peerOwns : List (Nat × Nat)
  peersDown : List Nat
  walks : List Walk
  /-- MODEL: the fault of a walk that the word at issue waited for: core, context, page, reason (R34) -/
  walked : Option (Nat × Nat × Nat × Nat)
  /-- MODEL: table reads that meet an uncorrectable error next: context, page, physical address of the entry (R31, log 67) -/
  badWalks : List (Nat × Nat × Nat)
  /-- MODEL: 8-byte words whose next read at one moment meets an uncorrectable error, with the unit (R73, log 67) -/
  badReads : List (Nat × Nat)
  nodes : List Node
  spawnUsed : List (Nat × Nat)
  spawnLate : List SpawnLate
  folios : List Folio
  waitHead : Option WaitHead
  quires : List Quire
  passes : List Pass
  rays : List Ray
  huddles : List Huddle
  serving : List Serving
  deriving DecidableEq, Repr

/-- Reasons a step stops the machine. No rule of the manual stops the device: a trap, a fault record or an error
record is a next state. -/
inductive Fault where
  /-- raised by nobody: the device has no stopping fault, and the type is kept inhabited (safe) -/
  | deviceStopped
  deriving DecidableEq, Repr

/-- Reasons a step has no meaning. -/
inductive Refusal where
  /-- the instruction has no meaning yet: raised by an arm of exec (safe) -/
  | notModelled (mnemonic : String)
  deriving DecidableEq, Repr

/-- A context's block at reset (R37, R199, R401, R403, R447), unassigned (R478). -/
def Ctx.initial : Ctx :=
  { v := false, master := 0, epoch := 0, ran := false, ptbase := 0, fqBase := 0, fqFull := false, fqSize := 0
    fqPut := 0, fqGet := 0, invalVa := 0, invalBusy := false, invalKind := 0, invalPage := 0, heldRecs := [], outPages := []
    tgBase := 0, ghAddr := 0, tgEn := false, tgWeight := 1, tgQsize := 0, tgHsize := 0, nodeFail := false
    wdog := false, qfull := false, depUnder := false, consumed := 0, head := 0, wdogLimit := 0, wdogStart := 0
    dead := false, recl := false, capBase := 0, capNext := 0, capSize := 0, capWait := [], rayBase := 0
    rayPages := 0, rayFull := false, rayBlocks := [], used := [], execWait := [], got := [] }

/-- A master's error ring at reset (R412, R481). -/
def Master.initial : Master :=
  { errBase := 0, errFull := false, errLost := 0, errSize := 0, errPut := 0, errGet := 0, msix := [] }

/-- A gathering at reset: every bank in CACHE (R50), TLB and record cache empty. -/
def Gath.initial : Gath :=
  { banks := List.replicate 64 .cache, tlb := [], recs := [], maps := [], sleep := .awake, bench := [], bsel := 0
    bview := 0, passAt := 0, passNow := none, lru := [] }

/-- A core at reset. -/
def Core.initial : Core := { tlb := [], oldest := none }

/-- A fabric port at reset: not trained (R491). -/
def Port.initial : Port := { trained := false, dev := 0, flits := 0, replays := 0, epoch := 0 }

/-- SPDM at reset: no session (R488). -/
def Spdm.initial : Spdm :=
  { sessions := [], next := 0, reply := [] }

/-- The machine right after reset: bring-up has not begun (R491), nothing is assigned, resident or in flight.
DESIGN CHOICE where the manual gives no value, logs 1 to 5. -/
def State.reset : State :=
  { cycle := 0, agenda := [], turn := 0, fresh := 0, cur := none, nextId := 0, boot := 0, fwOk := false, ready := false
    product := .f1m, installed := 0, hostCache := true, hostMem := true, meas := List.replicate 16 0
    spdm := .initial, fabEn := false, devnum := 0, mstPriv := 1, retmax := 48, powLimit := 1200, extra := 0
    est := 0, corrected := List.replicate 9 0, routeTab := [], exportTab := []
    ports := List.replicate 96 .initial, ctxs := List.replicate 64 .initial
    masters := List.replicate 32 .initial, gaths := List.replicate 48 .initial
    cores := List.replicate 192 .initial, mem := [], stale := [], keyTags := [], homes := [], ptrs := [], monitors := []
    held := [], msgs := [], persists := [], pending := [], leases := [], bridges := [], hostLines := []
    peerTab := [], peerAsks := [], peerOwns := [], peersDown := [], walks := [], walked := none, badWalks := [], badReads := [], nodes := [], spawnUsed := [], spawnLate := [], folios := [], waitHead := none
    quires := [], passes := [], rays := [], huddles := [], serving := [] }

end Sys2Proof.Machine
end

