-- ==== Sys2Proof/Machine/Mem.lean ====
section
/-! DEFINITION. Bytes in memory: the canonical byte lists, physical locations of the three targets (R14), the keys
that 16-byte blocks are held under (R32, R72), and registered window lines (R23). -/

namespace Sys2Proof.Machine

/-- The byte at a location; an unlisted one reads zero (R491 for device memory, log 5 for the rest). -/
def memGet : Mem → Nat → Byte
  | [], _ => 0
  | (a, b) :: m, x => if a = x then b else if x < a then 0 else memGet m x

/-- Write one byte, keeping the canonical form. -/
def memSet : Mem → Nat → Byte → Mem
  | [], x, v => if v = 0 then [] else [(x, v)]
  | (a, b) :: m, x, v =>
    if x < a then (if v = 0 then (a, b) :: m else (x, v) :: (a, b) :: m)
    else if x = a then (if v = 0 then m else (x, v) :: m)
    else (a, b) :: memSet m x v

/-- Every listed address is at least `lo`, addresses rise strictly, and no listed byte is zero. -/
def memWfFrom : Nat → Mem → Bool
  | _, [] => true
  | lo, (a, b) :: m => decide (lo ≤ a) && b != 0 && memWfFrom (a + 1) m

/-- The canonical form of a memory. -/
def memWf (m : Mem) : Bool := memWfFrom 0 m

/-- `n` bytes from a location. -/
def memGetN (m : Mem) (a : Nat) : Nat → List Byte
  | 0 => []
  | n + 1 => memGet m a :: memGetN m (a + 1) n

/-- Write bytes from a location upward. -/
def memSetN (m : Mem) (a : Nat) : List Byte → Mem
  | [] => m
  | b :: bs => memSetN (memSet m a b) (a + 1) bs

/-- Write a list of (location, byte) pairs in order. -/
def memSetAll (m : Mem) : List (Nat × Byte) → Mem
  | [] => m
  | (a, b) :: l => memSetAll (memSet m a b) l

/-- Put pairs into a list of cells sorted by address, a later pair taking an earlier one's place; zero bytes stay listed. -/
def cellPut : List (Nat × Byte) → Nat → Byte → List (Nat × Byte)
  | [], x, v => [(x, v)]
  | (a, b) :: m, x, v => if x < a then (x, v) :: (a, b) :: m else if x = a then (x, v) :: m else (a, b) :: cellPut m x v

/-- Pairs of consecutive locations and bytes. -/
def cellsAt (a : Nat) : List Byte → List (Nat × Byte)
  | [] => []
  | b :: bs => (a, b) :: cellsAt (a + 1) bs

/-- First location of host memory. -/
def hostBase : Nat := 2 ^ 52
/-- First location of peer n's export space. -/
def peerBase (n : Nat) : Nat := 2 ^ 60 * (n + 1)
/-- Whether a location is in device memory. -/
def isDev (l : Loc) : Bool := l < 2 ^ 52
/-- Whether a location is in host memory. -/
def isHost (l : Loc) : Bool := 2 ^ 52 ≤ l && l < 2 ^ 60
/-- Whether a location is in a peer window. -/
def isPeer (l : Loc) : Bool := 2 ^ 60 ≤ l
/-- The device a peer location belongs to. -/
def peerOf (l : Loc) : Nat := l / 2 ^ 60 - 1
/-- The 128-byte line of a location. -/
def lineOf (l : Loc) : Nat := l / 128

/-- The key a block is held under; an unlisted block is open (R491 step 2). -/
def keyTag (s : State) (block : Nat) : Key := ((s.keyTags.find? fun e => e.1 == block).map (·.2)).getD .opened

/-- The byte at a location read under a key: ciphertext or its false decryption when the block is held under
another key (R32, R72). -/
def physRead (s : State) (k : Key) (l : Loc) : Byte :=
  if keyTag s (l / 16) = k then memGet s.mem l
  else Config.recrypt (keyTag s (l / 16)) k (l / 16) (memGetN s.mem (l / 16 * 16) 16) (l % 16)

/-- `n` bytes read under a key. -/
def physReadN (s : State) (k : Key) (l : Loc) : Nat → List Byte
  | 0 => []
  | n + 1 => physRead s k l :: physReadN s k (l + 1) n

/-- Bring a block under a key: its bytes become what a reader under that key sees (R72). -/
def rekeyBlock (s : State) (k : Key) (block : Nat) : State :=
  if keyTag s block = k then s
  else
    { s with
      mem := memSetN s.mem (block * 16) (physReadN s k (block * 16) 16)
      keyTags := (if k = .opened then [] else [(block, k)]) ++ s.keyTags.filter fun e => e.1 != block }

/-- Write one byte under a key. -/
def physWrite (s : State) (k : Key) (l : Loc) (b : Byte) : State :=
  let s1 := rekeyBlock s k (l / 16)
  { s1 with mem := memSet s1.mem l b }

/-- Write (location, byte) pairs under a key. -/
def physWriteAll (s : State) (k : Key) : List (Nat × Byte) → State
  | [] => s
  | (l, b) :: r => physWriteAll (physWrite s k l b) k r

/-- The registered window line that holds a location: folio and scratchpad offset (R22, R23). -/
def winFind (s : State) (l : Loc) : Option (Nat × Nat) :=
  s.folios.findSome? fun f =>
    (f.win.find? fun e => e.pl == lineOf l).map fun e => (f.id, e.sl * 128 + l % 128)

/-- The key of a context at its present epoch (R32, R479). -/
def ctxKey (s : State) (c : Nat) : Key := .ofCtx c ((s.ctxs[c]?.map (·.epoch)).getD 0)

/-- KEY of R67: the context number, or 64 for an open page. -/
def keyField : Key → Nat
  | .opened => 64
  | .ofCtx c _ => c

end Sys2Proof.Machine
end

