-- ==== Sys2Proof/Machine/Get.lean ====
section
/-! DEFINITION. Finding and changing the parts of the state: contexts, masters, gatherings, cores, quires, folios,
nodes, passes, rays. A change of an absent part changes nothing. -/

namespace Sys2Proof.Machine

/-- Change every element that satisfies p. -/
def updWhere {α : Type} (p : α → Bool) (f : α → α) (l : List α) : List α := l.map fun x => if p x then f x else x

def State.ctx (s : State) (c : Nat) : Ctx := s.ctxs.getD c .initial
def State.setCtx (s : State) (c : Nat) (f : Ctx → Ctx) : State := { s with ctxs := s.ctxs.modify c f }
def State.master (s : State) (m : Nat) : Master := s.masters.getD m .initial
def State.setMaster (s : State) (m : Nat) (f : Master → Master) : State := { s with masters := s.masters.modify m f }
def State.gath (s : State) (g : Nat) : Gath := s.gaths.getD g .initial
def State.setGath (s : State) (g : Nat) (f : Gath → Gath) : State := { s with gaths := s.gaths.modify g f }
def State.core (s : State) (c : Nat) : Core := s.cores.getD c .initial
def State.setCore (s : State) (c : Nat) (f : Core → Core) : State := { s with cores := s.cores.modify c f }
def State.quire (s : State) (q : Slot) : Option Quire := s.quires.find? fun x => x.slot == q
def State.setQuire (s : State) (q : Slot) (f : Quire → Quire) : State :=
  { s with quires := updWhere (fun x => x.slot == q) f s.quires }
def State.folio (s : State) (i : Nat) : Option Folio := s.folios.find? fun x => x.id == i
def State.setFolio (s : State) (i : Nat) (f : Folio → Folio) : State :=
  { s with folios := updWhere (fun x => x.id == i) f s.folios }
def State.node (s : State) (i : Nat) : Option Node := s.nodes.find? fun x => x.id == i
def State.setNode (s : State) (i : Nat) (f : Node → Node) : State :=
  { s with nodes := updWhere (fun x => x.id == i) f s.nodes }
def State.pass (s : State) (i : Nat) : Option Pass := s.passes.find? fun x => x.id == i
def State.setPass (s : State) (i : Nat) (f : Pass → Pass) : State :=
  { s with passes := updWhere (fun x => x.id == i) f s.passes }
def State.ray (s : State) (c h : Nat) : Option Ray := s.rays.find? fun x => x.ctx == c && x.handle == h
def State.setRay (s : State) (c h : Nat) (f : Ray → Ray) : State :=
  { s with rays := updWhere (fun x => x.ctx == c && x.handle == h) f s.rays }

/-- The gathering of a device core. -/
def gathOf (core : Nat) : Nat := core / 4

/-- The folio of a resident quire. -/
def State.folioOf (s : State) (q : Slot) : Option Folio := (s.quire q).bind fun x => s.folio x.folio

/-- Moves put before the rest of the agenda. -/
def State.push (s : State) (ms : List Move) : State := { s with agenda := ms ++ s.agenda }

/-- Moves put after the rest of the agenda. -/
def State.later (s : State) (ms : List Move) : State := { s with agenda := s.agenda ++ ms }

/-- A new name. -/
def State.named (s : State) (f : Nat → State → State) : State := f s.nextId { s with nextId := s.nextId + 1 }

/-- A free choice that a rule permits: the next value of the uninterpreted sequence (log 2). -/
def State.choose (s : State) : Bool × State := (Config.choice s.fresh, { s with fresh := s.fresh + 1 })

/-- The interrupt of context c goes to its owner's vector c (R476). -/
def interrupt (s : State) (c : Nat) : State :=
  if (s.ctx c).v then
    s.setMaster (s.ctx c).master fun m => { m with msix := c :: m.msix.filter (· != c) }
  else s

end Sys2Proof.Machine
end

