-- ==== Sys2Proof/Machine/Launch.lean ====
section
/-! DEFINITION. The fields of launch records (R200) and what they give a folio (R18, R27, R44, R52, R63, R148). -/

namespace Sys2Proof.Machine

def rcCode (r : Nat) : Nat := bitsOf r 63 0
def rcArgs (r : Nat) : Nat := bitsOf r 127 64
def rcEx (r : Nat) : Nat := bitsOf r 159 128
def rcEy (r : Nat) : Nat := bitsOf r 175 160
def rcEz (r : Nat) : Nat := bitsOf r 191 176
def rcFthreads (r : Nat) : Nat := bitsOf r 208 192
def rcQw (r : Nat) : Nat := bitsOf r 210 209
def rcFcores (r : Nat) : Nat := bitsOf r 213 211
def rcRegs (r : Nat) : Nat := bitsOf r 221 214
def rcScr (r : Nat) : Nat := bitsOf r 226 224
def rcFifos (r : Nat) : Nat := bitsOf r 230 227
def rcFifoe (r : Nat) : Nat := bitsOf r 233 231
def rcTags (r : Nat) : Nat := bitsOf r 236 234
def rcPrio (r : Nat) : Nat := bitsOf r 239 237
def rcNlog (r : Nat) : Nat := bitsOf r 247 240
def rcPriv (r : Nat) : Nat := bitsOf r 287 256
def rcCkpt (r : Nat) : Nat := bitsOf r 303 288
def rcIdem (r : Nat) : Bool := r.testBit 304
def rcDet (r : Nat) : Bool := r.testBit 305
def rcMapped (r : Nat) : Bool := r.testBit 306
def rcCheck (r : Nat) : Bool := r.testBit 307
def rcDepthTrap (r : Nat) : Bool := r.testBit 308
def rcPassmode (r : Nat) : Bool := r.testBit 309
def rcKind (r : Nat) : Nat := bitsOf r 311 310
def rcAnyhit (r : Nat) : Bool := r.testBit 312
def rcPrivBase (r : Nat) : Nat := bitsOf r 383 320
def rcWbase (r : Nat) : Nat := bitsOf r 447 384
def rcRingBase (r : Nat) : Nat := bitsOf r 511 448
def rcSeed (r : Nat) : Nat := bitsOf r 575 512
def rcRdepth (r : Nat) : Nat := bitsOf r 580 576
def rcPayload (r : Nat) : Nat := bitsOf r 591 584
def rcRingSize (r : Nat) : Nat := bitsOf r 596 592
def rcDep (r : Nat) : Nat := bitsOf r 623 608
def rcStatus (r : Nat) : Nat := bitsOf r 631 624
def rcReason (r : Nat) : Nat := bitsOf r 639 632
def rcSucc (r i : Nat) : Nat := bitsOf r (640 + 16 * i + 15) (640 + 16 * i)
def rcNsucc (r : Nat) : Nat := bitsOf r 771 768

/-- Quire width W of code QW (R200). -/
def quireWidth (r : Nat) : Nat := 16 * 2 ^ rcQw r
/-- Folio cores c of code FCORES (R200). -/
def folioCores (r : Nat) : Nat := 2 ^ rcFcores r
/-- Banks per core share of code SCR (R200). -/
def scratchBanks (r : Nat) : Nat := if rcScr r = 0 then 0 else 2 ^ (rcScr r - 1)
/-- Tags T of code TAGS (R200). -/
def folioTags (r : Nat) : Nat := if rcTags r = 0 then 0 else 8 * 2 ^ (rcTags r - 1)
/-- FIFO entry bytes E of code FIFOE (R200). -/
def fifoBytes (r : Nat) : Nat := 16 * 2 ^ rcFifoe r
/-- Scratchpad bytes Z of a folio (R18). -/
def scratchBytes (r : Nat) : Nat := folioCores r * scratchBanks r * 32768
/-- Registers a thread occupies (R44). -/
def regGranule (c : Nat) : Nat := 4 * ((c + 3) / 4)
/-- Quires of a folio (R168). -/
def folioQuires (r : Nat) : Nat :=
  roundUp ((rcFthreads r + quireWidth r - 1) / quireWidth r) (folioCores r)
/-- Folios of an edition (R168). -/
def editionFolios (r : Nat) : Nat := rcEx r * rcEy r * rcEz r

/-- Replace a field of a record. -/
def setField (r hi lo v : Nat) : Nat :=
  r / 2 ^ (hi + 1) * 2 ^ (hi + 1) + v % 2 ^ (hi + 1 - lo) * 2 ^ lo + r % 2 ^ lo

/-- The record a quire runs under: its folio's. -/
def State.rcdOf (s : State) (q : Slot) : Nat := ((s.folioOf q).map (·.rcd)).getD 0

/-- Gatherings of a folio in folio-relative order (R170). -/
def folioGaths (f : Folio) : List Nat := (f.cores.map gathOf).dedup

end Sys2Proof.Machine
end

