-- ==== Sys2Proof/Machine/Log.lean ====
section
/-! DEFINITION. The operand log as data (R405): the kind of an opcode's accesses, which accesses wait for older ones (R110,
R114, R116, R348, R406), and what a try region keeps of a thread's accesses (R183 to R187). -/

namespace Sys2Proof.Machine

/-- The spaces an access can be made in. -/
inductive Space where
  | generic
  | scratch
  | priv
  | const
  | tile
  | image
  deriving DecidableEq, Repr

/-- The space of an opcode's accesses (R334, R346, R353). -/
def opSpace (op : Nat) : Space :=
  if 0x110 ≤ op ∧ op ≤ 0x11B ∨ 0x145 ≤ op ∧ op ≤ 0x147 then .scratch
  else if 0x120 ≤ op ∧ op ≤ 0x123 then .priv
  else if op = 0x124 ∨ op = 0x125 then .const
  else if op = 0x126 then .tile
  else if 0x150 ≤ op ∧ op < 0x160 then .image
  else .generic

/-- Whether an opcode is an atomic. -/
def opAtomic (op : Nat) : Bool := 0x140 ≤ op && op ≤ 0x147
/-- Whether an opcode is IMST. -/
def opImst (op : Nat) : Bool := op == 0x15C || op == 0x15D
/-- Whether an opcode stores from a register. -/
def opStore (op : Nat) : Bool :=
  op ∈ [0x102, 0x103, 0x10A, 0x10B, 0x112, 0x113, 0x11A, 0x11B, 0x121, 0x123]
/-- Whether an opcode's accesses are writes. -/
def opWrites (op : Nat) : Bool := opStore op || opImst op
/-- Whether an opcode is an `.ACQ` load. -/
def opAcqLoad (op : Nat) : Bool := op ∈ [0x101, 0x109, 0x111, 0x119]
/-- Whether an opcode is a `.REL` store. -/
def opRelStore (op : Nat) : Bool := op ∈ [0x103, 0x10B, 0x113, 0x11B]
/-- Whether an entry's accesses act as acquires (R116). -/
def entAcq (op : Nat) (f : Full) : Bool := opAcqLoad op || (opAtomic op && f.c.toNat / 8 % 2 == 1)
/-- Whether an entry's accesses act as releases. -/
def entRel (op : Nat) (f : Full) : Bool := opRelStore op || (opAtomic op && f.c.toNat / 16 % 2 == 1)
/-- Whether an opcode loads on route 0 from a cacheable page. -/
def opLoads (op : Nat) : Bool :=
  (opSpace op == .generic && !opAtomic op && !opStore op) || (opSpace op == .priv && !opStore op)

/-- Ranges overlap. -/
def overlaps (a la b lb : Nat) : Bool := a < b + lb && b < a + la

/-- The bytes that an access has still to touch: generic address, location, length. Of an image read, those of the units that are
not bound yet (R105, R114); its descriptor, which stands first, has been read. -/
def accSpans (a : Acc) : List (Nat × Loc × Nat) :=
  if a.spans = [] then [(a.va, a.loc, a.len)]
  else (a.spans.zipIdx.filter fun z => z.2 != 0 && !(a.vals.any fun v => v.1 == z.2)).map (·.1)

/-- Unit k of an image read, as an access of its own. -/
def accUnit (a : Acc) (k : Nat) : Acc := { a with spans := a.spans.take 1 ++ (a.spans.drop (k + 1)).take 1, vals := [] }

/-- A parked access whose record or descriptor is still to be read: it may touch any byte. -/
def accUnknown (a : Acc) : Bool := a.st == .parked && a.len == 0

/-- Two accesses touch a common byte (R114, R406). A parked access is known by its generic address. -/
def accOverlap (x y : Acc) : Bool :=
  accUnknown x || accUnknown y ||
    (accSpans x).any fun p => (accSpans y).any fun r =>
      if x.st = .parked ∨ y.st = .parked then overlaps p.1 p.2.2 r.1 r.2.2 else overlaps p.2.1 p.2.2 r.2.1 r.2.2

/-- Two accesses are the same one of an entry. -/
def Acc.same (x y : Acc) : Bool := x.t == y.t && x.piece == y.piece

/-- An access must wait for an older one of its thread, or for a lower thread of its word (R110, R114, R116, R348,
R406). -/
def heldBack (q : Quire) (e : LogEntry) (a : Acc) : Bool :=
  (q.log.any fun x =>
    x.seq < e.seq && x.acc.any fun b =>
      (b.t == a.t || x.uni || e.uni) && b.st != .done &&
        (accOverlap a b || entAcq x.op x.f || entRel e.op e.f || (entAcq e.op e.f && b.st == .parked)))
  || ((opWrites e.op || opAtomic e.op) && e.acc.any fun b =>
      b.t < a.t && b.st != .done &&
        (accOverlap a b || (opAtomic e.op && lineOf a.loc == lineOf b.loc)))

/-- An acquire of one of the threads `ts` has still to take its value: no later event of theirs takes its moment (R115
condition 4, R116). -/
def acqWaits (q : Quire) (ts : List Nat) : Bool :=
  q.log.any fun e => entAcq e.op e.f && e.acc.any fun a => a.st != .done && (e.uni || ts.contains a.t)

/-- Change one access of a log. -/
def logPut (seq : Nat) (a : Acc) (f : Acc → Acc) (l : List LogEntry) : List LogEntry :=
  updWhere (fun x => x.seq == seq) (fun x => { x with acc := updWhere (fun y => y.same a) f x.acc }) l

/-- Change thread t of a quire. -/
def Quire.setTh (q : Quire) (t : Nat) (f : Thread → Thread) : Quire := { q with th := q.th.modify t f }

/-- Whether a thread is a member of its quire's open region (R183). -/
def Quire.member (q : Quire) (t : Nat) : Bool := (q.region.map fun r => r.members.contains t).getD false

/-- A quire abort, kept until the quire's members leave at the rally boundary (R187, R188): the lowest code of
those that strike stands. -/
def strikeRegion (q : Quire) (code : Nat) : Quire :=
  { q with region := q.region.map fun r =>
      { r with conflict := match r.conflict with
                           | none => some (code, 0)
                           | some (k, v) => if code < k then some (code, 0) else some (k, v) } }

/-- A thread abort (R187): it waits for the rally boundary; the lowest code stands, and a commit-held thread is held no more. -/
def abortThread (q : Quire) (t code val : Nat) : Quire :=
  q.setTh t fun th =>
    { th with
      c := false
      tryTh := th.tryTh.map fun y =>
        { y with abort := match y.abort with
                          | none => some (code, val)
                          | some (k, v) => if code < k then some (code, val) else some (k, v) } }

/-- A region's read-set or write-set line is added; past 128 lines the region overflows (R185, R187). -/
def joinSet (q : Quire) (line : Nat) (write : Bool) : Quire :=
  match q.region with
  | none => q
  | some r =>
    let r1 : Region :=
      if write then { r with writes := (line :: r.writes).dedup } else { r with reads := (line :: r.reads).dedup }
    let q1 := { q with region := some r1 }
    if 128 < (r1.reads ++ r1.writes).dedup.length then strikeRegion q1 3 else q1

/-- A member's latest buffered byte (R130). -/
def regionByte (q : Quire) (t : Nat) (l : Loc) : Option Byte :=
  q.region.bind fun r => (r.buf.reverse.find? fun e => e.1 == t && e.2.2.1 == l).map fun e => e.2.2.2.1

/-- A `.chk` load of thread t records its bytes; the ninth range overflows (R185, R341). -/
def recordChk (q : Quire) (t : Nat) (l : Loc) (n : Nat) : Quire :=
  match (q.th[t]?).bind (·.tryTh) with
  | none => q
  | some y =>
    if 8 ≤ y.chk.length then strikeRegion q 3
    else q.setTh t fun th => { th with tryTh := some { y with chk := (l, n) :: y.chk } }

/-- The threads that an access of a word stands for (R340). -/
def accThreads (e : LogEntry) (a : Acc) : List Nat := if e.uni then e.act else [a.t]

/-- An access reads or writes as a member of the region that a thread of it is still in (R185). -/
def tryAcc (q : Quire) (e : LogEntry) (a : Acc) : Bool := a.inTry && (accThreads e a).any q.member

/-- The thread whose region such an access is made in: the first member of those it stands for. -/
def tryThread (q : Quire) (e : LogEntry) (a : Acc) : Nat := ((accThreads e a).find? q.member).getD a.t

/-- An access of threads `ts` is parked (R406). -/
def parkedThreads (q : Quire) (ts : List Nat) : Bool :=
  q.log.any fun e => e.acc.any fun a => a.st == .parked && (e.uni || ts.contains a.t)

/-- An access of threads `ts` issued by a word from `since` on has not been done (R188). -/
def busySince (q : Quire) (t since : Nat) : Bool :=
  q.log.any fun e => decide (since ≤ e.seq) && e.acc.any fun a => a.st != .done && (e.uni || a.t == t)

end Sys2Proof.Machine
end

