-- ==== Sys2Proof/Machine/Coh.lean ====
section
/-! DEFINITION. Coherence of lines: homes, agents' lines, token requests, pending stores, leases (R74 to R94), a gathering's
CACHE ways (R56, R85), and the reads and writes of bytes that the memory model allows at one moment (R106, R109, R118). -/

namespace Sys2Proof.Machine

/-- A line's home fields; a line absent from the L2 has all its tokens at home (R75). -/
def homeOf (s : State) (line : Nat) : Home :=
  (s.homes.find? fun h => h.line == line).getD
    { line := line, ht := 64, ho := true, hv := true, hold := [], ver := 0, verAt := 0, lexp := 0, ckey := none, pra := false
      win := false }

/-- Change a line's home fields; the line is then the most recently used one at its home (R70, R71). -/
def setHome (s : State) (line : Nat) (f : Home → Home) : State :=
  { s with homes := f (homeOf s line) :: s.homes.filter fun h => h.line != line }

/-- An access at the home brings the line in and makes it the most recently used (R71). -/
def touchHome (s : State) (line : Nat) : State := setHome s line fun h => h

/-- An agent's copy of a line; an absent one is in state I (R77). -/
def heldOf (s : State) (a line : Nat) : Held :=
  (s.held.find? fun h => h.agent == a && h.line == line).getD
    { agent := a, line := line, tok := 0, own := false, valid := false, dirty := false, req := none, fails := 0
      fourth := 0, pers := none, recorded := none, bound := [] }

/-- Change an agent's copy of a line. -/
def setHeld (s : State) (a line : Nat) (f : Held → Held) : State :=
  { s with held := f (heldOf s a line) :: s.held.filter fun h => !(h.agent == a && h.line == line) }

/-- An agent's copy goes to I or PW: no token, no data (R77). -/
def Held.emptied (h : Held) : Held := { h with tok := 0, own := false, valid := false, dirty := false }

/-- A gathering in RETAIN wakes to answer (R95). -/
def wakeGath (s : State) (a : Nat) : State := s.setGath a fun g => if g.sleep = .retain then { g with sleep := .awake } else g

/-- A region has a line in its sets. -/
def Region.has (r : Region) (line : Nat) : Bool := r.reads.contains line || r.writes.contains line

/-- A token of the line leaves the gathering: every region with the line in its sets aborts (R86). -/
def tokensLeave (s : State) (g line : Nat) : State :=
  { s with
    quires := updWhere (fun q => gathOf q.slot.core == g && (q.region.map fun r => r.has line).getD false)
      (fun q => strikeRegion q 2) s.quires }

/-- A store or a commit of quire `q` puts bytes into a line that other quires of its gathering hold in their
sets (R86). -/
def storeStrikes (s : State) (g line : Nat) (q : Option Slot) : State :=
  { s with
    quires := updWhere
      (fun x => gathOf x.slot.core == g && some x.slot != q && (x.region.map fun r => r.has line).getD false)
      (fun x => strikeRegion x 2) s.quires }

/-- The value of a line changes outside a gathering: a region elsewhere that read it without a token, at a window line or an NC
page, aborts (R130). -/
def awayStrikes (s : State) (g line : Nat) : State :=
  { s with
    quires := updWhere (fun x => gathOf x.slot.core != g && (x.region.map fun r => r.has line).getD false)
      (fun x => strikeRegion x 2) s.quires }

/-- Every region with the line in its sets aborts, except that of quire `q` (R86, R130). -/
def lineStrikes (s : State) (line : Nat) (q : Option Slot) : State :=
  { s with
    quires := updWhere (fun x => some x.slot != q && (x.region.map fun r => r.has line).getD false)
      (fun x => strikeRegion x 2) s.quires }

/-- Whether some byte of a half of the line is dirty at an agent (R76). -/
def halfDirty (s : State) (line k : Nat) : Bool := s.stale.any fun c => lineOf c.1 == line && c.1 % 128 / 64 == k

/-- Dirty data of the line has reached its home: the earlier contents are forgotten (R76), and at the bridge a dirty half held
in E goes to M (R98). -/
def cleanLine (s : State) (line : Nat) : State :=
  let up (k : Nat) (x : Mesi) : Mesi := if x = .e ∧ halfDirty s line k then .m else x
  { s with
    stale := s.stale.filter fun c => lineOf c.1 != line
    bridges := if isHost (line * 128) then updWhere (fun b => b.line == line) (fun b => { b with h0 := up 0 b.h0, h1 := up 1 b.h1 }) s.bridges
               else s.bridges }

/-- Dirty data of the line is lost: memory holds its earlier contents again (R73, R104, R409). -/
def loseLine (s : State) (line : Nat) : State :=
  { s with
    mem := memSetAll s.mem (s.stale.filter fun c => lineOf c.1 == line)
    stale := s.stale.filter fun c => lineOf c.1 != line }

/-- Send a message. -/
def sendMsg (s : State) (line src : Nat) (dst : Option Nat) (k : MsgKind) : State :=
  { s with
    msgs := s.msgs ++ [{ id := s.nextId, line := line, src := src, dst := dst, kind := k, sent := s.cycle, told := [] }]
    nextId := s.nextId + 1 }

/-- Tokens leave for an agent or for the home (R76): none are sent when there are none. A home notes who may hold them. -/
def sendTokens (s : State) (line src : Nat) (dst : Option Nat) (tok : Nat) (own data dirty : Bool) : State :=
  if tok = 0 then s
  else
    let fill : Bool := data && match dst with
      | some a => !(heldOf s a line).valid
      | none => false
    let s1 := sendMsg s line src dst (.tokens tok own data dirty fill)
    match dst with
    | some a => setHome s1 line fun h => { h with hold := (a :: h.hold).dedup }
    | none => s1

/-- Whether a message carries tokens. -/
def MsgKind.isTokens : MsgKind → Bool
  | .tokens .. => true
  | _ => false

/-- The last pending byte of a gathering at a location under a key (R109 case 1). -/
def pendingByte (s : State) (g : Nat) (k : Key) (l : Loc) : Option Byte :=
  (s.pending.reverse.find? fun p => p.gath == g && p.loc == l && p.key == k).map (·.byte)

/-- The byte of a posted write at a location. -/
def postedCell (k : Key) (l : Loc) (m : Msg) : Option Byte :=
  match m.kind with
  | .posted data key by_ => if key = k ∧ by_.add = none then (data.reverse.find? fun c => c.1 == l).map (·.2) else none
  | _ => none

/-- The last byte that a gathering has posted to a location under a key and that is not performed (R106, R109 case 1). -/
def postedByte (s : State) (g : Nat) (k : Key) (l : Loc) : Option Byte :=
  if isDev l then none else (s.msgs.filter fun m => m.src == g).reverse.findSome? (postedCell k l)

/-- Whether a gathering has a pending byte in the line. -/
def hasPending (s : State) (g line : Nat) : Bool := s.pending.any fun p => p.gath == g && lineOf p.loc == line

/-- The window line that holds a location, with the folio's bytes (R22). -/
def winLine (s : State) (f off : Nat) : Option (Folio × WinLine) :=
  (s.folio f).bind fun x => (x.win.find? fun e => e.sl == off / 128).map fun e => (x, e)

/-- The byte a route 0 read of a gathering returns when it is bound now (R109, R23). -/
def readByte (s : State) (g : Option Nat) (k : Key) (l : Loc) : Byte :=
  match winFind s l with
  | some (f, off) =>
    match winLine s f off with
    | some (x, e) => if e.valid && e.key == k then memGet x.scr off else physRead s k l
    | none => physRead s k l
  | none =>
    match g.bind fun g => (pendingByte s g k l).orElse fun _ => postedByte s g k l with
    | some b => b
    | none => physRead s k l

/-- `n` bytes read at one moment. -/
def readBytes (s : State) (g : Option Nat) (k : Key) (l : Loc) : Nat → List Byte
  | 0 => []
  | n + 1 => readByte s g k l :: readBytes s g k (l + 1) n

/-- What a load returns when it is bound now: a member of a region its own buffered bytes, else performed bytes (R130); any
other thread its gathering's pending bytes over performed ones (R109). -/
def loadBytes (s : State) (g : Nat) (q : Quire) (e : LogEntry) (a : Acc) : List Byte :=
  if tryAcc q e a then
    (List.range a.len).map fun i => (regionByte q (tryThread q e a) (a.loc + i)).getD (readByte s none a.key (a.loc + i))
  else readBytes s (some g) a.key a.loc a.len

/-- A load waits for data of a line. -/
def waitsOn (q : Quire) (e : LogEntry) (line : Nat) (a : Acc) : Bool :=
  opLoads e.op && a.st == .waiting && !a.nc && a.got.isNone && decide (a.loc < 2 ^ 72) && lineOf a.loc == line && !heldBack q e a

/-- The loads of a gathering that wait for data of a line: slot, entry, thread, half (R94). -/
def loadsOn (s : State) (g line : Nat) : List (Slot × Nat × Nat × Nat) :=
  (s.quires.filter fun q => gathOf q.slot.core == g).flatMap fun q =>
    q.log.flatMap fun e => (e.acc.filter (waitsOn q e line)).map fun a => (q.slot, e.seq, a.t, a.piece)

/-- The loads of a list take a fill's data once (R94); a member's joins its line to the read set (R85). -/
def bindLoads (s : State) (g line : Nat) (l : List (Slot × Nat × Nat × Nat)) : State :=
  { s with
    quires := updWhere (fun q => gathOf q.slot.core == g)
      (fun q =>
        let mine := q.log.flatMap fun e =>
          (e.acc.filter fun a => waitsOn q e line a && l.contains (q.slot, e.seq, a.t, a.piece)).map fun a => (e, a)
        let q1 := if mine.any fun x => tryAcc q x.1 x.2 then joinSet q line false else q
        { q1 with
          log := mine.foldl (fun log x =>
            logPut x.1.seq x.2 (fun y => { y with got := some (bytesVal (loadBytes s g q x.1 x.2)) }) log) q1.log })
      s.quires }

/-- A transient request goes to the home (R78): a WRITE takes the place of a READ. -/
def sendRequest (s : State) (a line : Nat) (r : Req) : State :=
  match (heldOf s a line).req, r with
  | some (.write, _), _ => s
  | some (.read, _), .read => s
  | _, _ => sendMsg (setHeld s a line fun h => { h with req := some (r, s.cycle) }) line a none (.request r)

/-- A fill has been passed on or recalled: the line is not installed, and what is bound later asks again (R82, R94). -/
def fillGone (s : State) (a line : Nat) : State :=
  let s1 := setHeld s a line fun h =>
    { h with recorded := none, bound := [], req := if h.pers.isSome then h.req else none }
  if hasPending s1 a line then sendRequest s1 a line .write else s1

/-- A count of tokens cut to what is left of a line's. -/
def peerFit (line : Nat) : Nat → List (Nat × Nat × Nat) → List (Nat × Nat × Nat)
  | _, [] => []
  | n, e :: r =>
    if e.1 = line then
      (if min n e.2.2 = 0 then [] else [(e.1, e.2.1, min n e.2.2)]) ++ peerFit line (n - min n e.2.2) r
    else e :: peerFit line n r

/-- The peer table's counts follow the tokens that the fabric bridge holds as agent 49 (R102). -/
def peerSync (s : State) (line : Nat) : State := { s with peerTab := peerFit line (heldOf s 49 line).tok s.peerTab }

/-- Agents that hold tokens of a line, other than `but`. -/
def holders (s : State) (line : Nat) (but : Option Nat) : List Nat :=
  (s.held.filter fun h => h.line == line && h.tok != 0 && some h.agent != but).map (·.agent)

/-- An active persistent request of a line is broadcast again when tokens come home (R80). -/
def kickPersist (s : State) (line : Nat) : State :=
  match s.persists.find? fun p => p.line == line && p.active with
  | none => s
  | some p =>
    if (heldOf s p.agent line).tok = 64 ∨ s.msgs.any fun m => m.line == line && match m.kind with | .activate _ => true | _ => false then s
    else sendMsg s line p.agent none (.activate p.req)

/-- A message of tokens meets a recall: the loads bound to the fill take its data, and the tokens go to the home, so that a region
that has read them aborts (R86, R94). -/
def recallFill (s : State) (m : Msg) : State :=
  match m.dst with
  | none => s
  | some a =>
    match m.kind with
    | .tokens _ _ _ _ true => fillGone (tokensLeave (bindLoads s a m.line (loadsOn s a m.line)) a m.line) a m.line
    | _ => s

/-- Every token of a line comes home, with dirty data, from agents other than `but` and from messages in flight
(R78, R93). A gathering asleep in RETAIN wakes to answer (R95). -/
def recallTokens (s : State) (line : Nat) (but : Option Nat) : State :=
  let s0 := ((homeOf s line).hold.filter fun a => some a != but).foldl wakeGath s
  let s1 := (holders s line but).foldl (fun s a => setHeld (tokensLeave (wakeGath s a) a line) a line Held.emptied) s0
  let flying := s1.msgs.filter fun m => m.line == line && m.kind.isTokens
  let s2 := (flying.filter fun m => m.dst != but).foldl recallFill s1
  let s3 : State :=
    { s2 with
      msgs := s2.msgs.filter fun m => !(m.line == line && (m.kind.isTokens || m.kind == .recall))
      hostLines := if but = some 48 then s2.hostLines else s2.hostLines.filter fun e => e.1 != line }
  let kept : Nat := match but with | some a => (heldOf s3 a line).tok | none => 0
  let keptOwn : Bool := match but with | some a => (heldOf s3 a line).own | none => false
  let s4 := setHome (peerSync s3 line) line fun h =>
    { h with ht := 64 - kept, ho := !keptOwn, hv := true, hold := match but with
                                                                | some a => if kept = 0 then [] else [a]
                                                                | none => [] }
  if keptOwn then s4 else cleanLine s4 line

/-- Ways of a gathering's cache: one for each bank in CACHE (R56). -/
def cacheWays (s : State) (g : Nat) : Nat := ((s.gath g).banks.filter (· == .cache)).length

/-- Lines of a gathering's cache in the set of a line (R56): those held with tokens or with pending bytes, and those held by
lease, which are marked. A registered window line stands in a scratch bank (R23). -/
def cacheCrowd (s : State) (g line : Nat) : List (Bool × Nat) :=
  ((s.held.filter fun h => h.agent == g && h.line % 256 == line % 256 && (h.tok != 0 || hasPending s g h.line)
      && !(homeOf s h.line).win).map fun h => (false, h.line))
    ++ ((s.leases.filter fun l => l.at_ == .tile g && l.line % 256 == line % 256).map fun l => (true, l.line))

/-- A line of the cache is used: it is the most recently used (R56). -/
def touchLine (s : State) (g : Nat) (e : Bool × Nat) : State := s.setGath g fun x => { x with lru := e :: x.lru.filter (· != e) }

/-- A line in the read set or the write set of a quire's region is pinned, until the region aborts (R85). -/
def pins (line : Nat) (q : Quire) : Bool := (q.region.map fun r => r.conflict.isNone && r.has line).getD false

/-- Some region of the gathering pins the line. -/
def pinned (s : State) (g line : Nat) : Bool := s.quires.any fun q => gathOf q.slot.core == g && pins line q

/-- Every way is pinned: the quire whose region began latest among those that pin the set aborts with OVERFLOW, and its pins
are released (R85). -/
def pinOverflow (s : State) (crowd : List Nat) (g : Nat) : State :=
  let mine := s.quires.filter fun q => gathOf q.slot.core == g && crowd.any fun l => pins l q
  let begun (q : Quire) : Nat := (q.region.map (·.begun)).getD 0
  let latest := mine.foldl (fun (b : Option Quire) q => match b with
    | some x => if begun x < begun q then some q else some x
    | none => some q) none
  match latest with
  | some q => s.setQuire q.slot fun x => strikeRegion x 3
  | none => s

/-- All of an agent's tokens of a line go home, with its data if the owner token is among them (R76). -/
def sendHome (s : State) (a line : Nat) : State :=
  let h := heldOf s a line
  let s1 := setHeld s a line Held.emptied
  sendTokens (setHome s1 line fun x => { x with hold := x.hold.filter (· != a) }) line a none h.tok h.own h.own h.dirty

/-- They do so under an event that ends the regions which hold the line (R54, R86). -/
def tokensHome (s : State) (a line : Nat) : State := sendHome (tokensLeave s a line) a line

/-- A line of the cache may be replaced: a lease copy, or tokens without a pending store, an outstanding request or a pin. -/
def mayReplace (s : State) (g : Nat) (e : Bool × Nat) : Bool :=
  e.1 || ((heldOf s g e.2).req.isNone && !hasPending s g e.2 && !pinned s g e.2)

/-- The least recently used of some lines. -/
def lruOf (s : State) (g : Nat) (may : List (Bool × Nat)) : Option (Bool × Nat) :=
  (may.find? fun e => !(s.gath g).lru.contains e).orElse fun _ => (s.gath g).lru.reverse.find? may.contains

/-- The least recently used line of a list that may be replaced. -/
def lruVictim (s : State) (g : Nat) (crowd : List (Bool × Nat)) : Option (Bool × Nat) := lruOf s g (crowd.filter (mayReplace s g))

/-- One line leaves a gathering's cache: a lease copy is dropped, tokens go home (R56). A replaced line is in no region's sets
but those of a region that aborts already, so R86 strikes nothing. -/
def evictLine (s : State) (g : Nat) (e : Bool × Nat) : State :=
  let s1 := s.setGath g fun x => { x with lru := x.lru.filter (· != e) }
  if e.1 then { s1 with leases := s1.leases.filter fun l => !(l.at_ == .tile g && l.line == e.2) } else sendHome s1 g e.2

/-- The home's version moves on (R90): at most one such event of a line falls in a cycle. -/
def bumpVer (s : State) (line : Nat) : State :=
  let s1 : State := if (homeOf s line).verAt = s.cycle + 1 then { s with cycle := s.cycle + 1 } else s
  setHome s1 line fun h => { h with ver := (h.ver + 1) % 2 ^ 24, verAt := s1.cycle + 1 }

/-- The home's last token goes to an agent: its version moves on (R90; DEDUCED, log 91: so it does for a READ, since the
agents' tokens may then be collected without the home). -/
def lastToken (s : State) (line : Nat) : State := if (homeOf s line).ht = 0 then s else bumpVer s line

/-- A message of the agent registers or gives up a persistent request for the line (R80). -/
def isPersMsg (a line : Nat) (m : Msg) : Bool :=
  m.line == line && m.src == a && match m.kind with | .persist _ => true | .deactivate => true | _ => false

/-- A persistent request of an agent is given up (R80): a deactivation follows the registration to the home. -/
def settlePers (s : State) (a line : Nat) : State :=
  if (heldOf s a line).pers.isNone then s
  else sendMsg (setHeld s a line fun x => { x with pers := none }) line a none .deactivate

/-- One agent collects all 64 tokens of a line that has its place (a WRITE request carried through, R78), and the host gives both
halves of a line of its memory (R98). -/
def collectHeld (s : State) (a line : Nat) : State :=
  if (heldOf s a line).tok = 64 ∧ (heldOf s a line).valid then s
  else
    let s1 := lastToken s line
    let s2 := recallTokens s1 line (some a)
    let s3 := setHome s2 line fun h => { h with ht := 0, ho := false, hv := false, hold := [a] }
    let s4 := setHeld s3 a line fun h =>
      { h with tok := 64, own := true, valid := true, req := none, fails := 0, recorded := none, bound := [] }
    let s5 : State := { s4 with
      msgs := s4.msgs.filter fun m => !(m.line == line && m.src == a &&
        match m.kind with | .request _ => true | .forward _ => true | _ => false) }
    let s6 := if (heldOf s5 a line).pers.isSome then settlePers s5 a line else s5
    let s7 := kickPersist s6 line
    if isHost (line * 128) then
      let own (f : Bridge → Mesi) : Mesi := if s7.bridges.any fun b => b.line == line && f b == .m then .m else .e
      { s7 with bridges := { line := line, h0 := own (·.h0), h1 := own (·.h1) } :: s7.bridges.filter fun b => b.line != line }
    else s7

/-- A recall of leases is broadcast: every gathering in RETAIN wakes to answer it (R93, R95). -/
def wakeAll (s : State) : State :=
  { s with gaths := updWhere (fun g => g.sleep == .retain) (fun g => { g with sleep := .awake }) s.gaths }

/-- A lease recall (R93): copies of the line are dropped, wherever they are, where any may be out. -/
def dropLeases (s : State) (line : Nat) : State :=
  let out : Bool := (s.leases.any fun l => l.line == line) || decide (s.cycle < (homeOf s line).lexp)
  let s1 := if out then wakeAll s else s
  setHome { s1 with leases := s1.leases.filter fun l => l.line != line } line fun h => { h with lexp := 0 }

/-- An access under a key other than that of the line's copies recalls every copy, writes the line back, and leaves
only the copy the access fills afresh, that of the agent `keep` (R72). A window line is served at its window (R23). -/
def settleFor (s : State) (k : Key) (line : Nat) (keep : Option Nat) : State :=
  let h := homeOf s line
  if h.ckey = some k ∨ h.win then s
  else if h.ckey = none then setHome s line fun h => { h with ckey := some k }
  else
    let s1 := match keep with
      | some a => if (heldOf s a line).tok = 0 then s else tokensLeave s a line
      | none => s
    let s2 := cleanLine (dropLeases (recallTokens s1 line keep) line) line
    kickPersist (setHome s2 line fun h => { h with ckey := some k }) line

/-- The same for an access that keeps no copy. -/
def settleCopies (s : State) (k : Key) (l : Loc) : State := settleFor s k (lineOf l) none

/-- The home's earlier contents of bytes about to be written by an agent in M. -/
def keepStale (s : State) (l : Loc) : State :=
  if s.stale.any fun c => c.1 == l then s else { s with stale := (l, memGet s.mem l) :: s.stale }

/-- A byte written into a line in M: performed at once (R82, R83); the home's data is no longer current (R75). -/
def writeM (s : State) (a : Nat) (k : Key) (l : Loc) (b : Byte) : State :=
  let s1 := physWrite (keepStale s l) k l b
  if (heldOf s1 a (lineOf l)).dirty then s1
  else
    { setHeld s1 a (lineOf l) fun h => { h with dirty := true } with
      homes := updWhere (fun h => h.line == lineOf l) (fun h => { h with hv := false }) s1.homes }

/-- Change a folio's window line. -/
def setWin (s : State) (f wl : Nat) (g : WinLine → WinLine) : State :=
  s.setFolio f fun x => { x with win := updWhere (fun e => e.sl == wl) g x.win }

/-- A dirty window line is written to its backing address under the key it is held under (R23, R25, R32). -/
def winBack (s : State) (f wl : Nat) : State :=
  match winLine s f (wl * 128) with
  | some (x, e) =>
    if e.valid && e.dirty then
      setWin (physWriteAll s e.key (cellsAt (e.pl * 128) (memGetN x.scr (wl * 128) 128))) f wl fun e => { e with dirty := false }
    else s
  | none => s

/-- A byte of a registered window line written in its bank: performed at once (R23, R106). -/
def winWrite (s : State) (f off : Nat) (b : Byte) : State :=
  s.setFolio f fun x =>
    { x with
      scr := memSet x.scr off b
      win := updWhere (fun e => e.sl == off / 128) (fun e => { e with valid := true, dirty := true }) x.win }

/-- The first access to a window line fills it from its backing address, under its key (R23, R32); an access under another
key than the one it is held under writes it back and fills it afresh (R72). -/
def winFill (s : State) (f off : Nat) (k : Key) : State :=
  match winLine s f off with
  | some (_, e) =>
    if e.valid && e.key == k then s
    else
      let s1 := winBack s f e.sl
      let bytes := physReadN s1 k (e.pl * 128) 128
      setWin (s1.setFolio f fun y => { y with scr := memSetN y.scr (e.sl * 128) bytes }) f e.sl fun e => { e with valid := true, key := k }
  | none => s

/-- An access from the host bridge or the fabric bridge writes a dirty window line back first, then is served from it (R23). -/
def winOutside (s : State) (f off : Nat) (k : Key) : State := winFill (winBack s f (off / 128)) f off k

/-- The pending stores of a line are performed in entry order once the line is in M (R83). -/
def performLine (s : State) (g line : Nat) : State :=
  if hasPending s g line then
    let mine := s.pending.filter fun p => p.gath == g && lineOf p.loc == line
    let s1 := settleFor (awayStrikes (collectHeld (touchLine s g (false, line)) g line) g line) ((mine.map (·.key)).headD .opened) line (some g)
    let s2 := mine.foldl (fun s p => writeM s g p.key p.loc p.byte) s1
    { s2 with pending := s2.pending.filter fun p => !(p.gath == g && lineOf p.loc == line) }
  else s

/-- Pins of a set are released, the latest region's first, until a line of it may leave (R85). -/
def unpinSet (g : Nat) (crowd : List (Bool × Nat)) : Nat → State → State
  | 0, s => s
  | n + 1, s => if crowd.all fun x => !x.1 && pinned s g x.2 then unpinSet g crowd n (pinOverflow s (crowd.map (·.2)) g) else s

/-- One line leaves a full set (R56): the least recently used one that has nothing under way; else one whose request is still
outstanding; else one in PW, whose collection completes first, since its pending bytes never leave the gathering (R82; DEDUCED,
log 108). -/
def evictWay (s : State) (g : Nat) (crowd : List (Bool × Nat)) : State :=
  let clean (e : Bool × Nat) : Bool := e.1 || (!hasPending s g e.2 && !pinned s g e.2)
  match (lruVictim s g crowd).orElse fun _ => lruOf s g (crowd.filter clean) with
  | some v => evictLine s g v
  | none =>
    match lruOf s g (crowd.filter fun e => !pinned s g e.2) with
    | some v => evictLine (performLine s g v.2) g v
    | none => s

/-- A line is to be allocated in a gathering's cache, or is used there (R56): where its set has no invalid way, the least
recently used way is replaced; where every way is pinned, the latest region overflows first (R85). -/
def allocLine (s : State) (g : Nat) (e : Bool × Nat) : State :=
  if 48 ≤ g then s
  else
    let crowd := cacheCrowd s g e.2
    if crowd.contains e ∨ crowd.length < cacheWays s g then touchLine s g e
    else touchLine (evictWay (unpinSet g crowd (s.quires.length + 1) s) g crowd) g e

/-- One agent collects all 64 tokens of a line, which first gets its place in the cache (R56, R78). -/
def collect (s : State) (a line : Nat) : State :=
  if (heldOf s a line).tok = 64 ∧ (heldOf s a line).valid then s else collectHeld (allocLine s a (false, line)) a line

/-- Every pending store of a gathering is performed, line by line in entry order (R115 condition 3). -/
def drainGath (s : State) (g : Nat) : State :=
  let lines := ((s.pending.filter fun p => p.gath == g).map fun p => lineOf p.loc).dedup
  lines.foldl (fun s l => performLine s g l) s

/-- Bytes of one line written at its home at one moment (R14, R69, R106): copies under another key go (R72), all tokens come
home, the version moves on (R90), and a monitored graph-head line wakes its executor (R203). -/
def homeWriteLine (s : State) (k : Key) (line : Nat) (cells : List (Nat × Byte)) : State :=
  match winFind s (line * 128) with
  | some (f, off) =>
    cells.foldl (fun s c => winWrite s f (off / 128 * 128 + c.1 % 128) c.2) (winFill (lineStrikes s line none) f off k)
  | none =>
    let s1 := bumpVer (recallTokens (settleFor (lineStrikes s line none) k line none) line none) line
    let s2 := kickPersist (physWriteAll s1 k cells) line
    if isDev (line * 128) then
      s2.later ((s2.monitors.filter fun m => m.1 == line).map fun m => Move.event (.graphHeadMonitorWake m.2))
    else s2

/-- Bytes written at their homes, each line once. -/
def homeWriteCells (s : State) (k : Key) (cells : List (Nat × Byte)) : State :=
  ((cells.map fun c => lineOf c.1).dedup).foldl (fun s l => homeWriteLine s k l (cells.filter fun c => lineOf c.1 == l)) s

/-- Posted writes that satisfy p. -/
def postedOf (s : State) (p : Msg → Bool) : List Msg := s.msgs.filter fun m => (match m.kind with | .posted .. => true | _ => false) && p m

/-- A posted write is performed at its home (R106, R135); one that adds reads its element there at the same moment (R161). -/
def performPosted (s : State) (m : Msg) : State :=
  let s1 : State := { s with msgs := s.msgs.filter fun x => x.id != m.id }
  match m.kind with
  | .posted data key by_ =>
    match by_.add with
    | none => homeWriteCells s1 key data
    | some fmt =>
      let l := (data.head?.map (·.1)).getD 0
      let old := bytesVal (readBytes s1 none key l data.length)
      homeWriteCells s1 key (cellsAt l (bytesOf data.length (reduceAdd fmt old (bytesVal (data.map (·.2))))))
  | _ => s1

/-- Posted writes that satisfy p are performed in the order of acceptance. -/
def flushPosted (s : State) (p : Msg → Bool) : State := (postedOf s p).foldl performPosted s

/-- A write's cells touch a byte of another's. -/
def sameByte (m x : Msg) : Bool :=
  match m.kind, x.kind with
  | .posted a _ _, .posted b _ _ => a.any fun c => b.any fun d => c.1 == d.1
  | _, _ => false

/-- A posted write with the earlier ones of its bytes, in order of acceptance (R110). -/
def postedRun (s : State) (m : Msg) : List Msg :=
  ((postedOf s fun x => decide (x.id < m.id)).reverse).foldl (fun l x => if l.any (sameByte x) then x :: l else l) [m]

/-- Posted writes that satisfy p are performed, each with the earlier ones of its bytes. -/
def performRuns (s : State) (p : Msg → Bool) : State :=
  (postedOf s p).foldl (fun s m => if s.msgs.any fun x => x.id == m.id then (postedRun s m).foldl performPosted s else s) s

/-- Pending and posted stores of the line under another key are performed before an access under this key (R72). -/
def settleKey (s : State) (g : Nat) (k : Key) (line : Nat) : State :=
  let s1 := if s.pending.any fun p => p.gath == g && lineOf p.loc == line && p.key != k then performLine s g line else s
  if isDev (line * 128) then s1
  else performRuns s1 fun m => m.src == g && m.line == line && match m.kind with | .posted _ key _ => key != k | _ => false

/-- A store enters after the gathering's posted writes of the byte: they are performed, so that entry order stands (R109; DEDUCED,
log 109). -/
def settlePosted (s : State) (g : Nat) (l : Loc) : State :=
  if isDev l then s
  else performRuns s fun m => m.src == g && match m.kind with | .posted data _ _ => data.any fun c => c.1 == l | _ => false

/-- A route 0 store of a gathering enters (R82): a line in M is written, another goes to PW and asks for its
tokens. A window line's bank is written (R23). -/
def enterByte (s : State) (g : Nat) (q : Option Slot) (c : Nat) (k : Key) (l : Loc) (b : Byte) : State :=
  match winFind s l with
  | some (f, off) => winWrite (winFill (lineStrikes s (lineOf l) q) f off k) f off b
  | none =>
    let s1 := settlePosted (settleKey s g k (lineOf l)) g l
    let s2 := allocLine (storeStrikes s1 g (lineOf l) q) g (false, lineOf l)
    if (heldOf s2 g (lineOf l)).tok = 64 ∧ hasPending s2 g (lineOf l) = false then
      writeM (settleFor (awayStrikes s2 g (lineOf l)) k (lineOf l) (some g)) g k l b
    else
      sendRequest { s2 with pending := s2.pending ++ [{ gath := g, slot := q, ctx := c, key := k, loc := l, byte := b }] }
        g (lineOf l) .write

/-- A store of several bytes enters. -/
def enterBytes (s : State) (g : Nat) (q : Option Slot) (c : Nat) (k : Key) (l : Loc) : List Byte → State
  | [] => s
  | b :: bs => enterBytes (enterByte s g q c k l b) g q c k (l + 1) bs

/-- Consecutive bytes written at their home. -/
def homeWrite (s : State) (k : Key) (l : Loc) (bs : List Byte) : State := homeWriteCells s k (cellsAt l bs)

/-- A write of an open device location by a device-level agent, as of fault, trap and error records. -/
def devWrite (s : State) (pa : Nat) (bs : List Byte) : State := homeWrite s .opened pa bs

/-- The agent that holds the owner token of a line gives the home one token (R78, R89): a non-owner one if it has two. The bridge
has the host give the line up, and returns what it keeps for it (R101). -/
def ownerGives (s : State) (line : Nat) : State :=
  match s.held.find? fun h => h.line == line && h.own with
  | some h =>
    let s1 := tokensLeave (wakeGath s h.agent) h.agent line
    if h.tok ≥ 2 ∧ h.agent ≠ 48 then
      peerSync (setHome (setHeld s1 h.agent line fun x => { x with tok := x.tok - 1 }) line fun x => { x with ht := 1, hv := true }) line
    else
      let s2 : State := { s1 with hostLines := if h.agent = 48 then s1.hostLines.filter fun e => e.1 != line else s1.hostLines }
      peerSync (cleanLine (setHome (setHeld s2 h.agent line Held.emptied) line fun x =>
        { x with ht := x.ht + h.tok, ho := true, hv := true, hold := x.hold.filter (· != h.agent) }) line) line
  | none => s

/-- The message that carries the owner token of a line, if one does. -/
def ownerMsg (s : State) (line : Nat) : Option Msg :=
  s.msgs.find? fun m => m.line == line && match m.kind with | .tokens _ own _ _ _ => own | _ => false

/-- A message with the owner token meets a recall: a fill's tokens go to the home (R94), other tokens reach their agent. -/
def landOwner (s : State) (m : Msg) : State :=
  match m.kind with
  | .tokens tok _ _ dirty fill =>
    let s0 : State := { s with msgs := s.msgs.filter fun x => x.id != m.id }
    match m.dst, fill with
    | some a, false =>
      setHeld s0 a m.line fun x => { x with tok := x.tok + tok, own := true, valid := true, dirty := x.dirty || dirty }
    | d, _ =>
      let gone (x : Home) : List Nat := match d with
        | some a => if (heldOf s0 a m.line).tok = 0 then x.hold.filter (· != a) else x.hold
        | none => x.hold
      cleanLine (setHome (recallFill s0 m) m.line fun x => { x with ht := x.ht + tok, ho := true, hv := true, hold := gone x }) m.line
  | _ => s

/-- The owner token's tokens in flight meet a READ-kind recall (R89): an agent that they reach answers it. -/
def recallOwner (s : State) (m : Msg) : State :=
  let s1 := landOwner s m
  if (homeOf s1 m.line).ht = 0 then ownerGives s1 m.line else s1

/-- The home obtains a token if it holds none, by a READ-kind recall of the owner token's holder (R89). -/
def homeObtain (s : State) (line : Nat) : State :=
  if (homeOf s line).ht = 0 then
    kickPersist (match ownerMsg s line with
      | some m => recallOwner s m
      | none => ownerGives s line) line
  else s

/-- The home gives an agent one token with data (R78). -/
def homeGrants (s : State) (a line : Nat) : State :=
  let h := homeOf s line
  let s1 := if h.ht = 1 then lastToken s line else s
  let own := h.ho && h.ht == 1
  setHeld (setHome s1 line fun x => { x with ht := h.ht - 1, ho := h.ho && !own, hold := (a :: x.hold).dedup }) a line fun x =>
    { x with tok := x.tok + 1, own := x.own || own, valid := true }

/-- The host answers RdShared for the halves it has not given (R98). -/
def bridgeShared (s : State) (line : Nat) : State :=
  if isHost (line * 128) then
    let b := (s.bridges.find? fun b => b.line == line).getD { line := line, h0 := .i, h1 := .i }
    let up (x : Mesi) : Mesi := if x = .i then .s else x
    { s with bridges := { line := line, h0 := up b.h0, h1 := up b.h1 } :: s.bridges.filter fun b => b.line != line }
  else s

/-- A READ of a gathering carried through at one moment (R76, R78): it holds a token and valid data. -/
def obtainRead (s : State) (g line : Nat) : State :=
  if (heldOf s g line).tok ≠ 0 ∧ (heldOf s g line).valid then touchLine s g (false, line)
  else homeGrants (homeObtain (bridgeShared (allocLine s g (false, line)) line) line) g line

/-- A route 0 read by an engine of a gathering, by a quire for itself, or at the home by a device-level agent, prepares its
line: tokens, keys (R72) and the window (R23). -/
def prepareRead (s : State) (g : Option Nat) (k : Key) (l : Loc) : State :=
  match winFind s l with
  | some (f, off) => winFill s f off k
  | none =>
    match g with
    | some g => obtainRead (settleFor (settleKey s g k (lineOf l)) k (lineOf l) (some g)) g (lineOf l)
    | none => touchHome (homeObtain (bridgeShared (settleFor s k (lineOf l) none) (lineOf l)) (lineOf l)) (lineOf l)

/-- The lease copy of a line at a place under a key (R67, R68). -/
def leaseOf (s : State) (w : LeaseAt) (line : Nat) (k : Key) : Option Lease :=
  s.leases.find? fun l => l.at_ == w && l.line == line && l.key == k

/-- Lines of a set of a path cache: 8 ways in a constant cache, 16 in a sampler cache (R67). -/
def leaseWays : LeaseAt → Option Nat
  | .constant _ => some 8
  | .sampler _ => some 16
  | .tile _ => none

/-- Keep the first `n` copies of one set of a path cache, the most recently used first (R67). -/
def capSet (w : LeaseAt) (set : Nat) : Nat → List Lease → List Lease
  | _, [] => []
  | n, l :: ls =>
    if l.at_ == w && l.line % 64 == set then
      match n with
      | 0 => capSet w set 0 ls
      | k + 1 => l :: capSet w set k ls
    else l :: capSet w set n ls

/-- A copy becomes the most recently used one of its place; the least recently used one of a full set goes (R67). -/
def leaseTouch (ls : List Lease) (le : Lease) : List Lease :=
  let l := le :: ls.filter fun l => !(l.at_ == le.at_ && l.line == le.line && l.key == le.key)
  match leaseWays le.at_ with
  | some n => capSet le.at_ (le.line % 64) n l
  | none => l

/-- A lease-held line of a gathering's CACHE banks is allocated or used there (R56, R67). -/
def leaseRoom (s : State) (w : LeaseAt) (line : Nat) : State :=
  match w with
  | .tile g => allocLine s g (true, line)
  | _ => s

/-- The home grants a lease (R89): data, version and end. -/
def leaseGrant (s : State) (w : LeaseAt) (line : Nat) (k : Key) : State :=
  let s1 := homeObtain (bridgeShared (leaseRoom s w line) line) line
  let le : Lease :=
    { at_ := w, line := line, key := k, kfield := keyField k, ver := (homeOf s1 line).ver, exp := s1.cycle + 65536
      expired := false, data := physReadN s1 k (line * 128) 128 }
  setHome { s1 with leases := leaseTouch s1.leases le } line fun h => { h with lexp := max h.lexp (s1.cycle + 65536) }

/-- The home answers a renewal: unchanged, or with new data (R91, R92). -/
def leaseRenew (s : State) (w : LeaseAt) (line : Nat) (k : Key) : State :=
  match leaseOf s w line k with
  | none => leaseGrant s w line k
  | some l =>
    if l.exp + 16711680 ≤ s.cycle then leaseGrant s w line k
    else if l.ver = (homeOf s line).ver then
      let le := { l with exp := s.cycle + 65536, expired := false }
      setHome (leaseRoom { s with leases := leaseTouch s.leases le } w line) line fun h =>
        { h with lexp := max h.lexp (s.cycle + 65536) }
    else leaseGrant s w line k

/-- A lease-route read prepares its line: served from a live lease, renewed or granted (R68). Window lines take no
lease (R23). -/
def leasePrepare (s : State) (w : LeaseAt) (l : Loc) (k : Key) : State :=
  match winFind s l with
  | some (f, off) => winFill s f off k
  | none =>
    match leaseOf s w (lineOf l) k with
    | none => leaseGrant (settleCopies s k l) w (lineOf l) k
    | some le =>
      if le.expired ∨ le.exp ≤ s.cycle then leaseRenew s w (lineOf l) k
      else leaseRoom { s with leases := leaseTouch s.leases le } w (lineOf l)

/-- The byte a prepared lease-route read returns (R118). -/
def leaseByte (s : State) (w : LeaseAt) (k : Key) (l : Loc) : Byte :=
  match winFind s l with
  | some _ => readByte s none k l
  | none =>
    match leaseOf s w (lineOf l) k with
    | some le => le.data.getD (l % 128) 0
    | none => physRead s k l

/-- A lease-route read of `n` bytes within one line. -/
def leaseRead (s : State) (w : LeaseAt) (k : Key) (l : Loc) (n : Nat) : State × List Byte :=
  let s1 := leasePrepare s w l k
  (s1, (List.range n).map fun i => leaseByte s1 w k (l + i))

/-- Mark EXPIRED the lease lines that hold data of a context (R68), at the places that satisfy p. -/
def expireLeases (s : State) (p : LeaseAt → Bool) (c : Nat) : State :=
  { s with
    leases := updWhere (fun l => p l.at_ && (l.kfield == c || l.kfield == 64))
      (fun l => { l with expired := true }) s.leases }

end Sys2Proof.Machine
end

