-- ==== Sys2Proof/Machine/Xlate.lean ====
section
/-! DEFINITION. Translation (R28 to R36), the fault area and its records (R37, R39, R40), and error records
(R412, R413). -/

namespace Sys2Proof.Machine

/-- Access kinds by the permission they need (R32). -/
inductive XKind where
  | read
  | write
  | atomic
  | fetch
  deriving DecidableEq, Repr

/-- A translated address: physical location, key and NC. -/
structure Page where
  loc : Loc
  key : Key
  nc : Bool
  deriving DecidableEq, Repr

/-- The index of an address at a level of the tables (R28). -/
def levelIndex (lv va : Nat) : Nat :=
  match lv with
  | 4 => bitsOf va 56 52
  | 3 => bitsOf va 51 43
  | 2 => bitsOf va 42 34
  | 1 => bitsOf va 33 25
  | _ => bitsOf va 24 16

/-- Page offset bits of a leaf at a level (R28). -/
def pageShift (lv : Nat) : Nat :=
  match lv with
  | 2 => 34
  | 1 => 25
  | _ => 16

/-- Whether a valid leaf entry is well formed at its level (R30, R31). -/
def leafOk (lv e : Nat) : Bool :=
  lv ≤ 2 && bitsOf e 63 62 == 0 && bitsOf e 15 12 == 0 && bitsOf e 4 2 == 0 && bitsOf e 11 10 != 3
    && (lv != 2 || bitsOf e 33 16 == 0) && (lv != 1 || bitsOf e 24 16 == 0)
    && (bitsOf e 61 52 == 0 || bitsOf e 11 10 == 2)

/-- A table entry as the walker reads it at its home, or in the window that holds its line (R23, R31). -/
def tableEntry (s : State) (a : Loc) : Nat := bytesVal (readBytes s none .opened a 8)

/-- The window lines that a walk reads are written back where they are dirty, and filled (R23). -/
def walkSettle (s : State) (va : Nat) : List Nat → Nat → State
  | [], _ => s
  | lv :: rest, base =>
    let a := base + 8 * levelIndex lv va
    let s1 := match winFind s a with
      | some (f, off) => winOutside s f off .opened
      | none => s
    let e := tableEntry s1 a
    if bitsOf e 0 0 = 1 ∧ bitsOf e 1 1 = 1 ∧ lv ≠ 0 then walkSettle s1 va rest (bitsOf e 51 12 * 4096) else s1

/-- Walk the tables from a level's table page (R28 to R31): the leaf and its level, or the reason. -/
def walkFrom (s : State) (va : Nat) : List Nat → Nat → Except Nat (Nat × Nat)
  | [], _ => .error 0x02
  | lv :: rest, base =>
    let e := tableEntry s (base + 8 * levelIndex lv va)
    if bitsOf e 0 0 = 0 then .error 0x00
    else if bitsOf e 1 1 = 1 then
      if lv = 0 ∨ bitsOf e 63 52 ≠ 0 ∨ bitsOf e 11 2 ≠ 0 ∨ s.installed < bitsOf e 51 12 * 4096 + 4096 then .error 0x02
      else walkFrom s va rest (bitsOf e 51 12 * 4096)
    else if leafOk lv e then .ok (e, lv)
    else .error 0x02

/-- A walk that starts from a CTX_PTBASE (R31, R37): NO_TABLES when disabled or when the root lies outside device memory. -/
def walkTables (s : State) (ptbase : DWord) (va : Nat) : Except Nat (Nat × Nat) :=
  let root := bitsOf ptbase.toNat 51 12 * 4096
  if ptbase.toNat % 2 = 0 ∨ s.installed < root + 4096 then .error 0x0C
  else walkFrom s va [4, 3, 2, 1, 0] root

/-- A TLB entry for an address (R33). -/
def tlbHit (l : List Tlb) (c va : Nat) : Option Tlb := l.find? fun e => e.ctx == c && e.page == va / 2 ^ pageShift e.level

/-- Install a translation, dropping the oldest of a full TLB (DESIGN CHOICE, log 9). -/
def tlbPut (l : List Tlb) (cap : Nat) (e : Tlb) : List Tlb := (e :: l.filter (· != e)).take cap

/-- Every link to a peer is down, or no route leads to it (R104, R483). -/
def peerReachable (s : State) (n : Nat) : Bool :=
  match s.routeTab.find? fun e => e.1 == n with
  | some (_, mask) =>
    !s.peersDown.contains n &&
      (List.range 96).any fun p => mask.getLsbD p && (s.ports[p]?.map (·.trained)).getD false
  | none => false

/-- The location, key and NC of a leaf's page (R14, R15, R32). -/
def leafPage (s : State) (c lv e va : Nat) : Page :=
  let pa := bitsOf e 51 16 * 65536 + va % 2 ^ pageShift lv
  let tgt := bitsOf e 11 10
  { loc := if tgt = 1 then hostBase + pa else if tgt = 2 then peerBase (bitsOf e 61 52) + pa else pa
    key := if tgt = 2 ∨ bitsOf e 9 9 = 1 then .opened else ctxKey s c
    nc := bitsOf e 8 8 == 1 || (tgt == 1 && !s.hostCache) }

/-- The checks of an access on its leaf, permission first and then the target (R14, R15, R32). -/
def leafCheck (s : State) (k : XKind) (lv e va : Nat) : Option Nat :=
  let pa := bitsOf e 51 16 * 65536 + va % 2 ^ pageShift lv
  let tgt := bitsOf e 11 10
  let perm : Option Nat :=
    match k with
    | .read => if bitsOf e 5 5 = 0 then some 0x03 else none
    | .write => if bitsOf e 6 6 = 0 then some 0x04 else none
    | .atomic => if bitsOf e 6 6 = 0 then some 0x04 else if bitsOf e 5 5 = 0 then some 0x03 else none
    | .fetch => if bitsOf e 7 7 = 0 then some 0x05 else none
  match perm with
  | some r => some r
  | none =>
    if tgt = 0 ∧ s.installed ≤ pa then some 0x06
    else if tgt = 2 ∧ peerReachable s (bitsOf e 61 52) = false then some 0x0B
    else if tgt = 1 ∧ k = .atomic ∧ s.hostCache = false then some 0x09
    else none

/-- Where an access is translated: the requesting core's L0 TLB if it has one, the gathering TLB, the walker
(R33). A device-level agent walks without a TLB. -/
structure Via where
  core : Option Nat
  gath : Option Nat
  deriving DecidableEq, Repr

/-- The translation in the TLBs, if any (R33). -/
def tlbLookup (s : State) (v : Via) (c va : Nat) : Option Tlb :=
  match v.core.bind fun k => tlbHit (s.core k).tlb c va with
  | some e => some e
  | none => v.gath.bind fun g => tlbHit (s.gath g).tlb c va

/-- A walk's result is installed (R33). -/
def tlbInstall (s : State) (v : Via) (e : Tlb) : State :=
  let s1 := match v.gath with
            | some g => s.setGath g fun x => { x with tlb := tlbPut x.tlb 2048 e }
            | none => s
  match v.core with
  | some k => s1.setCore k fun x => { x with tlb := tlbPut x.tlb 64 e }
  | none => s1

/-- An error record of a master (R412, R413): dropped and counted when the ring is full or out of range. -/
def errorRecord (s : State) (m cls unit agent : Nat) (c : Option Nat) (addr : Nat) : State :=
  let x := s.master m
  if 6 ≤ x.errSize ∧ x.errSize ≤ 12 ∧ (x.errPut - x.errGet).toNat % 65536 ≠ 2 ^ x.errSize
      ∧ bitsOf x.errBase.toNat 51 12 * 4096 + 32 * 2 ^ x.errSize ≤ s.installed then
    let r := s.cycle % 2 ^ 64 * 2 ^ 192 + addr % 2 ^ 64 * 2 ^ 128 + unit * 2 ^ 96 + agent * 2 ^ 88
      + c.getD 0 * 2 ^ 82 + bit c.isSome * 2 ^ 81 + cls * 2 ^ 72
    let s1 := devWrite s (bitsOf x.errBase.toNat 51 12 * 4096 + 32 * (x.errPut.toNat % 2 ^ x.errSize)) (bytesOf 32 r)
    s1.setMaster m fun y => { y with errPut := y.errPut + 1, msix := 64 :: y.msix.filter (· != 64) }
  else s.setMaster m fun y => { y with errFull := true, errLost := min (y.errLost + 1) 65535 }

/-- The master an error record goes to: the owner of the context it names, else the management master (R412). -/
def errorMaster (s : State) (c : Option Nat) : Nat :=
  match c with
  | some k => if (s.ctx k).v then (s.ctx k).master else 0
  | none => 0

/-- A walk ends: in the leaf and its level, or in a reason; an uncorrectable error of a table read files its error record
(R31, R411). -/
def endWalk (s : State) (ptbase : DWord) (c va : Nat) : State × Except Nat (Nat × Nat) :=
  match s.badWalks.find? fun b => b.1 == c && b.2.1 == va / 65536 with
  | some b =>
    (errorRecord { s with badWalks := s.badWalks.filter (· != b) } (errorMaster s (some c)) 3 8 0xFF (some c) b.2.2, .error 0x0A)
  | none =>
    let s1 := if ptbase.toNat % 2 = 0 then s else walkSettle s va [4, 3, 2, 1, 0] (bitsOf ptbase.toNat 51 12 * 4096)
    (s1, walkTables s1 ptbase va)

/-- The pages of the walks in flight and of those that wait, in order of arrival (R34). -/
def walkPages (s : State) : List (Nat × Nat) := (s.walks.map fun w => (w.ctx, w.page)).reverse.dedup.reverse

/-- The walk in flight for a page, if there is one whose result stands (R34, R38). -/
def walkOf (s : State) (c page : Nat) : Option Walk :=
  s.walks.find? fun w => w.ctx == c && w.page == page && !w.discard && w.root.isSome

/-- Waiting misses take free walkers in order of arrival: at most 128 pages are walked at once (R34). A miss that joins a walk in
flight has its root; a walk that starts has CTX_PTBASE as it stands then (R37). -/
def fillWalkers (s : State) : State :=
  { s with
    walks := updWhere (fun w => w.root.isNone && ((walkPages s).take 128).contains (w.ctx, w.page))
      (fun w => { w with root := ((walkOf s w.ctx w.page).bind (·.root)).or (some (s.ctx w.ctx).ptbase) }) s.walks }

/-- A walk in flight ends: the misses that joined it complete with it, and a fault installs nothing (R34, R35). The words that
waited for a page that faults go on with the walk's fault. -/
def walkEnds (s : State) (w : Walk) : State × Except Nat (Nat × Nat) :=
  match w.root with
  | none => (s, .error 0x0C)
  | some b =>
    let joined := s.walks.filter fun x => x.ctx == w.ctx && x.page == w.page && !x.discard
    let s1 : State := { s with walks := s.walks.filter fun x => !(x.ctx == w.ctx && x.page == w.page && !x.discard) }
    let r := endWalk s1 b w.ctx (w.page * 65536)
    (fillWalkers (match r.2 with
      | .error k => r.1.push (joined.filterMap fun x => x.slot.map fun q => Move.walked q w.ctx w.page k)
      | .ok (e, lv) =>
        joined.foldl (fun s x => tlbInstall s { core := x.core, gath := some x.gath }
          { ctx := w.ctx, level := lv, page := w.page * 65536 / 2 ^ pageShift lv, leaf := BitVec.ofNat 64 e }) r.1), r.2)

/-- A walk in flight has ended. -/
def walkDone (s : State) (w : Walk) : State := if w.root.isNone then s else (walkEnds s w).1

/-- An access made at one moment that finds 128 walks in flight waits for its walker: those before it end first (R34). -/
def walkRoom (s : State) : State :=
  let n := (walkPages s).length
  if n < 128 then s
  else ((walkPages s).take (n - 127)).foldl (fun s p =>
    match s.walks.find? fun w => (w.ctx, w.page) == p with
    | some w => walkDone s w
    | none => s) s

/-- The page of an access by a leaf, after the checks on the leaf. -/
def leafResult (s : State) (c lv e va : Nat) (k : XKind) : Except Nat Page :=
  match leafCheck s k lv e va with
  | some r => .error r
  | none => .ok (leafPage s c lv e va)

/-- A walk made for one access, all at one moment (R33, R34). -/
def walkNow (s : State) (v : Via) (c va : Nat) (k : XKind) : State × Except Nat Page :=
  let r := endWalk s (s.ctx c).ptbase c va
  match r.2 with
  | .error x => (r.1, .error x)
  | .ok (e, lv) =>
    (tlbInstall r.1 v { ctx := c, level := lv, page := va / 2 ^ pageShift lv, leaf := BitVec.ofNat 64 e }, leafResult s c lv e va k)

/-- The fault that a word which waited for a walk meets at its issue (R34). -/
def walkedFault (s : State) (v : Via) (c va : Nat) : Option Nat :=
  (s.walked.filter fun x => v.core == some x.1 && x.2.1 == c && x.2.2.1 == va / 65536).map (·.2.2.2)

/-- Translate an address for an access (R13, R31 to R33): the page, or the reason of the fault. A miss joins a walk in flight
for its page and completes with it (R34). -/
def xlate (s : State) (v : Via) (c va : Nat) (k : XKind) : State × Except Nat Page :=
  if va ≥ 2 ^ 57 then (s, .error 0x01)
  else if (s.ctx c).ptbase.toNat % 2 = 0 then (s, .error 0x0C)
  else
    match tlbLookup s v c va with
    | some e => (s, leafResult s c e.level e.leaf.toNat va k)
    | none =>
      match walkedFault s v c va with
      | some r => (s, .error r)
      | none =>
        match walkOf s c (va / 65536) with
        | some w =>
          match walkEnds s w with
          | (s1, .error r) => (s1, .error r)
          | (s1, .ok (e, lv)) =>
            (tlbInstall s1 v { ctx := c, level := lv, page := va / 2 ^ pageShift lv, leaf := BitVec.ofNat 64 e }, leafResult s1 c lv e va k)
        | none => walkNow (walkRoom s) v c va k

/-- MODEL: the reason that stands for an uncorrectable error of the data read: no reason of R39, and 0 in every record. -/
def badData : Nat := 0x80

/-- Trap code of a fault reason (R39), or of an uncorrectable error of data (R73). -/
def reasonTrap (r : Nat) : Nat := if r = 0 then 0x10 else if r = 0x0A ∨ r = badData then 0x12 else if r = 0x0B then 0x13 else 0x11

/-- The fault area takes a record now: SIZE in range, area within memory, not full (R37, R40). -/
def fqRoom (s : State) (c : Nat) : Bool :=
  let x := s.ctx c
  6 ≤ x.fqSize && x.fqSize ≤ 15 && bitsOf x.fqBase.toNat 51 12 * 4096 + 32 * 2 ^ x.fqSize ≤ s.installed
    && (x.fqPut - x.fqGet).toNat % 65536 != 2 ^ x.fqSize

/-- Write one record at PUT and send the context's interrupt (R37, R40, R402). -/
def fqWrite (s : State) (c : Nat) (r : Record) : State :=
  let x := s.ctx c
  let s1 := devWrite s (bitsOf x.fqBase.toNat 51 12 * 4096 + 32 * (x.fqPut.toNat % 2 ^ x.fqSize)) (bytesOf 32 r)
  interrupt (s1.setCtx c fun y => { y with fqPut := y.fqPut + 1 }) c

/-- Release held records in the order in which they were raised, while there is room (R37). -/
def fqRelease (s : State) (c : Nat) : List Record → State
  | [] => s.setCtx c fun x => { x with heldRecs := [] }
  | r :: rs =>
    if fqRoom s c then fqRelease (fqWrite s c r) c rs else s.setCtx c fun x => { x with heldRecs := r :: rs }

/-- A fault or trap record is written, or waits for space and sets FULL (R40). -/
def putRecord (s : State) (c : Nat) (r : Record) : State :=
  if (s.ctx c).heldRecs = [] ∧ fqRoom s c then fqWrite s c r
  else s.setCtx c fun x => { x with heldRecs := x.heldRecs ++ [r], fqFull := true }

/-- Who made an access, for records: SLOT, CORE and GATH of R40. -/
structure Who where
  slot : Nat
  core : Nat
  gath : Nat
  deriving DecidableEq, Repr

/-- A lane's SLOT, CORE and GATH. -/
def whoSlot (q : Slot) : Who := { slot := q.lane * 4 + q.q, core := q.core % 4, gath := gathOf q.core }
/-- An engine of a gathering. -/
def whoEngine (g : Nat) : Who := { slot := 0xFF, core := 0xFF, gath := g }
/-- A device-level agent. -/
def whoDevice : Who := { slot := 0xFF, core := 0xFF, gath := 0xFF }

/-- A fault record (R40). -/
def faultBits (s : State) (w : Who) (va reason akind route : Nat) (rpl : Bool) : Record :=
  s.cycle % 2 ^ 64 * 2 ^ 128 + w.slot * 2 ^ 104 + w.core * 2 ^ 96 + w.gath * 2 ^ 88 + bit rpl * 2 ^ 86
    + route * 2 ^ 84 + akind * 2 ^ 80 + reason * 2 ^ 72 + reasonTrap reason * 2 ^ 64 + va % 2 ^ 57

/-- A fault writes its record; a NOT_VALID fault on a page with an outstanding record joins it (R40). An error of data has its error
record alone (R411). -/
def faultRecord (s : State) (c : Nat) (w : Who) (va reason akind route : Nat) (rpl : Bool) : State :=
  if reason = badData then s
  else if reason = 0 then
    if (s.ctx c).outPages.contains (va / 65536) then s
    else
      putRecord (s.setCtx c fun x => { x with outPages := va / 65536 :: x.outPages }) c
        (faultBits s w va reason akind route rpl)
  else putRecord s c (faultBits s w va reason akind route rpl)

/-- Lines that a span touches. -/
def spanLines (a n : Nat) : List Nat := (List.range (lineOf (a + n - 1) + 1 - lineOf a)).map (lineOf a + ·)

/-- The lines of a read at one moment are prepared: for a gathering on route 0, or at the home, the host or the peer. -/
def prepareSpan (s : State) (g : Option Nat) (k : Key) (l n : Nat) : State :=
  (spanLines l n).foldl (fun s x => prepareRead s g k (max l (x * 128))) s

/-- A read of an NC page at its home, the host or the peer at one moment (R14, R135): its lines are prepared there, and what the
reading gathering has pending or posted under another key is performed first (R72). -/
def prepareNc (s : State) (g : Option Nat) (k : Key) (l n : Nat) : State :=
  let s1 := match g with
            | some g => (spanLines l n).foldl (fun s x => settleKey s g k x) s
            | none => s
  prepareSpan s1 none k l n

/-- An uncorrectable error that a read of some bytes meets: the word and the unit. -/
def readError (s : State) (l n : Nat) : Option (Nat × Nat) := s.badReads.find? fun e => decide (e.1 * 8 < l + n) && decide (l < e.1 * 8 + 8)

/-- The error files its record, with the context that reads (R73, R411, R413). -/
def badRead (s : State) (v : Via) (c : Nat) (e : Nat × Nat) : State :=
  errorRecord { s with badReads := s.badReads.filter (· != e) } (errorMaster s (some c)) 1 e.2
    (if e.2 ≤ 5 then v.gath.getD 0xFF else 0xFF) (some c) (e.1 * 8)

/-- A read at one moment of the bytes at an address, translated by way of `v` (R33): on route 0 of a gathering, or at the home for
an agent that keeps no copy; an NC page is read at the home, the host or the peer (R14), where what the gathering itself has
entered and not performed stands over it (R109 case 1). The bytes, or the reason of the fault; a line that holds an uncorrectable
error is not installed (R411). -/
def readVia (s : State) (v : Via) (gath : Option Nat) (c va n : Nat) : State × Except Nat (List Byte) :=
  match xlate s v c va .read with
  | (s1, .error r) => (s1, .error r)
  | (s1, .ok p) =>
    match readError s1 p.loc n with
    | some e => (badRead s1 v c e, .error badData)
    | none =>
      let s2 := if p.nc then prepareNc s1 gath p.key p.loc n else prepareSpan s1 gath p.key p.loc n
      (s2, .ok (readBytes s2 gath p.key p.loc n))

/-- A route 0 read by an engine, by a quire for itself or by the executor (R109). -/
def agentRead (s : State) (v : Via) (c va n : Nat) : State × Except Nat (List Byte) := readVia s v v.gath c va n

/-- An engine's or the executor's plain write for a context on route 0. -/
def Poster.plain (c : Nat) : Poster := { ctx := c, route := 0, who := none, add := none }

/-- A write is posted by a gathering, after its pending stores of the bytes (R106, R109; DEDUCED, log 109). -/
def postWrite (s : State) (src : Nat) (k : Key) (l : Loc) (bs : List Byte) (p : Poster) : State :=
  let mine : Bool := s.pending.any fun e => e.gath == src && decide (l ≤ e.loc) && decide (e.loc < l + bs.length)
  sendMsg (if mine then (spanLines l bs.length).foldl (fun s x => performLine s src x) s else s) (lineOf l) src none (.posted (cellsAt l bs) k p)

/-- A write to an NC page (R14, R106): device memory is written at the L2 home; a write to host memory or to a peer window is
posted. `src` is the gathering, 50 for a device-level agent. -/
def ncWrite (s : State) (src : Nat) (k : Key) (l : Loc) (bs : List Byte) (p : Poster) : State :=
  if isDev l then homeWrite s k l bs else postWrite s src k l bs p

/-- A write translated by way of `v`: a route 0 store of a gathering, or made at the home; an NC page is written as R106 says. -/
def writeVia (s : State) (v : Via) (gath : Option Nat) (c va : Nat) (bs : List Byte) : State × Option Nat :=
  match xlate s v c va .write with
  | (s1, .error r) => (s1, some r)
  | (s1, .ok p) =>
    (if p.nc then ncWrite s1 (v.gath.getD 50) p.key p.loc bs (.plain c)
     else
       match gath with
       | some g => enterBytes s1 g none c p.key p.loc bs
       | none => homeWrite s1 p.key p.loc bs, none)

/-- A route 0 store that a core makes for itself, performed at once (R403). -/
def storeNow (s : State) (core c va : Nat) (bs : List Byte) : State × Option Nat :=
  let g := gathOf core
  match xlate s { core := some core, gath := some g } c va .write with
  | (s1, .error r) => (s1, some r)
  | (s1, .ok p) =>
    let ls := spanLines p.loc bs.length
    (if p.nc then performRuns (ncWrite s1 g p.key p.loc bs (.plain c)) fun m => m.src == g && ls.contains m.line
     else ls.foldl (fun s l => performLine s g l) (enterBytes s1 g none c p.key p.loc bs), none)

/-- A route 0 write by an engine of a gathering, or by the executor at the home. -/
def agentWrite (s : State) (v : Via) (c va : Nat) (bs : List Byte) : State × Option Nat := writeVia s v v.gath c va bs

end Sys2Proof.Machine
end

