-- ==== Sys2Proof/Machine/Ops.lean ====
section
/-! DEFINITION. The shared operations over registers, quires and threads; the section header of code (R270 to
R272); taking a trap (R398 to R404) and resuming from one (R401). -/

namespace Sys2Proof.Machine

/-- A vector register, or the value that stands in for it (R254). -/
def vReg (q : Quire) (cur : Cur) (t r : Nat) : Word :=
  match cur.view.find? fun e => e.1 == t && e.2.1 && e.2.2.1 == r with
  | some e => e.2.2.2
  | none => (q.th[t]?.bind fun th => th.v[r]?).getD 0

/-- A scalar register as thread t reads it, or the value that stands in for it. -/
def sReg (q : Quire) (cur : Cur) (t r : Nat) : Word :=
  match cur.view.find? fun e => e.1 == t && !e.2.1 && e.2.2.1 == r with
  | some e => e.2.2.2
  | none => q.s.getD r 0

/-- A block of `n` registers of thread t from r, vector or scalar, as one number (R274, R275). -/
def block (q : Quire) (cur : Cur) (scalar : Bool) (t r n : Nat) : Nat :=
  wordsVal ((List.range n).map fun i => if scalar then sReg q cur t (r + i) else vReg q cur t (r + i))

/-- A block that every thread of a word reads alike where it is scalar: its one value, as the lowest active thread reads it (R306,
R317, R318). -/
def sharedBlock (q : Quire) (cur : Cur) (scalar : Bool) (t r n : Nat) : Nat :=
  block q cur scalar (if scalar then cur.act.headD t else t) r n

/-- Predicate k of thread t; p0 is true (R48). -/
def pReg (q : Quire) (cur : Cur) (t k : Nat) : Bool :=
  if k = 0 then true
  else
    match cur.view.find? fun e => e.1 == t && e.2.1 && e.2.2.1 == 256 + k with
    | some e => e.2.2.2 != 0
    | none => ((q.th[t]?).map fun th => th.pr.getLsbD k).getD false

/-- Uniform predicate k as thread t reads it; q0 is true. -/
def qReg (q : Quire) (cur : Cur) (t k : Nat) : Bool :=
  if k = 0 then true
  else
    match cur.view.find? fun e => e.1 == t && !e.2.1 && e.2.2.1 == 256 + k with
    | some e => e.2.2.2 != 0
    | none => q.q.getLsbD k

/-- A predicate by U (R276). -/
def predOf (q : Quire) (cur : Cur) (u : Bool) (t k : Nat) : Bool := if u then qReg q cur t k else pReg q cur t k

/-- Write words into a register list from r upward. -/
def putWords (l : List Word) (r : Nat) : List Word → List Word
  | [] => l
  | w :: ws => putWords (l.set r w) (r + 1) ws

/-- Set one predicate bit; bit 0 stays (R276). -/
def setPredBit {n : Nat} (b : BitVec n) (k : Nat) (v : Bool) : BitVec n :=
  if k = 0 then b
  else if v then b ||| BitVec.ofNat n (2 ^ k) else b &&& ~~~ (BitVec.ofNat n (2 ^ k))

/-- Write a block of `n` vector registers of thread t. -/
def Quire.putV (q : Quire) (t r n x : Nat) : Quire := q.setTh t fun th => { th with v := putWords th.v r (wordsOf n x) }
/-- Write a block of `n` scalar registers. -/
def Quire.putS (q : Quire) (r n x : Nat) : Quire := { q with s := putWords q.s r (wordsOf n x) }
/-- Write a predicate of thread t. -/
def Quire.putP (q : Quire) (t k : Nat) (b : Bool) : Quire := q.setTh t fun th => { th with pr := setPredBit th.pr k b }
/-- Write a uniform predicate. -/
def Quire.putQ (q : Quire) (k : Nat) (b : Bool) : Quire := { q with q := setPredBit q.q k b }

/-- A destination block by U: thread t's vector registers or the quire's scalars (R274). -/
def Quire.putD (q : Quire) (u : Bool) (t r n x : Nat) : Quire := if u then q.putS r n x else q.putV t r n x
/-- A destination predicate by U (R276). -/
def Quire.putPred (q : Quire) (u : Bool) (t k : Nat) (b : Bool) : Quire := if u then q.putQ k b else q.putP t k b

/-- The threads a word acts for: its active ones, or, under U, one stand-in for the quire (R172, R274). -/
def actors (cur : Cur) (u : Bool) : List Nat := if u then cur.act.take 1 else cur.act

/-- Run a change of the current quire for each thread of a list, every source read from the state before. -/
def forThreads (s : State) (cur : Cur) (ts : List Nat) (f : Quire → Nat → Quire → Quire) : State :=
  s.setQuire cur.slot fun q0 => ts.foldl (fun q t => f q0 t q) q0

/-- Whether a thread may be in a leading set: not exited, not halted (R176, R400). -/
def Thread.alive (t : Thread) : Bool := !t.x && t.halt.isNone

/-- The threads of a quire that have not exited, halted ones among them. -/
def Quire.notExited (q : Quire) : List Nat := (List.range q.th.length).filter fun t => ((q.th[t]?).map fun x => !x.x).getD false

/-- A section header and its tables that the device reads (R270, R272). -/
structure Fci where
  h : Nat
  safeOff : Nat
  safeN : Nat
  liveOff : Nat
  liveN : Nat
  maskOff : Nat
  maskN : Nat
  deriving DecidableEq, Repr

/-- A route 0 read of kind 0 that a quire makes for itself: a fault writes its record (R40, R272). -/
def quireRead (s : State) (q : Slot) (c va n : Nat) : State × Except Nat (List Byte) :=
  match agentRead s { core := some q.core, gath := some (gathOf q.core) } c va n with
  | (s1, .error r) => (faultRecord s1 c (whoSlot q) va r 0 0 (r == 0), .error r)
  | x => x

/-- Read the header of the code at a PC (R270, R272): an error is a NOT_VALID fault; none is an unusable header. -/
def fciHeader (s : State) (q : Slot) (c pc : Nat) : State × Except Nat (Option Fci) :=
  let h := pc / 2 ^ 24 * 2 ^ 24
  match quireRead s q c h 64 with
  | (s1, .error 0) => (s1, .error 0)
  | (s1, .error _) => (s1, .ok none)
  | (s1, .ok bs) =>
    let x := bytesVal bs
    let f : Fci :=
      { h := h, safeOff := bitsOf x 95 64, safeN := bitsOf x 127 96, liveOff := bitsOf x 159 128
        liveN := bitsOf x 191 160, maskOff := bitsOf x 223 192, maskN := bitsOf x 255 224 }
    let size := bitsOf x 63 32
    -- the unwind and line-mark tables count too, though the device reads neither
    if bitsOf x 31 0 = 0x48444346 ∧ size ≤ 2 ^ 24 ∧ f.safeOff + 4 * f.safeN ≤ size
        ∧ f.liveOff + 8 * f.liveN ≤ size ∧ f.maskOff + 32 * f.maskN ≤ size
        ∧ bitsOf x 287 256 + 16 * bitsOf x 319 288 ≤ size ∧ bitsOf x 351 320 + 8 * bitsOf x 383 352 ≤ size then (s1, .ok (some f))
    else (s1, .ok none)

/-- Read a table of `n` entries of `w` bytes. -/
def readTable (s : State) (q : Slot) (c a w : Nat) : Nat → State × Except Nat (List Nat)
  | 0 => (s, .ok [])
  | n + 1 =>
    match quireRead s q c a w with
    | (s1, .error r) => (s1, .error r)
    | (s1, .ok bs) =>
      match readTable s1 q c (a + w) w n with
      | (s2, .error r) => (s2, .error r)
      | (s2, .ok l) => (s2, .ok (bytesVal bs :: l))

/-- The live mask at a PC: none when the header or a table is unusable (R271, R272); every register where no
entry applies. -/
def liveMask (s : State) (q : Slot) (c pc : Nat) : State × Except Nat (Option Nat) :=
  match fciHeader s q c pc with
  | (s1, .error r) => (s1, .error r)
  | (s1, .ok none) => (s1, .ok none)
  | (s1, .ok (some f)) =>
    match readTable s1 q c (f.h + f.liveOff) 8 f.liveN with
    | (s2, .error 0) => (s2, .error 0)
    | (s2, .error _) => (s2, .ok none)
    | (s2, .ok l) =>
      match (l.filter fun e => e % 2 ^ 32 ≤ (pc - f.h) / 8).getLast? with
      | none => (s2, .ok (some (2 ^ 256 - 1)))
      | some e =>
        if e / 2 ^ 32 < f.maskN then
          match quireRead s2 q c (f.h + f.maskOff + 32 * (e / 2 ^ 32)) 32 with
          | (s3, .error 0) => (s3, .error 0)
          | (s3, .error _) => (s3, .ok none)
          | (s3, .ok bs) => (s3, .ok (some (bytesVal bs)))
        else (s2, .ok none)

/-- The meeting register as eight bytes, NONE as all ones (R184, R404). -/
def mrBits (m : Option DWord) : Nat := (m.map (·.toNat)).getD (2 ^ 64 - 1)

/-- A capture block (R404) of threads `ts` under a mask of live registers. -/
def captureBytes (q : Quire) (fid : Nat) (ts : List Nat) (mask capix : Nat) : List Byte :=
  let regs := (List.range q.regs).filter fun r => mask.testBit r
  let head := bytesOf 4 fid ++ bytesOf 4 q.qid ++ bytesOf 1 q.w ++ bytesOf 1 (bit q.ftz) ++ bytesOf 1 (q.q ||| 1).toNat
    ++ bytesOf 1 0 ++ (List.range 4).flatMap (fun k => bytesOf 1 (q.ctr.getD k 0)) ++ bytesOf 4 regs.length
    ++ bytesOf 2 capix ++ bytesOf 10 0 ++ bytesOf 32 (bitMask regs)
  head ++ (List.range 128).flatMap (fun r => bytesOf 4 (q.s.getD r 0).toNat)
    ++ ((List.range q.th.length).filter ts.contains).flatMap fun t =>
      match q.th[t]? with
      | none => []
      | some th =>
        bytesOf 8 (mrBits th.mr) ++ bytesOf 2 (th.pr ||| 1).toNat ++ bytesOf 1 th.depth ++ bytesOf 1 th.td ++ bytesOf 4 0
          ++ regs.flatMap fun r => bytesOf 4 (th.v.getD r 0).toNat

/-- Write bytes by route 0 stores of a quire, 16 at a time, each performed at once: the first fault writes its record and ends
it. -/
def quireWriteAll (s : State) (q : Slot) (c va : Nat) (bs : List Byte) : State × Option Nat :=
  (List.range ((bs.length + 15) / 16)).foldl
    (fun r i =>
      match r.2 with
      | some _ => r
      | none =>
        match storeNow r.1 q.core c (va + 16 * i) ((bs.drop (16 * i)).take 16) with
        | (s1, some e) => (faultRecord s1 c (whoSlot q) (va + 16 * i) e 1 0 (e == 0), some e)
        | x => x) (s, none)

/-- A trap record's bits (R402). -/
def trapBits (q : Slot) (pc : DWord) (code : Nat) (ts : List Nat) (ucode reason va capix : Nat) : Record :=
  2 ^ 255 + pc.toNat % 2 ^ 57 * 2 ^ 192 + bitMask ts * 2 ^ 128 + ucode * 2 ^ 112 + (q.lane * 4 + q.q) * 2 ^ 104
    + q.core % 4 * 2 ^ 96 + gathOf q.core * 2 ^ 88 + capix * 2 ^ 72 + code * 2 ^ 64
    + (if code = 0x11 ∨ code = 0x12 ∨ code = 0x13 then reason % 128 else 0) * 2 ^ 57 + va % 2 ^ 57

/-- Write the capture block and the trap record of a trap (R402 to R404). A capture that meets a page that is not
valid waits for the replay; any other fault abandons it (R403, R407). Neither needs the quire any more, which a discard may have
taken away (R415, R416). -/
def writeTrap (s : State) (w : CapWait) : State :=
  let c := w.snap.ctx
  let x := s.ctx c
  let bits (capix : Nat) : Record := trapBits w.slot w.pc w.code w.ts w.ucode w.reason w.va capix
  if x.capSize = 0 ∨ 8 < x.capSize then putRecord s c (bits 0xFFFF)
  else
    let hold (s : State) : State := s.setCtx c fun y => { y with capWait := y.capWait ++ [w] }
    match liveMask s w.slot c w.pc.toNat with
    | (s1, .error _) => hold s1
    | (s1, .ok m) =>
      let capix := x.capNext.toNat
      let a := bitsOf x.capBase.toNat 56 15 * 32768 + 32768 * (capix % 2 ^ x.capSize)
      match quireWriteAll s1 w.slot c a (captureBytes w.snap w.fid w.ts (m.getD (2 ^ 256 - 1)) capix) with
      | (s2, some 0) => hold s2
      | (s2, r) =>
        putRecord (s2.setCtx c fun y => { y with capNext := y.capNext + 1 }) c (bits (if r.isSome then 0xFFFF else capix))

/-- A fragment retires, and its section takes another state (R431). -/
def retireTo (st : Section → Section) (s : State) (fr : FragTh) : State :=
  if fr.helper then s
  else
    s.setPass fr.pass fun p =>
      { p with
        frags := updWhere (fun f => f.tile == fr.tile && f.x == fr.x && f.y == fr.y && f.order == fr.order)
          (fun f => { f with retired := true, st := st f.st }) p.frags }

/-- A fragment retires when its thread exits or discards; an open section is released with it (R430, R431). -/
def retireFrag : State → FragTh → State := retireTo fun x => if x = .opened then .done else x

/-- A fragment retires when its thread halts; an open section is then released as OSEXIT releases it (R408, R431). -/
def haltFrag : State → FragTh → State := retireTo fun x => if x = .opened then .leaving else x

/-- A discarded fragment retires, and its section is released at once (R446). -/
def discardFrag : State → FragTh → State := retireTo fun x => if x = .opened ∨ x = .leaving then .done else x

/-- Every member still in the region is commit-held (R190). -/
def allHeld (q : Quire) : Bool :=
  match q.region with
  | none => false
  | some r => r.members.all fun t => ((q.th[t]?).map (·.c)).getD false

/-- The collection of a region begins when every member still in it is commit-held (R87, R190). -/
def startCollect (q : Quire) (now : Nat) : Quire :=
  { q with
    region := q.region.map fun r => if allHeld q ∧ r.collecting = none then { r with collecting := some now } else r }

/-- A thread leaves its quire's region without commit at a cycle: its buffered stores are dropped; when the last member has
left, the region is closed and parked threads are released; when every other member is commit-held, the collection begins
(R187, R188, R190, R191). -/
def leaveRegion (q : Quire) (t now : Nat) : Quire :=
  match q.region with
  | none => q
  | some r =>
    let r1 : Region :=
      { r with
        members := r.members.filter (· != t), buf := r.buf.filter fun e => e.1 != t
        entries := r.entries.filter fun e => e.1 != t }
    if r1.members = [] then { q with region := none, th := q.th.map fun x => { x with p := false } }
    else startCollect { q with region := some r1 } now

/-- Stores that threads made as members of a region and that have not been buffered are discarded with it (R187). -/
def dropTryStores (q : Quire) (ts : List Nat) : Quire :=
  { q with
    log := q.log.map fun e =>
      if opWrites e.op then
        { e with
          acc := updWhere (fun a => a.inTry && if e.uni then e.act.all ts.contains else ts.contains a.t)
            (fun a => { a with st := .done }) e.acc }
      else e }

/-- Threads are halted at a word (R400): they keep their registers and their address, take no further part in the rally
(R303), leave their region and retire their fragments. -/
def haltThreads (s : State) (slot : Slot) (pc : DWord) (code : Nat) (ts : List Nat) : State :=
  let frs := ts.filterMap fun t => ((s.quire slot).bind fun q => q.th[t]?).bind fun th => th.frag
  let s1 := s.setQuire slot fun q =>
    ts.foldl (fun q t =>
      leaveRegion (q.setTh t fun th =>
        { th with halt := some { code := code, pc := pc }, pc := pc, npc := none, tryTh := none, c := false }) t s.cycle)
      { dropTryStores q ts with
        rally := q.rally.map fun r => { r with lead := r.lead.filter fun t => !ts.contains t } }
  frs.foldl haltFrag s1

/-- TAKING A TRAP (R398 to R404), the one operation of every trap: threads `ts` of a quire halt at the word at
`pc` with a code; the capture block and the trap record are written, and the owner is interrupted. -/
def takeTrap (s : State) (slot : Slot) (pc : DWord) (code : Nat) (ts : List Nat) (ucode reason va : Nat) : State :=
  match s.quire slot with
  | none => s
  | some q =>
    if ts = [] then s else
      haltThreads
        (writeTrap s
          { slot := slot, pc := pc, code := code, ts := ts, ucode := ucode, reason := reason, va := va, snap := q
            fid := ((s.folio q.folio).map (·.fid)).getD 0 }) slot pc code ts

/-- One thread's trap at a word: thread, code, REASON and VA. -/
structure Trapped where
  t : Nat
  code : Nat
  reason : Nat
  va : Nat
  deriving DecidableEq, Repr

/-- Traps of one word: one record for each code, the lower code first, with what its lowest thread met (R399, R402). -/
def takeTraps (s : State) (slot : Slot) (pc : DWord) (l : List Trapped) : State :=
  let codes := (List.range 64).filter fun k => l.any fun e => e.code == k
  codes.foldl (fun s k =>
    let es := (l.filter fun e => e.code == k).mergeSort fun a b => a.t ≤ b.t
    takeTrap s slot pc k (es.map (·.t)) 0 ((es.head?.map (·.reason)).getD 0) ((es.head?.map (·.va)).getD 0)) s

/-- A trap of the current word at threads `ts`. -/
def trapCur (s : State) (cur : Cur) (code : Nat) (ts : List Nat) : State := takeTrap s cur.slot cur.pc code ts 0 0 0

/-- RETURNING FROM A TRAP (R401): every thread of a quire halted by SOFTWARE or BREAKPOINT continues at the word
after its trapping word, which heads a rally for this once. -/
def resumeQuire (q : Quire) : Quire :=
  { q with
    th := q.th.map fun t =>
      match t.halt with
      | some h =>
        if h.code = 0x30 ∨ h.code = 0x31 then
          { t with halt := none, pc := h.pc + 8, td := 0, xfer := false, npc := none }
        else t
      | none => t }

/-- Resume the halted threads of a context (R401). -/
def resumeTraps (s : State) (c : Nat) : State :=
  { s with quires := updWhere (fun q => q.ctx == c) resumeQuire s.quires }

/-- The word is blocked: the quire waits in it (R212), to be tried again or released by an event. -/
def blockCur (s : State) (cur : Cur) (why : Why) (op : Nat) (f : Full) : State :=
  { (s.setQuire cur.slot fun q =>
      { q with wait := some { why := why, cur := { cur with prog := cur.prog }, op := op, f := f, order := s.nextId } })
    with cur := none, nextId := s.nextId + 1 }

/-- The word waits at its issue and is tried again later. -/
def againCur (s : State) (cur : Cur) : State :=
  blockCur s cur .again 0
    { d := 0, a := 0, b := 0, c := 0, sa := false, sb := false, sc := false, u := false, csel := 0, cen := false, cls := 0 }

/-- A completion counter goes up (R256). -/
def ctrUp (q : Quire) (k : Nat) : Quire := { q with ctr := q.ctr.modify k (· + 1) }
/-- A completion counter comes down. -/
def ctrDown (q : Quire) (k : Nat) : Quire := { q with ctr := q.ctr.modify k (· - 1) }

/-- A variable-latency result has been written (R257). -/
def varDone (q : Quire) (seq : Nat) : Quire :=
  { q with
    varp := (updWhere (fun p => p.seq == seq) (fun p => { p with done := true }) q.varp).filter fun p =>
      !(p.seq == seq && !p.keep) }

end Sys2Proof.Machine
end

