-- ==== Sys2Proof/Machine/Operands.lean ====
section
/-! DEFINITION. Operands: the registers a word reads and writes (R242 to R250), the checks of its encoding that need
the quire (R45), and the shape shared by the words that compute results from registers (R274 to R276). -/

namespace Sys2Proof.Machine

/-- One operand block of a use of a field. -/
def useOpnd (us : Use) (v : Nat) (flag u w : Bool) : List Opnd :=
  match us with
  | .zero => []
  | .raw => []
  | .reg n => [⟨if flag then .s else .v, v, n, w⟩]
  | .vec n => [⟨.v, v, n, w⟩]
  | .sca n => [⟨.s, v, n, w⟩]
  | .prd n => [⟨if u then .q else .p, v, n, w⟩]
  | .qprd => [⟨.q, v, 1, w⟩]

/-- The operand blocks of a plain form. -/
def formOpnds (m : Form) (d a b c : Nat) (sa sb sc u : Bool) : List Opnd :=
  (if m.dRead then useOpnd m.d d u u false else []) ++ (if m.dWrite then useOpnd m.d d u u true else [])
    ++ useOpnd m.a a sa u false ++ useOpnd m.b b sb u false ++ useOpnd m.c c sc u false ++ m.extra

/-- The registers that the fields of a matrix word name: the A row, the format word, the B block (R375 to R380). -/
def matOpnds (op : Nat) (f : Mat) : List Opnd :=
  [⟨.v, f.a.toNat, 8, false⟩, ⟨if f.sf then .s else .v, f.f.toNat, 1, false⟩,
   ⟨.s, f.sb.toNat, (if bitOf op 3 then 4 else 1) + (if bitOf op 4 then 1 else 0), false⟩]

/-- The registers a copy word names: its slice block and its parameter block (R386, R387). -/
def copyOpnds (op : Nat) (f : Copy) : List Opnd :=
  [⟨if f.sa then .s else .v, f.a.toNat, copySlice op f.nc.toNat, false⟩,
   ⟨.s, f.sb.toNat, copyParams op, false⟩]

/-- The operand blocks of a word in parts, `e` being the registers of a FIFO entry (R349). -/
def partsOpnds (e op : Nat) (p : Parts) : List Opnd :=
  match p with
  | .full f =>
    formOpnds (fullForm e op f) f.d.toNat f.a.toNat f.b.toNat f.c.toNat f.sa f.sb f.sc f.u
  | .imm f => formOpnds (immForm op f) f.d.toNat f.a.toNat 0 0 f.sa false false f.u
  | .ldi f => [⟨if op = 0x0A9 then .s else .v, f.d.toNat, 1, true⟩]
  | .direct f =>
    if op = 0x0C1 then [⟨.q, f.d.toNat % 8, 1, false⟩]
    else if op = 0x0C3 then [⟨.v, f.d.toNat, 4, true⟩]
    else if op = 0x0E0 then [⟨.v, f.d.toNat, 1, true⟩]
    else []
  | .mat f => matOpnds op f
  | .copy f => copyOpnds op f

/-- Whether a P-form opcode is unary (R262). -/
def pairUnary (o : PairOp) : Bool :=
  o ∈ [PairOp.ineg, .iabs, .not, .popc, .clz, .ctz, .brev, .frnd, .ffrac, .frcp, .frsq, .fsqrt, .fexp2, .flog2, .fsin,
    .fcos, .ftanh, .mov, .cvtF32F16, .cvtF32Bf16, .cvtF32I32, .cvtI32F32]

/-- The latency of a P-form half (R251). -/
def pairLatency (o : PairOp) : Nat :=
  if o ∈ [PairOp.frcp, .frsq, .fsqrt, .fexp2, .flog2, .fsin, .fcos, .ftanh] then 12
  else if o ∈ [PairOp.iadd, .isub, .iminI32, .imaxI32, .iminN32, .imaxN32, .ineg, .iabs, .and, .or, .xor, .not, .shl,
      .shr, .sar, .rotl, .mov] then 4
  else 6

/-- A half's operand blocks. -/
def halfOpnds (x : Half) : List Opnd :=
  (if pairUnary x.op then [] else [⟨.v, x.d.toNat, 1, false⟩])
    ++ [⟨.v, x.d.toNat, 1, true⟩, ⟨if x.as then .s else .v, x.a.toNat, 1, false⟩]

/-- One guarded part of a word: a whole F-form word or a half of a P-form word. -/
structure Strand where
  guard : Nat
  neg : Bool
  opnds : List Opnd
  lat : Option Nat
  deriving DecidableEq, Repr

/-- What issue needs of a word: opcode number (none for a P-form word), rally end, S bits, guarded strands, U. -/
structure WordInfo where
  op : Option Nat
  last : Bool
  stall : Nat
  strands : List Strand
  uni : Bool
  ctr : Option Nat
  deriving DecidableEq, Repr

/-- Whether a word in parts executes once (R172, R246). -/
def partsUni (op : Nat) (p : Parts) : Bool :=
  match p with
  | .full f => f.u || op = 0x0E8 || op = 0x0E9
  | .imm f => f.u
  | .ldi _ => op = 0x0A9
  | _ => false

/-- The completion counter a word counts on (R256). -/
def partsCtr (p : Parts) : Option Nat :=
  match p with
  | .full f => if f.cen then some f.csel.toNat else none
  | .mat f => if f.cen then some f.csel.toNat else none
  | .copy f => if f.cen then some f.csel.toNat else none
  | _ => none

/-- The issue view of a word. -/
def wordInfo (e : Nat) : WordParts → WordInfo
  | .pair last stall p r =>
    { op := none, last := last, stall := stall.toNat, uni := false, ctr := none
      strands := [⟨p.guard.toNat, p.neg, halfOpnds p, some (pairLatency p.op)⟩,
        ⟨r.guard.toNat, r.neg, halfOpnds r, some (pairLatency r.op)⟩] }
  | .form op h p =>
    { op := some op, last := h.last, stall := h.stall.toNat, uni := partsUni op p, ctr := partsCtr p
      strands := [⟨h.guard.toNat, h.neg, partsOpnds e op p, (timingOf op).latency⟩] }

/-- The cross-thread opcodes (R315). -/
def isCross (op : Nat) : Bool := 0x0D0 ≤ op && op ≤ 0x0D9

/-- Opcodes whose accesses take an entry of the operand log (R405). -/
def isLogged (op : Nat) : Bool := 0x100 ≤ op && op < 0x160 && op != 0x128 && op != 0x129

/-- The issue period of a word (R251). -/
def wordPeriod (w : WordInfo) : Nat :=
  match w.op with
  | some op => (timingOf op).period
  | none => if w.strands.any fun x => x.lat == some 12 then 4 else 1

/-- The word's own L for R253: the larger of its halves, 1 with no fixed latency. -/
def wordLatency (w : WordInfo) : Nat := w.strands.foldl (fun m x => max m (x.lat.getD 1)) 0

/-- Vector registers of a list of blocks. -/
def vecRegs (l : List Opnd) (w : Bool) : List Nat :=
  ((l.filter fun o => o.file = .v && o.write == w).flatMap fun o => (List.range o.n).map (o.reg + ·)).dedup

/-- Cycles of operand read a thread takes (R46). -/
def readCycles (w : WordInfo) : Nat :=
  match w.op with
  | none => 1
  | some _ =>
    let rs := vecRegs (w.strands.flatMap (·.opnds)) false
    let m := (List.range 4).foldl (fun m b => max m (rs.filter fun r => r % 4 == b).length) 0
    max 1 ((m + 1) / 2)

/-- A vector register of a P-form word lies at or beyond the count (R244), where the word's banks clash too: the encoding is
then raised before the banks (R261). -/
def pairBeyond (q : Quire) (w : Nat) : Bool :=
  match decodeHalf (bitsOf w 57 29), decodeHalf (bitsOf w 28 0) with
  | some p, some r => (halfOpnds p ++ halfOpnds r).any fun o => o.file == .v && decide (q.regs < o.reg + o.n)
  | _, _ => false

/-- Segment width of `SHFL` by its code (R317). -/
def shflSeg (w code : Nat) : Nat := if code = 0 then w else 2 ^ code

/-- Words that are legal only in quires of some stages (R425, R429, R430, R432, R438, R468); `lists` says whether a routine quire is
one of a PASS node. -/
def stageWordOk (st : Stage) (lists : Bool) (x : WordParts) : Bool :=
  match x with
  | .form op _ (.full f) =>
    if op ∈ [0x1C0, 0x1C1, 0x1C5, 0x1C6, 0x1C7, 0x1C8, 0x1C9] then st = .fragment
    else if 0x1CA ≤ op ∧ op ≤ 0x1CC then st = .mesh
    else if 0x1C2 ≤ op ∧ op ≤ 0x1C4 then
      (st ∈ [.mesh, .fragment, .resolve, .recon, .post] || (st = .routine && lists)) && (op != 0x1C2 || !f.cls.toNat.testBit 0 || st = .fragment)
    else if 0x1D5 ≤ op ∧ op ≤ 0x1D8 then st = .routine
    else true
  | _ => true

/-- The cases of R244 that need the quire: vector registers against its count C (R45), widths against W (R317,
R321, R322, R327), tags against T (R148, R388). -/
def dynOk (q : Quire) (rcd : Nat) (st : Stage) (lists : Bool) (w : WordInfo) (x : WordParts) : Bool :=
  stageWordOk st lists x &&
  (w.strands.all fun x => x.opnds.all fun o => o.file != .v || o.reg + o.n ≤ q.regs) &&
    match x with
    | .form 0x0D1 _ (.full f) => shflSeg q.w (f.cls.toNat / 4) ≤ q.w
    | .form 0x0D2 _ (.imm f) => shflSeg q.w (f.clb.toNat / 4 % 8) ≤ q.w
    | .form 0x0D8 _ (.full f) => f.cls != 0 || f.b.toNat < q.w
    | .form 0x0D9 _ (.full f) => f.cls != 0 || f.b.toNat < q.w
    | .form 0x148 _ (.full f) => f.a.toNat < rcFifos rcd
    | .form 0x149 _ (.full f) => f.a.toNat < rcFifos rcd
    | .form 0x14A _ (.full f) => f.a.toNat < rcFifos rcd
    | .form 0x14B _ (.full f) => f.a.toNat < rcFifos rcd
    | .form 0x170 _ (.full f) => f.cls.toNat.testBit 0 || f.b.toNat < folioTags rcd
    | .form 0x173 _ (.full f) => f.b.toNat < folioTags rcd
    | .form 0x174 _ (.full f) => f.b.toNat < folioTags rcd
    | .form 0x0E8 _ (.full f) => q.w * regGranule f.b.toNat ≤ 4096
    | .form _ _ (.copy f) => f.tag.toNat < folioTags rcd
    | _ => true

/-- The word being issued, if some thread is active (R172). -/
def State.active (s : State) : Option Cur := s.cur.filter fun c => !c.act.isEmpty

/-- Compute a result of `nd` registers from blocks of sources, for each actor (R172, R274, R275). -/
def aluWord (u : Bool) (d nd : Nat) (f : Quire → Cur → Nat → Nat) (s : State) : Host.Outcome State Fault Refusal :=
  match s.active with
  | none => .next s
  | some cur => .next (forThreads s cur (actors cur u) fun q0 t q => q.putD u t d nd (f q0 cur t))

/-- Compute predicates from D upward, for each actor (R276). -/
def prdWord (u : Bool) (d : Nat) (f : Quire → Cur → Nat → List Bool) (s : State) :
    Host.Outcome State Fault Refusal :=
  match s.active with
  | none => .next s
  | some cur =>
    .next (forThreads s cur (actors cur u) fun q0 t q =>
      (f q0 cur t).zipIdx.foldl (fun q e => q.putPred u t (d + e.2) e.1) q)

/-- A plain word: D of `nd` registers from A of `na`, B of `nb` and C of `nc`. -/
def aluFull (f : Full) (nd na nb nc : Nat) (g : Quire → Nat → Nat → Nat → Nat) (s : State) :
    Host.Outcome State Fault Refusal :=
  aluWord f.u f.d.toNat nd
    (fun q cur t =>
      g q (block q cur f.sa t f.a.toNat na) (block q cur f.sb t f.b.toNat nb) (block q cur f.sc t f.c.toNat nc)) s

/-- A plain word that writes predicates. -/
def prdFull (f : Full) (na nb : Nat) (g : Quire → Nat → Nat → List Bool) (s : State) :
    Host.Outcome State Fault Refusal :=
  prdWord f.u f.d.toNat
    (fun q cur t => g q (block q cur f.sa t f.a.toNat na) (block q cur f.sb t f.b.toNat nb)) s

/-- An immediate twin: D from A and the widened immediate (R245). -/
def aluImm (f : Imm) (x : Nat) (g : Quire → Nat → Nat → Nat) (s : State) : Host.Outcome State Fault Refusal :=
  aluWord f.u f.d.toNat 1 (fun q cur t => g q (block q cur f.sa t f.a.toNat 1) x) s

/-- An immediate twin that writes a predicate. -/
def prdImm (f : Imm) (x : Nat) (g : Quire → Nat → Nat → List Bool) (s : State) : Host.Outcome State Fault Refusal :=
  prdWord f.u f.d.toNat (fun q cur t => g q (block q cur f.sa t f.a.toNat 1) x) s

/-- The immediate of class 0, SEL and SHFL, widened (R245). -/
def immInt (f : Imm) : Nat := signExt 20 32 f.imm.toNat
/-- The FP32 immediate of class 1. -/
def immF32 (f : Imm) : Nat := f.imm.toNat * 4096
/-- The packed 16-bit immediate of class 2. -/
def immPair (f : Imm) : Nat := f.imm.toNat % 65536 * 65537

end Sys2Proof.Machine
end

