-- ==== Sys2Proof/Machine/Int.lean ====
section
/-! DEFINITION. Class 0: integer arithmetic, logic, shifts, counts, fields, permutes and interleaving (R280 to R286). -/

namespace Sys2Proof.Machine

/-- A bit of CLS. -/
def clsBit (f : Full) (k : Nat) : Bool := bitOf f.cls.toNat k
/-- A bit of CLB. -/
def clbBit (f : Imm) (k : Nat) : Bool := bitOf f.clb.toNat k

/-- IADD (R280). -/
def opIadd (sat uns : Bool) (a b : Nat) : Nat := intRes sat uns (readInt uns a + readInt uns b)
/-- ISUB. -/
def opIsub (sat uns : Bool) (a b : Nat) : Nat := intRes sat uns (readInt uns a - readInt uns b)
/-- INEG. -/
def opIneg (sat : Bool) (a : Nat) : Nat := intRes sat false (-sInt 32 a)
/-- IABS. -/
def opIabs (sat : Bool) (a : Nat) : Nat := intRes sat false (sInt 32 a).natAbs
/-- IMUL. -/
def opImul (sat uns : Bool) (a b : Nat) : Nat := intRes sat uns (readInt uns a * readInt uns b)
/-- IMULH. -/
def opImulh (uns : Bool) (a b : Nat) : Nat := toBits 64 (readInt uns a * readInt uns b) / 2 ^ 32
/-- IMAD. -/
def opImad (sat uns : Bool) (a b c : Nat) : Nat := intRes sat uns (readInt uns a * readInt uns b + readInt uns c)
/-- IMADW. -/
def opImadw (uns : Bool) (a b c : Nat) : Nat := toBits 64 (readInt uns a * readInt uns b + readInt uns c)
/-- IMIN and IMAX. -/
def opIpick (larger uns : Bool) (a b : Nat) : Nat :=
  if decide (readInt uns a < readInt uns b) != larger then a else b
/-- ISAD. -/
def opIsad (uns : Bool) (a b c : Nat) : Nat := ((readInt uns a - readInt uns b).natAbs + c) % 2 ^ 32
/-- BOP3: the table indexed by A, B and the old D, bit by bit (R283). -/
def opBop3 (lut a b d : Nat) : Nat :=
  bitMask ((List.range 32).filter fun i => lut.testBit (4 * bit (a.testBit i) + 2 * bit (b.testBit i) + bit (d.testBit i)))
/-- SHL, SHR, SAR, ROTL (R283): B bits 31:8 are ignored. -/
def opShl (a b : Nat) : Nat := a * 2 ^ (b % 256) % 2 ^ 32
def opShr (a b : Nat) : Nat := a / 2 ^ (b % 256)
def opSar (a b : Nat) : Nat := toBits 32 (sInt 32 a / (2 ^ min (b % 256) 31 : Nat))
def opRotl (a b : Nat) : Nat := let n := b % 32; (a * 2 ^ n + a / 2 ^ (32 - n)) % 2 ^ 32
/-- SHF (R284). -/
def opShf (lo : Bool) (a b c : Nat) : Nat :=
  let h := a * 2 ^ 32 + b
  let n := min (c % 256) 32
  if lo then h / 2 ^ n % 2 ^ 32 else h * 2 ^ n / 2 ^ 32 % 2 ^ 32
/-- Ones of x below w. -/
def popCount (w x : Nat) : Nat := ((List.range w).filter fun i => x.testBit i).length
/-- CLZ over w bits. -/
def opClz (w x : Nat) : Nat := if x = 0 then w else w - 1 - Nat.log2 x
/-- CTZ over w bits. -/
def opCtz (w x : Nat) : Nat := ((List.range w).find? fun i => x.testBit i).getD w
/-- BREV over w bits. -/
def opBrev (w x : Nat) : Nat := bitMask ((List.range w).filter fun i => x.testBit (w - 1 - i))
/-- BFX (R285). -/
def opBfx (sgn : Bool) (a b : Nat) : Nat :=
  let pos := b % 256
  let len0 := b / 256 % 256
  if 32 ≤ pos ∨ len0 = 0 then 0
  else
    let len := min len0 (32 - pos)
    let x := a / 2 ^ pos % 2 ^ len
    if sgn then signExt len 32 x else x
/-- BFI. -/
def opBfi (a b c : Nat) : Nat :=
  let pos := b % 256
  let len0 := b / 256 % 256
  if 32 ≤ pos ∨ len0 = 0 then c
  else
    let len := min len0 (32 - pos)
    setField c (pos + len - 1) pos a
/-- BYPR. -/
def opBypr (a b c : Nat) : Nat :=
  let src := b * 2 ^ 32 + a
  bytesVal ((List.range 4).map fun i =>
    let sel := c / 16 ^ i % 16
    let v := src / 256 ^ (sel % 8) % 256
    BitVec.ofNat 8 (if 8 ≤ sel then (if 128 ≤ v then 255 else 0) else v))
/-- BILV (R286): two 16-bit or three 10-bit components. -/
def opBilv (w3 : Bool) (a b c : Nat) : Nat :=
  if w3 then
    bitMask ((List.range 30).filter fun k => (if k % 3 = 0 then a else if k % 3 = 1 then b else c).testBit (k / 3))
  else bitMask ((List.range 32).filter fun k => (if k % 2 = 0 then a else b).testBit (k / 2))
/-- BDLV. -/
def opBdlv (w3 : Bool) (a b : Nat) : Nat :=
  let k := b % 256
  if w3 then (if k < 3 then bitMask ((List.range 10).filter fun i => a.testBit (3 * i + k)) else 0)
  else (if k < 2 then bitMask ((List.range 16).filter fun i => a.testBit (2 * i + k)) else 0)
/-- AADD (R282). -/
def opAadd (uns : Bool) (a b : Nat) : Nat := toBits 64 ((a : Int) + readInt uns b)
/-- AMAD. -/
def opAmad (uns : Bool) (a b c : Nat) : Nat := toBits 64 (readInt uns a * readInt uns b + c)

def execIadd (_ : Hdr) (f : Full) (s : State) : Host.Outcome State Fault Refusal :=
  aluFull f 1 1 1 0 (fun _ a b _ => opIadd (clsBit f 1) (clsBit f 0) a b) s
def execIsub (_ : Hdr) (f : Full) (s : State) : Host.Outcome State Fault Refusal :=
  aluFull f 1 1 1 0 (fun _ a b _ => opIsub (clsBit f 1) (clsBit f 0) a b) s
def execIneg (_ : Hdr) (f : Full) (s : State) : Host.Outcome State Fault Refusal :=
  aluFull f 1 1 0 0 (fun _ a _ _ => opIneg (clsBit f 1) a) s
def execIabs (_ : Hdr) (f : Full) (s : State) : Host.Outcome State Fault Refusal :=
  aluFull f 1 1 0 0 (fun _ a _ _ => opIabs (clsBit f 1) a) s
def execImul (_ : Hdr) (f : Full) (s : State) : Host.Outcome State Fault Refusal :=
  aluFull f 1 1 1 0 (fun _ a b _ => opImul (clsBit f 1) (clsBit f 0) a b) s
def execImulh (_ : Hdr) (f : Full) (s : State) : Host.Outcome State Fault Refusal :=
  aluFull f 1 1 1 0 (fun _ a b _ => opImulh (clsBit f 0) a b) s
def execImad (_ : Hdr) (f : Full) (s : State) : Host.Outcome State Fault Refusal :=
  aluFull f 1 1 1 1 (fun _ a b c => opImad (clsBit f 1) (clsBit f 0) a b c) s
def execImadw (_ : Hdr) (f : Full) (s : State) : Host.Outcome State Fault Refusal :=
  aluFull f 2 1 1 1 (fun _ a b c => opImadw (clsBit f 0) a b c) s
def execImin (_ : Hdr) (f : Full) (s : State) : Host.Outcome State Fault Refusal :=
  aluFull f 1 1 1 0 (fun _ a b _ => opIpick false (clsBit f 0) a b) s
def execImax (_ : Hdr) (f : Full) (s : State) : Host.Outcome State Fault Refusal :=
  aluFull f 1 1 1 0 (fun _ a b _ => opIpick true (clsBit f 0) a b) s
def execIsad (_ : Hdr) (f : Full) (s : State) : Host.Outcome State Fault Refusal :=
  aluFull f 1 1 1 1 (fun _ a b c => opIsad (clsBit f 0) a b c) s
def execIcmp (_ : Hdr) (f : Full) (s : State) : Host.Outcome State Fault Refusal :=
  prdFull f 1 1 (fun _ a b =>
    [intCompare (f.cls.toNat % 16) (readInt (clsBit f 4) a) (readInt (clsBit f 4) b)]) s
/-- IADDC writes D and the carry-out predicate (R281). -/
def execIaddc (_ : Hdr) (f : Full) (s : State) : Host.Outcome State Fault Refusal :=
  match s.active with
  | none => .next s
  | some cur =>
    .next (forThreads s cur (actors cur f.u) fun q0 t q =>
      let ci := if clsBit f 0 then bit (predOf q0 cur f.u t (f.c.toNat % 16)) else 0
      let r := addCarry (clsBit f 1) (block q0 cur f.sa t f.a.toNat 1) (block q0 cur f.sb t f.b.toNat 1) ci
      (q.putD f.u t f.d.toNat 1 r.1).putPred f.u t (f.c.toNat / 16) r.2)
def execAndBits (_ : Hdr) (f : Full) (s : State) : Host.Outcome State Fault Refusal :=
  aluFull f 1 1 1 0 (fun _ a b _ => a &&& b) s
def execOrBits (_ : Hdr) (f : Full) (s : State) : Host.Outcome State Fault Refusal :=
  aluFull f 1 1 1 0 (fun _ a b _ => a ||| b) s
def execXorBits (_ : Hdr) (f : Full) (s : State) : Host.Outcome State Fault Refusal :=
  aluFull f 1 1 1 0 (fun _ a b _ => a ^^^ b) s
def execNotBits (_ : Hdr) (f : Full) (s : State) : Host.Outcome State Fault Refusal :=
  aluFull f 1 1 0 0 (fun _ a _ _ => 4294967295 - a) s
/-- BOP3's third input is the destination's old value (R283). -/
def execBop3 (_ : Hdr) (f : Full) (s : State) : Host.Outcome State Fault Refusal :=
  aluWord f.u f.d.toNat 1
    (fun q cur t =>
      opBop3 f.c.toNat (block q cur f.sa t f.a.toNat 1) (block q cur f.sb t f.b.toNat 1)
        (block q cur f.u t f.d.toNat 1)) s
def execShl (_ : Hdr) (f : Full) (s : State) : Host.Outcome State Fault Refusal :=
  aluFull f 1 1 1 0 (fun _ a b _ => opShl a b) s
def execShr (_ : Hdr) (f : Full) (s : State) : Host.Outcome State Fault Refusal :=
  aluFull f 1 1 1 0 (fun _ a b _ => opShr a b) s
def execSar (_ : Hdr) (f : Full) (s : State) : Host.Outcome State Fault Refusal :=
  aluFull f 1 1 1 0 (fun _ a b _ => opSar a b) s
def execRotl (_ : Hdr) (f : Full) (s : State) : Host.Outcome State Fault Refusal :=
  aluFull f 1 1 1 0 (fun _ a b _ => opRotl a b) s
def execShf (_ : Hdr) (f : Full) (s : State) : Host.Outcome State Fault Refusal :=
  aluFull f 1 1 1 1 (fun _ a b c => opShf (clsBit f 0) a b c) s
/-- The width that W64 selects. -/
def w64 (f : Full) : Nat := if clsBit f 0 then 64 else 32
def execPopc (_ : Hdr) (f : Full) (s : State) : Host.Outcome State Fault Refusal :=
  aluFull f 1 (w64 f / 32) 0 0 (fun _ a _ _ => popCount (w64 f) a) s
def execClz (_ : Hdr) (f : Full) (s : State) : Host.Outcome State Fault Refusal :=
  aluFull f 1 (w64 f / 32) 0 0 (fun _ a _ _ => opClz (w64 f) a) s
def execCtz (_ : Hdr) (f : Full) (s : State) : Host.Outcome State Fault Refusal :=
  aluFull f 1 (w64 f / 32) 0 0 (fun _ a _ _ => opCtz (w64 f) a) s
def execBrev (_ : Hdr) (f : Full) (s : State) : Host.Outcome State Fault Refusal :=
  aluFull f (w64 f / 32) (w64 f / 32) 0 0 (fun _ a _ _ => opBrev (w64 f) a) s
def execBfx (_ : Hdr) (f : Full) (s : State) : Host.Outcome State Fault Refusal :=
  aluFull f 1 1 1 0 (fun _ a b _ => opBfx (clsBit f 0) a b) s
def execBfi (_ : Hdr) (f : Full) (s : State) : Host.Outcome State Fault Refusal :=
  aluFull f 1 1 1 1 (fun _ a b c => opBfi a b c) s
def execBypr (_ : Hdr) (f : Full) (s : State) : Host.Outcome State Fault Refusal :=
  aluFull f 1 1 1 1 (fun _ a b c => opBypr a b c) s
def execBilv (_ : Hdr) (f : Full) (s : State) : Host.Outcome State Fault Refusal :=
  aluFull f 1 1 1 (if clsBit f 0 then 1 else 0) (fun _ a b c => opBilv (clsBit f 0) a b c) s
def execBdlv (_ : Hdr) (f : Full) (s : State) : Host.Outcome State Fault Refusal :=
  aluFull f 1 1 1 0 (fun _ a b _ => opBdlv (clsBit f 0) a b) s
def execAadd (_ : Hdr) (f : Full) (s : State) : Host.Outcome State Fault Refusal :=
  aluFull f 2 2 1 0 (fun _ a b _ => opAadd (clsBit f 0) a b) s
def execAmad (_ : Hdr) (f : Full) (s : State) : Host.Outcome State Fault Refusal :=
  aluFull f 2 1 1 2 (fun _ a b c => opAmad (clsBit f 0) a b c) s
def execIaddI (_ : Hdr) (f : Imm) (s : State) : Host.Outcome State Fault Refusal :=
  aluImm f (immInt f) (fun _ a b => opIadd (clbBit f 1) (clbBit f 0) a b) s
def execImulI (_ : Hdr) (f : Imm) (s : State) : Host.Outcome State Fault Refusal :=
  aluImm f (immInt f) (fun _ a b => opImul (clbBit f 1) (clbBit f 0) a b) s
def execAndI (_ : Hdr) (f : Imm) (s : State) : Host.Outcome State Fault Refusal :=
  aluImm f (immInt f) (fun _ a b => a &&& b) s
def execOrI (_ : Hdr) (f : Imm) (s : State) : Host.Outcome State Fault Refusal :=
  aluImm f (immInt f) (fun _ a b => a ||| b) s
def execXorI (_ : Hdr) (f : Imm) (s : State) : Host.Outcome State Fault Refusal :=
  aluImm f (immInt f) (fun _ a b => a ^^^ b) s
def execIcmpI (_ : Hdr) (f : Imm) (s : State) : Host.Outcome State Fault Refusal :=
  prdImm f (immInt f) (fun _ a b =>
    [intCompare (f.clb.toNat % 16) (readInt (clbBit f 4) a) (readInt (clbBit f 4) b)]) s

end Sys2Proof.Machine
end

