-- ==== Sys2Proof/Machine/Control.lean ====
section
/-! DEFINITION. Class 3, transfers of control, meeting addresses, exits and traps (R301 to R314). -/

namespace Sys2Proof.Machine

/-- TargetOf (R302). -/
def targetOf (pc : DWord) (off : BitVec 24) : DWord := pc + 8 * off.signExtend 64

/-- Threads trap at the word and take no further part in it (R398, R399). -/
def dropTraps (s : State) (cur : Cur) (l : List Trapped) : State × Cur :=
  let cur1 := { cur with act := cur.act.filter fun t => !(l.any fun e => e.t == t) }
  (takeTraps { s with cur := some cur1 } cur.slot cur.pc l, cur1)

/-- A transfer: each active thread is checked, and those that pass change (R302, R303). -/
def transfer (chk : Quire → Cur → Nat → Option Nat) (f : Quire → Cur → Nat → Thread → Thread) (s : State) :
    Host.Outcome State Fault Refusal :=
  match s.active with
  | none => .next s
  | some cur =>
    match s.quire cur.slot with
    | none => .next s
    | some q =>
      let bad := cur.act.filterMap fun t => (chk q cur t).map fun k => (⟨t, k, 0, 0⟩ : Trapped)
      let r := dropTraps s cur bad
      .next (forThreads r.1 r.2 r.2.act fun q0 t q => q.setTh t (f q0 r.2 t))

/-- An address as the 57 bits that mr holds (R174). A `BRK` to a target with bits 63:57 set is thus never at its meeting point: the
pc keeps all 64 bits until the fetch faults (DEDUCED, log 118). -/
def mr57 (x : DWord) : DWord := x % BitVec.ofNat 64 (2 ^ 57)

/-- BRA (R304). -/
def execBra (_ : Hdr) (f : Direct) (s : State) : Host.Outcome State Fault Refusal :=
  transfer (fun _ _ _ => none) (fun _ cur _ th => { th with npc := some (targetOf cur.pc f.off) }) s

/-- BRAU: the uniform predicate, read once, decides for the whole leading set, which never splits (R305). -/
def execBrau (_ : Hdr) (f : Direct) (s : State) : Host.Outcome State Fault Refusal :=
  transfer (fun _ _ _ => none)
    (fun q cur t th =>
      if qReg q cur (cur.act.headD t) (f.d.toNat % 8) != f.d.getLsbD 3 then { th with npc := some (targetOf cur.pc f.off) } else th) s

/-- The indirect target of a thread (R302). -/
def indirect (f : Full) (q : Quire) (cur : Cur) (t : Nat) : Nat := sharedBlock q cur f.sa t f.a.toNat 2

/-- JMPI (R306). -/
def execJmpi (_ : Hdr) (f : Full) (s : State) : Host.Outcome State Fault Refusal :=
  transfer (fun q cur t => if indirect f q cur t % 8 = 0 then none else some 0x08)
    (fun q cur t th => { th with npc := some (BitVec.ofNat 64 (indirect f q cur t)) }) s

/-- The link of a call: the quad D, mr, DEPTH and the target (R307). -/
def callThread (d : Nat) (cur : Cur) (target : DWord) (th : Thread) : Thread :=
  { th with
    v := putWords th.v d (wordsOf 4 ((cur.pc + 8).toNat + 2 ^ 64 * mrBits th.mr))
    mr := none, depth := th.depth + 1, npc := some target }

/-- A thread at depth 255 cannot call (R175). -/
def deepest (q : Quire) (t : Nat) : Bool := ((q.th[t]?).map fun th => th.depth == 255).getD false

/-- CALL (R307). -/
def execCall (_ : Hdr) (f : Direct) (s : State) : Host.Outcome State Fault Refusal :=
  transfer (fun q _ t => if deepest q t then some 0x07 else none)
    (fun _ cur _ th => callThread f.d.toNat cur (targetOf cur.pc f.off) th) s

/-- CALLI: the target is read before the link is written (R307). -/
def execCalli (_ : Hdr) (f : Full) (s : State) : Host.Outcome State Fault Refusal :=
  transfer
    (fun q cur t => if deepest q t then some 0x07 else if indirect f q cur t % 8 = 0 then none else some 0x08)
    (fun q cur t th => callThread f.d.toNat cur (BitVec.ofNat 64 (indirect f q cur t)) th) s

/-- RET's traps: depth 0, a region's depth, a misaligned target (R308, R186). -/
def retCheck (f : Full) (q : Quire) (cur : Cur) (t : Nat) : Option Nat :=
  match q.th[t]? with
  | none => none
  | some th =>
    if th.depth = 0 then some 0x07
    else if (th.tryTh.map fun y => decide (th.depth - 1 < y.depth0)).getD false then some 0x28
    else if indirect f q cur t % 8 = 0 then none
    else some 0x08

/-- RET (R308). -/
def execRet (_ : Hdr) (f : Full) (s : State) : Host.Outcome State Fault Refusal :=
  transfer (retCheck f)
    (fun q cur t th =>
      let m := sharedBlock q cur f.sa t (f.a.toNat + 2) 2
      { th with
        mr := if m = 2 ^ 64 - 1 then none else some (BitVec.ofNat 64 (m % 2 ^ 57))
        depth := th.depth - 1, npc := some (BitVec.ofNat 64 (indirect f q cur t)) }) s

/-- MEET (R309). -/
def execMeet (_ : Hdr) (f : Direct) (s : State) : Host.Outcome State Fault Refusal :=
  transfer (fun _ _ _ => none)
    (fun _ cur _ th => { th with mr := if f.cls = 1 then none else some (mr57 (targetOf cur.pc f.off)) }) s

/-- BRK (R310). -/
def execBrk (_ : Hdr) (f : Direct) (s : State) : Host.Outcome State Fault Refusal :=
  transfer (fun _ _ _ => none)
    (fun _ cur _ th =>
      { th with npc := some (targetOf cur.pc f.off), mr := some (mr57 (targetOf cur.pc f.off)) }) s

/-- YIELD sets Y for the whole leading set at the rally's end (R177, R311). -/
def execYield (_ : Hdr) (_ : Full) (s : State) : Host.Outcome State Fault Refusal :=
  match s.active with
  | none => .next s
  | some cur => .next { s with cur := some { cur with yielded := true } }

/-- Whether a fragment thread's section is open (R431). -/
def sectionOpen (s : State) (q : Quire) (t : Nat) : Bool :=
  match (q.th[t]?).bind (·.frag) with
  | none => false
  | some fr =>
    !fr.helper && ((s.pass fr.pass).map fun p =>
      p.frags.any fun x => x.tile == fr.tile && x.x == fr.x && x.y == fr.y && x.order == fr.order && x.st == .opened).getD false

/-- EXIT (R312): X is set at the rally's end; a member of a region and a thread inside a section trap. -/
def execExitThread (_ : Hdr) (_ : Full) (s : State) : Host.Outcome State Fault Refusal :=
  transfer (fun q _ t => if q.member t then some 0x28 else if sectionOpen s q t then some 0x22 else none)
    (fun _ _ _ th => { th with exiting := true }) s

/-- NOP has no effect beyond its stall count (R313). -/
def execNop (_ : Hdr) (_ : Full) (s : State) : Host.Outcome State Fault Refusal := .next s

/-- TRAP imm16: SOFTWARE at every active thread, the code in A:B (R314). -/
def execTrap (_ : Hdr) (f : Full) (s : State) : Host.Outcome State Fault Refusal :=
  match s.active with
  | none => .next s
  | some cur =>
    .next { takeTrap s cur.slot cur.pc 0x30 cur.act (f.a.toNat * 256 + f.b.toNat) 0 0 with
      cur := some { cur with act := [] } }

/-- BPT: BREAKPOINT (R314). -/
def execBpt (_ : Hdr) (_ : Full) (s : State) : Host.Outcome State Fault Refusal :=
  match s.active with
  | none => .next s
  | some cur => .next { takeTrap s cur.slot cur.pc 0x31 cur.act 0 0 0 with cur := some { cur with act := [] } }

end Sys2Proof.Machine
end

