-- ==== Sys2Proof/Machine/Bench.lean ====
section
/-! DEFINITION. The arithmetic of the matrix engine (R234 to R237, R375 to R379), held chains (R382), and the registers
that a pending matrix word keeps other words from (R128, R384). -/

namespace Sys2Proof.Machine

/-- N of a matrix opcode (R375). -/
def matN (op : Nat) : Nat := 8 * 2 ^ (op % 4)
def matAcc (op : Nat) : Bool := bitOf op 2
def matGl (op : Nat) : Bool := bitOf op 3
def matMmas (op : Nat) : Bool := bitOf op 4
def fmA (w : Nat) : Nat := bitsOf w 3 0
def fmB (w : Nat) : Nat := bitsOf w 7 4
def fmO (w : Nat) : Nat := bitsOf w 11 8
def fmScale (w : Nat) : Nat := bitsOf w 13 12
def fmRnd (w : Nat) : Nat := bitsOf w 15 14

/-- K (R376). -/
def matK (w : Nat) : Nat := if fmA w ≤ 1 then 16 else 32
/-- Element bytes of a matrix format. -/
def matBytes (fmt : Nat) : Nat := if fmt ≤ 1 then 2 else 1
/-- Whether the accumulator is I32 (R376). -/
def matInt (mmas : Bool) (w : Nat) : Bool := !mmas && fmA w == 5 && fmB w == 5
/-- Rows of A carry a scale; columns of B carry one. -/
def scaleA (mmas : Bool) (w : Nat) : Bool := mmas && (fmScale w == 1 || fmScale w == 3)
def scaleB (mmas : Bool) (w : Nat) : Bool := mmas && 2 ≤ fmScale w

/-- A valid format word for the instruction (R376). -/
def fmtOk (mmas : Bool) (w : Nat) : Bool :=
  w / 65536 == 0 && fmA w ≤ 5 && fmB w ≤ 5 && fmO w != 4 && fmO w != 5 && fmO w ≤ 7
    && ((fmA w == 5) == (fmB w == 5)) && (mmas || fmScale w == 0) && !(mmas && (fmA w ≤ 1 || fmB w ≤ 1))
    && ((fmO w == 7) == matInt mmas w)

/-- Registers of the C row (R379). -/
def rowRegs (n ofmt : Nat) : Nat := if 6 ≤ ofmt then n else if ofmt ≤ 1 then n / 2 else n / 4

/-- The format of a narrow output. -/
def narrowFmt (ofmt : Nat) : Fmt :=
  match ofmt with
  | 0 => bf16
  | 1 => fp16
  | 2 => e4m3
  | _ => e5m2

/-- Widen a C row to accumulator values (R379). -/
def widenRow (n ofmt : Nat) (ws : List Word) : List Nat :=
  if 6 ≤ ofmt then ws.map (·.toNat)
  else
    let m := narrowFmt ofmt
    let x := wordsVal ws
    (List.range n).map fun j => fpRound fp32 0 (fpRead m (x / 2 ^ (m.width * j) % 2 ^ m.width))

/-- Narrow an accumulator row to the registers of the C row (R237, R379). -/
def narrowRow (ofmt rnd : Nat) (xs : List Nat) : List Word :=
  if 6 ≤ ofmt then xs.map (BitVec.ofNat 32)
  else
    let m := narrowFmt ofmt
    let v := (xs.zipIdx).foldl (fun a e => a + fpRound m rnd (fpRead fp32 e.1) * 2 ^ (m.width * e.2)) 0
    wordsOf (rowRegs xs.length ofmt) v

/-- A matrix element as an exact value (R376, R220, R223). -/
def matRead (fmt x : Nat) : Fpv :=
  match fmt with
  | 0 => fpRead bf16 x
  | 1 => fpRead fp16 x
  | 2 => fpRead e4m3 x
  | 3 => fpRead e5m2 x
  | 4 => d2pRead x
  | _ => ofScaled (sInt 8 x) 0 false

/-- One element after a slice is added (R234 to R236): accumulator, A row, B column, the two scales. R222 gives a
D2P code as a sum of two terms and does not say whether a product with an infinity is formed from the terms or from
their sum: the model reads the code's value first and multiplies that (DEDUCED, log 102). R234 takes the sign of an exactly zero total
from C and the products, and R236 scales their sum: a cancelled sum counts as +0, with the scales' signs, and is then added to C
(DEDUCED, log 115). -/
def sliceAdd (mmas : Bool) (w c : Nat) (as bs : List Nat) (sa sb : Nat) : Nat :=
  if matInt mmas w then
    toBits 32 ((as.zip bs).foldl (fun x e => x + sInt 8 e.1 * sInt 8 e.2) (c : Int))
  else
    let ps := (as.zip bs).map fun e => fpMul (matRead (fmA w) e.1) (matRead (fmB w) e.2)
    if mmas then
      let exact := match ps with
                   | [] => Fpv.fin false 0 0
                   | x :: xs => fpSum xs x
      fpRound fp32 0 (fpAdd 0 (fpRead fp32 c) (fpMul (fpMul exact (fpRead bf16 sa)) (fpRead bf16 sb)))
    else fpRound fp32 0 (fpSum ps (fpRead fp32 c))

/-- Elements of an A row (R377). -/
def rowElems (w : Nat) (ws : List Word) : List Nat :=
  let bits := 8 * matBytes (fmA w)
  (List.range (matK w)).map fun k => wordsVal ws / 2 ^ (bits * k) % 2 ^ bits

/-- The key of a chain (R382). -/
def chainKey (c n : Nat) (mmas : Bool) (fmt : Nat) (ch : Chain) : Bool :=
  ch.c == c && ch.n == n && ch.mmas == mmas && ch.fmt == fmt

/-- CloseChain: touched rows go to their C registers (R382). -/
def closeChain (q : Quire) : Quire :=
  match q.chain with
  | none => q
  | some ch =>
    { (ch.touched.foldl (fun q t => q.setTh t fun th =>
          if th.x then th
          else { th with v := putWords th.v ch.c (narrowRow (fmO ch.fmt) (fmRnd ch.fmt) (ch.held.getD t [])) }) q) with
      chain := none }

/-- The quire's entries in its gathering's bench, in order of issue. -/
def benchOf (s : State) (slot : Slot) : List Bench := (s.gath (gathOf slot.core)).bench.filter fun b => b.slot == slot

/-- The scale offset of a B block. -/
def matScaleOff (op : Nat) (blk : List Word) : Nat := (blk.getD (if matGl op then 4 else 1) 0).toNat

/-- The scratchpad ranges of an entry's B and of its scales (R378). -/
def benchSpans (b : Bench) : List (Nat × Nat) :=
  (if matGl b.op then [] else [((b.sblk.getD 0 0).toNat, matK b.fmt * matN b.op * matBytes (fmB b.fmt))])
    ++ (if scaleB (matMmas b.op) b.fmt then [(matScaleOff b.op b.sblk, 2 * matN b.op)] else [])

/-- C registers of an entry. -/
def benchC (b : Bench) : List Nat := (List.range (rowRegs (matN b.op) (fmO b.fmt))).map (b.f.c.toNat + ·)

/-- The chain that the quire will hold when its entries have completed: its C register, N, mnemonic and format
(R382). -/
def openKey (s : State) (q : Quire) : Option (Nat × Nat × Bool × Nat) :=
  match (benchOf s q.slot).getLast? with
  | some b => if b.f.hc then some (b.f.c.toNat, matN b.op, matMmas b.op, b.fmt) else none
  | none => q.chain.map fun ch => (ch.c, ch.n, ch.mmas, ch.fmt)

/-- Whether a word that touches vector registers `rs` of a quire must wait for the bench or a held chain (R128, R382,
R384). -/
def matStall (s : State) (q : Quire) (rs : List Nat) : Bool :=
  (benchOf s q.slot).any (fun b => (benchC b).any rs.contains)
    || (q.chain.map fun ch => (List.range (rowRegs ch.n (fmO ch.fmt))).any fun i => rs.contains (ch.c + i)).getD false

/-- A stalled word closes the held chain when every entry of the quire has completed (R382). -/
def matRelease (s : State) (q : Quire) : State := if benchOf s q.slot = [] then s.setQuire q.slot closeChain else s

end Sys2Proof.Machine
end

