-- ==== Sys2Proof/Machine/Issue.lean ====
section
/-! DEFINITION. Issuing a word: the leading set (R176), the fetch (R42, R259), the checks of an encoding (R261), the
issue cycles (R252, R253), registers read too early (R254, R257), and the end of a word and of a rally (R177, R303). -/

namespace Sys2Proof.Machine

/-- A member whose abort waits for the rally boundary takes part in no leading set (R188). -/
def abortDue (q : Quire) (t : Nat) : Bool :=
  match q.th[t]? with
  | none => false
  | some th =>
    match th.tryTh with
    | none => false
    | some y => y.abort.isSome || ((q.region.bind (·.conflict)).isSome && q.member t)

/-- Threads that may lead: not exited, halted, parked or commit-held (R176, R400). -/
def liveThreads (q : Quire) : List Nat :=
  (List.range q.th.length).filter fun t =>
    ((q.th[t]?).map fun x => x.alive && !x.p && !x.c).getD false && !abortDue q t

/-- A thread's field, or a default. -/
def thGet {α : Type} (q : Quire) (t : Nat) (d : α) (f : Thread → α) : α := ((q.th[t]?).map f).getD d

/-- The least of a non-empty list of addresses. -/
def minPc : List Nat → Nat
  | [] => 0
  | [x] => x
  | x :: xs => min x (minPc xs)

/-- LeadingSet (R176): the set, its depth and its PC. -/
def leadingSet (q : Quire) : Option (List Nat × Nat × DWord) :=
  let live := liveThreads q
  if live = [] then none
  else
    let d := live.foldl (fun m t => max m (thGet q t 0 (·.depth))) 0
    let at_ := live.filter fun t => thGet q t 0 (·.depth) == d
    let free0 := at_.filter fun t => thGet q t false fun x => some x.pc != x.mr && !x.y
    let free := if free0 = [] then at_ else free0
    let pc := minPc (free.map fun t => thGet q t 0 (·.pc.toNat))
    some (free.filter fun t => thGet q t 0 (·.pc.toNat) == pc, d, BitVec.ofNat 64 pc)

/-- Fetch the word at an address: a code fetch through route 0 (R16, R42), or at the home of an NC page (R14). -/
def fetchWord (s : State) (slot : Slot) (c pc : Nat) : State × Except Nat Nat :=
  let g := gathOf slot.core
  match xlate s { core := some slot.core, gath := some g } c pc .fetch with
  | (s1, .error r) => (faultRecord s1 c (whoSlot slot) pc r 2 0 (r == 0), .error r)
  | (s1, .ok p) =>
    let s2 := if p.nc then prepareNc s1 (some g) p.key p.loc 8 else prepareSpan s1 (some g) p.key p.loc 8
    (s2, .ok (bytesVal (readBytes s2 (some g) p.key p.loc 8)))

/-- Rally bookkeeping of one thread at the end of a rally (R177, R303). -/
def endThread (r : Rally) (yielded : Bool) (t : Nat) (th : Thread) : Thread :=
  if r.lead.contains t then
    if th.halt.isSome then { th with npc := none, exiting := false }
    else
      { th with
        pc := th.npc.getD r.next, xfer := th.npc.isSome && !th.p, npc := none, y := yielded, x := th.x || th.exiting
        exiting := false }
  else if th.depth == r.depth then { th with y := false }
  else th

/-- Quires of a folio on a core that have not exited: a copy's participants (R145). -/
def participants (s : State) (core fo : Nat) : List Quire :=
  s.quires.filter fun q => q.folio == fo && q.slot.core == core && q.notExited != []

/-- The tag number a tag event names: folio and tag. -/
def tagName (fo n : Nat) : Nat := fo * 64 + n

/-- Copies of a core whose every participant has contributed start (R145, R149); one whose slices differ ends at
once with MISMATCH (R146). -/
def startCopies (s : State) (core fo : Nat) : State :=
  match s.folio fo with
  | none => s
  | some x =>
    let ps := participants s core fo
    let ready (t : Tag) : Bool :=
      t.core == core && t.st == .collecting && ps.all fun q => t.slices.any fun z => z.qid == q.qid
    let odd := (x.tags.filter fun t => ready t && !t.match_).map fun t => Move.event (.copyComplete core (tagName fo t.num))
    (s.setFolio fo fun y =>
      { y with tags := updWhere ready (fun t => { t with st := .running, started := some s.cycle }) y.tags }).push odd

/-- The chain of a quire whose last thread has exited is closed, once every entry of it has completed (R382). -/
def closeGone (s : State) (slot : Slot) : State :=
  match s.quire slot with
  | some q => if q.notExited = [] then matRelease s q else s
  | none => s

/-- The end of a rally: the threads of the leading set take their PCs, Y is set and cleared, exited fragments
retire (R177, R303, R312, R431). -/
def endRally (s : State) (slot : Slot) (yielded : Bool) : State :=
  match s.quire slot with
  | none => s
  | some q =>
    match q.rally with
    | none => s
    | some r =>
      let gone := (r.lead.filterMap fun t => q.th[t]?).filterMap fun th => if th.exiting then th.frag else none
      let s1 := s.setQuire slot fun q =>
        { q with
          th := q.th.zipIdx.map fun e => endThread r yielded e.2 e.1
          rally := none, rallies := q.rallies + 1, ready := none }
      let s2 := gone.foldl retireFrag s1
      if r.lead.any fun t => thGet q t false (·.exiting) then
        -- the last thread's exit closes the held chain (R382)
        startCopies (closeGone s2 slot) slot.core q.folio
      else s2

/-- After a word: the rally goes on at the next word, or ends after its last word, or when no thread of its leading
set is left (R258, R400). -/
def advance (s : State) (cur : Cur) : State :=
  let s1 := s.setQuire cur.slot fun q =>
    { q with
      rally := q.rally.map fun r =>
        { r with
          next := cur.pc + 8, words := r.words + 1, begun := cur.began, sweep := cur.sweep, stall := cur.stall
          issues := cur.issues } }
  let none_ : Bool :=
    match s1.quire cur.slot with
    | some q => cur.lead.all fun t => thGet q t true fun x => !x.alive
    | none => true
  if cur.last || none_ then endRally s1 cur.slot cur.yielded else s1

/-- Destinations of a variable-latency word not yet waited on (R257), each with its value before the word; a discarded write to
p0 or q0 leaves none (R276). An entry without a counter is dropped once its result is written (DEDUCED, log 10); in a
deterministic launch, where no read may turn on that moment, it is kept (R192). -/
def registerVar (waits det : Bool) (q : Quire) (cur : Cur) : Quire :=
  match cur.dsts with
  | none => q
  | some _ =>
    let seq := q.seq
    let done := !waits && !(q.log.any fun e => e.seq == seq)
    let entries : List VarPend := (cur.was.filter fun e => cur.act.contains e.1).map fun e =>
      { t := e.1, vec := e.2.1, reg := e.2.2.1, seq := seq, ctr := cur.ctr, keep := det || cur.ctr.isSome, done := done
        old := some e.2.2.2 }
    { q with varp := (entries.filter fun v => !done || v.keep) ++ q.varp, seq := seq + 1 }

/-- What members of a region have written to registers outside their live masks is kept for the restore (R188). -/
def noteWrites (q : Quire) : Quire :=
  { q with
    th := q.th.map fun th =>
      { th with
        tryTh := th.tryTh.map fun y =>
          { y with
            seen := th.v
            wrote := y.wrote ++ (th.v.zipIdx.filter fun e => e.1 != y.seen.getD e.2 0 && !y.live.contains e.2).map fun e => (e.2, e.1) } } }

/-- The word has been executed: unless it is blocked, its rally moves on (R252, R303). -/
def finishWord (s : State) : State :=
  match s.cur with
  | none => s
  | some cur =>
    let waits (q : Quire) : Bool := s.passes.any fun p => p.appends.any fun a =>
      match a.slot with
      | some x => x.1 == cur.slot && x.2.1 == q.seq
      | none => false
    advance { (s.setQuire cur.slot fun q => noteWrites (registerVar (waits q) (rcDet (s.rcdOf cur.slot)) q cur)) with cur := none } cur

/-- A register's present value by its key: vector or scalar, 256 + k for predicate k. -/
def keyVal (q : Quire) (t : Nat) (vec : Bool) (reg : Nat) : Word :=
  if vec then
    if reg < 256 then ((q.th[t]?).bind fun th => th.v[reg]?).getD 0
    else BitVec.ofNat 32 (bit (thGet q t false fun th => th.pr.getLsbD (reg - 256)))
  else if reg < 256 then q.s.getD reg 0
  else BitVec.ofNat 32 (bit (q.q.getLsbD (reg - 256)))

/-- Register keys of operand blocks, read or written: a write to p0 or q0 is discarded and leaves no result (R276). -/
def opndKeys (l : List Opnd) (w : Bool) : List (Bool × Nat) :=
  ((l.filter fun o => o.write == w).flatMap fun o =>
    (List.range o.n).map fun i =>
      (o.file = .v || o.file = .p, o.reg + i + (if o.file = .v || o.file = .s then 0 else 256))).filter fun k => !w || k.2 != 256

/-- Fixed-latency results of a register that thread t cannot read yet at a cycle, newest first (R254). -/
def latePends (q : Quire) (t cyc : Nat) (k : Bool × Nat) : List FixPend :=
  q.fixp.filter fun p => p.vec == k.1 && p.reg == k.2 && (!p.vec || p.t == t) && cyc < p.ready

/-- The value a read returns before earlier writes are readable: each write is seen or not (R254); none where the newest is. -/
def lateVal : Option Word → List FixPend → Nat → Option Word × Nat
  | v, [], n => (v, n)
  | v, e :: es, n => if Config.choice n then (v, n + 1) else lateVal (some e.old) es (n + 1)

/-- The results of variable-latency words to a register that have been written and not waited on, newest first, each with
the value before it (R257). -/
def landed (q : Quire) (t : Nat) (k : Bool × Nat) : List Word :=
  (q.varp.filter fun p => p.done && p.vec == k.1 && p.reg == k.2 && (!p.vec || p.t == t)).filterMap (·.old)

/-- The value a read returns before such results have been waited on: the one before or the one written, per register (R257), and
whether one that was written is seen. -/
def landedVal : Option Word → List Word → Nat → Option Word × Bool × Nat
  | v, [], n => (v, false, n)
  | v, o :: os, n => if Config.choice n then (v, true, n + 1) else landedVal (some o) os (n + 1)

/-- The value a read of a register finds in its place, and the next free choice (R254, R257). In a deterministic launch it follows
no moment (R192, log 2): a result not waited on is not seen, and a fixed-latency result is. -/
def earlyVal (det : Bool) (q : Quire) (t cyc : Nat) (k : Bool × Nat) (n : Nat) : Option Word × Nat :=
  if det then ((landed q t k).getLast?, n)
  else
    let l := landedVal none (landed q t k) n
    if l.2.1 then (l.1, l.2.2) else lateVal l.1 (latePends q t cyc k) l.2.2

/-- Values that thread t reads in place of registers, by key (R254, R257). -/
def lateViews (det : Bool) (q : Quire) (t cyc : Nat) : List (Bool × Nat) → Nat → List (Nat × Bool × Nat × Word) × Nat
  | [], n => ([], n)
  | k :: ks, n =>
    let r := earlyVal det q t cyc k n
    let rest := lateViews det q t cyc ks r.2
    (match r.1 with
      | some v => (t, k.1, k.2, v) :: rest.1
      | none => rest.1, rest.2)

/-- Whether a register is the destination of a variable-latency word not yet waited on (R257). -/
def varPending (q : Quire) (t : Nat) (k : Bool × Nat) : Bool :=
  q.varp.any fun p => p.vec == k.1 && p.reg == k.2 && (!p.vec || p.t == t)

/-- Whether it is one whose word has not completed (R257); in a deterministic launch completion is known by the wait alone (R192,
log 2). -/
def varRunning (det : Bool) (q : Quire) (t : Nat) (k : Bool × Nat) : Bool :=
  q.varp.any fun p => p.vec == k.1 && p.reg == k.2 && (!p.vec || p.t == t) && (det || !p.done)

/-- The choice of active threads as it proceeds over the leading set (R172, R252, R254, R257). -/
structure Pick where
  fresh : Nat
  last : Option Nat
  issues : List (Nat × Nat)
  view : List (Nat × Bool × Nat × Word)
  /-- active threads with the strands that act for them -/
  act : List (Nat × List Strand)
  traps : List Trapped
  deriving DecidableEq, Repr

/-- What issue knows of the word and its rally. -/
structure IssueCtx where
  q : Quire
  /-- the one thread whose vector registers the word touches, if it touches one thread's (R321, R322) -/
  lane : Option Nat
  /-- the word touches the vector registers of the lowest active thread alone (R321) -/
  lowest : Bool
  w : WordInfo
  base : Nat
  stallPrev : Nat
  issuesPrev : List (Nat × Nat)
  spacing : Nat
  check : Bool
  /-- a deterministic launch (R192) -/
  det : Bool
  deriving DecidableEq, Repr

/-- The guard's register key, if it reads one. -/
def guardKeys (x : Strand) : List (Bool × Nat) := if x.guard = 0 then [] else [(true, 256 + x.guard)]

/-- A strand's guard for a thread, under views (R242). -/
def guardTrue (q : Quire) (view : List (Nat × Bool × Nat × Word)) (t : Nat) (x : Strand) : Bool :=
  let v := if x.guard = 0 then true
           else
             match view.find? fun e => e.1 == t && e.2.1 && e.2.2.1 == 256 + x.guard with
             | some e => e.2.2.2 != 0
             | none => keyVal q t true (256 + x.guard) != 0
  v != x.neg

/-- A helper takes no part in a word that writes memory or images (a TRY's checkpoint and a COMMIT's stores among them), appends to a
list, enters or leaves a section, or makes a copy slice (R428). -/
def helperIdle (op : Option Nat) (helper : Bool) : Bool :=
  helper && (op.map fun k =>
    k ∈ [0x0E0, 0x0E1, 0x102, 0x103, 0x10A, 0x10B, 0x112, 0x113, 0x11A, 0x11B, 0x121, 0x123, 0x148, 0x14A, 0x15C, 0x15D, 0x1B1, 0x1B2, 0x1C0,
      0x1C1, 0x1C2, 0x1D0, 0x1D1]
      || (0x140 ≤ k && k ≤ 0x147) || (0x1A0 ≤ k && k ≤ 0x1A9)).getD false

/-- Whether a word of one thread's registers touches thread t's, `first` being whether no lower thread is active (R321, R322). -/
def laneTouches (c : IssueCtx) (first : Bool) (t : Nat) : Bool :=
  (c.lane.map fun n => n == t).getD true && (!c.lowest || first)

/-- The earliest cycle at which the previous word lets a thread issue this one (R252). -/
def afterPrev (c : IssueCtx) (t : Nat) : Nat := ((c.issuesPrev.find? fun e => e.1 == t).map fun e => e.2 + c.stallPrev).getD 0

/-- One thread of the leading set: its issue cycle (one for a word that issues once, R252), its guards, the registers it would
read too early. -/
def pickThread (c : IssueCtx) (p : Pick) (t : Nat) : Pick :=
  let lastC := if c.w.uni then 0 else (p.last.map (· + c.spacing)).getD 0
  let prev := if c.w.uni then c.issuesPrev.foldl (fun m e => max m (e.2 + c.stallPrev)) 0 else afterPrev c t
  let cyc := max c.base (max prev lastC)
  let gk := c.w.strands.flatMap guardKeys
  if c.check && gk.any fun k => latePends c.q t cyc k != [] then
    { p with traps := p.traps ++ [⟨t, 0x05, 0, 0⟩] }
  else if c.check && gk.any fun k => varPending c.q t k then
    { p with traps := p.traps ++ [⟨t, 0x06, 0, 0⟩] }
  else
    let gv := lateViews c.det c.q t cyc gk p.fresh
    let idle := helperIdle c.w.op (thGet c.q t false fun x => (x.frag.map (·.helper)).getD false)
    let on := if idle then [] else c.w.strands.filter (guardTrue c.q gv.1 t)
    if on = [] then { p with fresh := gv.2 }
    else
      let mine := laneTouches c (p.act.isEmpty && p.traps.isEmpty) t
      let os := (on.flatMap (·.opnds)).filter fun o => mine || o.file != .v
      let rk := (opndKeys os false).dedup
      if c.check && rk.any fun k => latePends c.q t cyc k != [] then
        { p with fresh := gv.2, traps := p.traps ++ [⟨t, 0x05, 0, 0⟩] }
      else if c.check && (rk.any (varPending c.q t) || (opndKeys os true).any (varRunning c.det c.q t)) then
        { p with fresh := gv.2, traps := p.traps ++ [⟨t, 0x06, 0, 0⟩] }
      else
        let rv := lateViews c.det c.q t cyc rk gv.2
        { fresh := rv.2, last := some cyc, issues := p.issues ++ [(t, cyc)], view := p.view ++ gv.1 ++ rv.1
          act := p.act ++ [(t, on)], traps := p.traps }

/-- Fixed-latency results on their way after this word (R251). -/
def fixEntries (q : Quire) (uni : Bool) (p : Pick) (lane : Option Nat) : List FixPend :=
  (if uni then p.act.take 1 else p.act.filter fun e => (lane.map fun n => n == e.1).getD true).flatMap fun e =>
    e.2.flatMap fun x =>
      match x.lat with
      | none => []
      | some l =>
        let cyc := ((p.issues.find? fun i => i.1 == e.1).map (·.2)).getD 0
        (opndKeys x.opnds true).map fun k =>
          { t := e.1, vec := k.1, reg := k.2, old := keyVal q e.1 k.1 k.2, ready := cyc + l }

/-- A word writes a register of thread t: that of each active thread, or of the one `WRLANE` names. -/
def wordWrites (p : Pick) (lane : Option Nat) (t : Nat) (vec : Bool) (reg : Nat) : Bool :=
  p.act.any fun e => (!vec || lane.getD e.1 == t) && (opndKeys (e.2.flatMap (·.opnds)) true).contains (vec, reg)

/-- Earlier fixed-latency results after a word: writes take effect in program order, so one whose register the word writes is
readable no later than the word's own result, which a word of no fixed latency that is not variable writes at once (R255). -/
def fixAfter (p : Pick) (lane : Option Nat) (varies : Bool) (new old : List FixPend) : List FixPend :=
  old.filterMap fun e =>
    match new.find? fun f => f.vec == e.vec && f.reg == e.reg && (!e.vec || f.t == e.t) with
    | some f => some { e with ready := min e.ready f.ready }
    | none => if !varies && wordWrites p lane e.t e.vec e.reg then none else some e

/-- A `Cur` for a word that waits before it has active threads. -/
def idleCur (slot : Slot) (pc : DWord) (lead : List Nat) : Cur :=
  { slot := slot, pc := pc, lead := lead, act := [], issues := [], view := [], lazy := false, last := false
    yielded := false, prog := [], began := 0, sweep := 0, stall := 0, dsts := none, ctr := none, was := [] }

/-- The rally of a slot ends at once when none of its leading set is left (R400). -/
def afterTrap (s : State) (slot : Slot) : State :=
  match s.quire slot with
  | none => s
  | some q =>
    match q.rally with
    | none => s
    | some r => if r.lead.all fun t => thGet q t true fun x => !x.alive then endRally s slot false else s

/-- A trap of the whole leading set at a word, before it has any effect (R261). -/
def trapLead (s : State) (slot : Slot) (pc : DWord) (lead : List Nat) (code reason va : Nat) : State :=
  afterTrap (takeTrap s slot pc code lead 0 reason va) slot

/-- The thread that CLS and B of `RDLANE` and `WRLANE` name (R321, R322). -/
def laneNamed (q : Quire) (f : Full) : Option Nat :=
  if f.cls = 0 then some f.b.toNat
  else if f.cls = 1 then some ((q.s.getD f.b.toNat 0).toNat % max 1 q.w)
  else none

/-- The thread whose register `WRLANE` writes (R322). -/
def wrlaneOf (q : Quire) (x : WordParts) : Option Nat :=
  match x with
  | .form 0x0D9 _ (.full f) => laneNamed q f
  | _ => none

/-- The thread whose register `RDLANE` reads, unless it is the lowest active one (R321). -/
def rdlaneOf (q : Quire) (x : WordParts) : Option Nat :=
  match x with
  | .form 0x0D8 _ (.full f) => laneNamed q f
  | _ => none

/-- The thread and register that `RDLANE` reads, when it names the thread (R321). -/
def rdlaneExtra (q : Quire) (x : WordParts) : List (Nat × Nat) :=
  match x with
  | .form 0x0D8 _ (.full f) => (laneNamed q f).toList.map fun n => (n, f.a.toNat)
  | _ => []

/-- The results waited on by a rally head's wait mask have been waited on (R242, R257). -/
def waitHead (q : Quire) (mask : Nat) : Quire :=
  { q with varp := q.varp.filter fun p => !((p.ctr.map fun k => mask.testBit k).getD false && p.done) }

/-- The quire waits at its fetch or its issue. -/
def holdWord (s : State) (slot : Slot) (pc : DWord) (lead : List Nat) (why : Why) : State :=
  let prog := ((s.quire slot).bind fun q => q.wait.map fun x => x.cur.prog).getD []
  let s1 := blockCur s { idleCur slot pc lead with prog := prog } why 0
    { d := 0, a := 0, b := 0, c := 0, sa := false, sb := false, sc := false, u := false, csel := 0, cen := false, cls := 0 }
  { s1 with cycle := s1.cycle + 1 }

/-- The quire waits at the fetch of its next word (R42). A rally that has issued no word is not held: its slot is ready again when
the page is valid and its head's wait mask is met (R212, R256). -/
def holdFetch (s : State) (slot : Slot) (pc : DWord) (lead : List Nat) : State :=
  let fresh := ((s.quire slot).bind fun q => q.rally.map fun r => r.words == 0 && (q.wait.map fun x => x.cur.prog == []).getD true).getD false
  let s1 := holdWord s slot pc lead .fetch
  if fresh then s1.setQuire slot fun q => { q with rally := none, ready := none } else s1

/-- A matrix word at issue: beside what its fields name, it reads the scale after the A row and the C row, whose size the format
word of its lowest active thread gives (R377, R379, R381), and none of the A block where the latch holds it (R383). -/
def matInfo (q : Quire) (lead : List Nat) (x : WordParts) (w : WordInfo) : WordInfo :=
  match x with
  | .form op _ (.mat f) =>
    let t := (lead.find? fun t => w.strands.any (guardTrue q [] t)).getD (lead.headD 0)
    let fm := if f.sf then (q.s.getD f.f.toNat 0).toNat else ((q.th[t]?).bind fun th => th.v[f.f.toNat]?).elim 0 (·.toNat)
    if fmtOk (matMmas op) fm = false then w
    else
      let a := f.a.toNat
      let latched := (q.latch.map fun l => l.a == a).getD false
      let more : List Opnd :=
        (if scaleA (matMmas op) fm && !latched then [⟨.v, a + 8, 1, false⟩] else [])
          ++ [⟨.v, f.c.toNat, rowRegs (matN op) (fmO fm), false⟩]
      { w with
        strands := w.strands.map fun z =>
          { z with opnds := (z.opnds.filter fun o => !(latched && o.file == .v && o.reg == a && o.n == 8)) ++ more } }
  | _ => w

/-- The values of a variable-latency word's destinations before it, for its active threads (R257); in a deterministic launch a
result not waited on is not among them (R192). -/
def wasVals (det : Bool) (q : Quire) (p : Pick) : List (Nat × Bool × Nat × Word) :=
  p.act.flatMap fun e => (opndKeys (e.2.flatMap (·.opnds)) true).map fun k =>
    (e.1, k.1, k.2, (if det then (landed q e.1 k).getLast? else none).getD (keyVal q e.1 k.1 k.2))

/-- A register written by a later word has no value before the earlier result any more (R257). -/
def overwrite (p : Pick) (lane : Option Nat) (l : List VarPend) : List VarPend :=
  (l.map fun v => if wordWrites p lane v.t v.vec v.reg then { v with old := none } else v).filter fun v =>
    !(v.old.isNone && v.done && v.ctr.isNone)

/-- Write a register by its key. -/
def setKey (q : Quire) (t : Nat) (vec : Bool) (reg : Nat) (x : Word) : Quire :=
  if vec then (if reg < 256 then q.putV t reg 1 x.toNat else q.putP t (reg - 256) (x != 0))
  else if reg < 256 then q.putS reg 1 x.toNat
  else q.putQ (reg - 256) (x != 0)

/-- Destinations of a word that has not completed which a later word has written (R257). -/
def lateDests (q : Quire) (seq : Nat) : List VarPend := q.varp.filter fun v => v.seq == seq && v.old.isNone && !v.done

/-- A result lands, `q` being the quire before and `r` with it: in a register that a later word has written, one of the two values
is left (R257), in a deterministic launch the later word's (R192, log 2). -/
def landResult (det : Bool) (n seq : Nat) (q r : Quire) : Quire :=
  (lateDests q seq).zipIdx.foldl (fun r e =>
    if det || Config.choice (n + e.2) then setKey r e.1.t e.1.vec e.1.reg (keyVal q e.1.t e.1.vec e.1.reg) else r) r

/-- A result of a quire's word lands (R257). -/
def landIn (s : State) (slot : Slot) (seq : Nat) (res : Quire → Quire) : State :=
  let n := ((s.quire slot).map fun q => (lateDests q seq).length).getD 0
  let s1 := s.setQuire slot fun q => landResult (rcDet (s.rcdOf slot)) s.fresh seq q (res q)
  if n = 0 then s1 else { s1 with fresh := s1.fresh + n }

/-- Issue a decoded word to the leading set: guards, issue cycles, early reads, and the word's `Cur` (R172, R252 to
R257). A word that has waited issues no earlier than now. -/
def pickWord (s : State) (slot : Slot) (q : Quire) (r : Rally) (x : WordParts) (w0 : WordInfo)
    (lead : List Nat) (lazy : Bool) : State × Option WordParts :=
  let w := matInfo q lead x w0
  let maxReady := q.fixp.foldl (fun m p => max m p.ready) 0
  let cross := (w.op.map isCross).getD false
  let next := r.begun + max r.stall r.sweep
  let base0 := if r.words = 0 then max s.cycle maxReady else if q.wait.isSome then max s.cycle next else next
  let base := if cross then max base0 maxReady else base0
  let sp := max (readCycles w) (wordPeriod w)
  let rcd := s.rcdOf slot
  let check := rcCheck rcd
  let det := rcDet rcd
  let c : IssueCtx :=
    { q := q, w := w, lane := (wrlaneOf q x).or (rdlaneOf q x), lowest := w.op == some 0x0D8 && (rdlaneOf q x).isNone
      base := base, stallPrev := if r.words = 0 then 0 else r.stall
      issuesPrev := if r.words = 0 then [] else r.issues, spacing := sp, check := check, det := det }
  let p0 := lead.foldl (pickThread c)
    { fresh := s.fresh, last := none, issues := [], view := [], act := [], traps := [] }
  -- a thread that RDLANE names need not be active: its register is read in the same way (R315, R257)
  let named := if p0.act = [] then [] else (rdlaneExtra q x).filter fun e => !(p0.act.any fun z => z.1 == e.1)
  let nv := named.foldl (fun (v : List (Nat × Bool × Nat × Word) × Nat) e =>
    let r := lateViews det q e.1 (p0.last.getD base) [(true, e.2)] v.2
    (v.1 ++ r.1, r.2)) ([], p0.fresh)
  let p : Pick := { p0 with view := p0.view ++ nv.1, fresh := nv.2 }
  let extra := named.filter fun e => check && varPending q e.1 (true, e.2) && !(p.traps.any fun z => z.t == e.1)
  let traps := p.traps ++ extra.map fun e => ⟨e.1, 0x06, 0, 0⟩
  let act := if cross ∧ traps ≠ [] then [] else p.act.map (·.1)
  let began := ((p.issues.head?).map (·.2)).getD (max base (if w.uni then 0 else afterPrev c (lead.headD 0)))
  let lastC := (p.last).getD base
  let sweep := if p.act = [] then 0 else if w.uni then sp else lastC - began + sp
  let varies := (w.op.map timingOf) = some .variable
  let cur : Cur :=
    { slot := slot, pc := r.next, lead := lead, act := act, issues := if w.uni then [] else p.issues, view := p.view
      lazy := lazy, last := w.last, yielded := false
      prog := match q.wait with | some x => x.cur.prog | none => []
      began := began, sweep := sweep, stall := if r.words = 0 then wordLatency w else w.stall
      dsts := if varies then some ((w.strands.flatMap (·.opnds)).filter fun o => o.write) else none
      ctr := w.ctr, was := if varies then wasVals det q p else [] }
  let strands := p.act.flatMap (·.2)
  let matrix := (w.op.map fun op => decide (0x180 ≤ op) && decide (op < 0x1A0)).getD false
  let vr (b : Bool) : List Nat := vecRegs (strands.flatMap (·.opnds)) b
  if !matrix && matStall s q (vr false ++ vr true) then (holdWord (matRelease s q) slot r.next lead .again, none)
  else
    let s1 := takeTraps { s with fresh := p.fresh } slot r.next traps
    let new := fixEntries q w.uni p (wrlaneOf q x)
    let s2 := s1.setQuire slot fun y =>
      { y with
        wait := none, fixp := new ++ fixAfter p (wrlaneOf q x) varies new (y.fixp.filter fun e => base < e.ready)
        varp := overwrite p (wrlaneOf q x) y.varp
        latch := y.latch.filter fun l => matrix || !((vr true).any fun k => decide (l.a ≤ k) && decide (k < l.a + 9)) }
    ({ s2 with cur := some cur, cycle := max s2.cycle began }, some x)

/-- Whether the target of a transfer, other than the kernel entry, begins a rally: the word before it is fetched and has B = 1
(R259). An error is a NOT_VALID fault on it. The word at the target has been fetched first: its own fault comes first (R302,
log 29). -/
def headCheck (s : State) (slot : Slot) (q : Quire) (r : Rally) (lead : List Nat) : State × Except Nat Bool :=
  if r.words = 0 ∧ r.next.toNat ≠ rcCode (s.rcdOf slot) ∧ lead.any fun t => thGet q t false (·.xfer) then
    match fetchWord s slot q.ctx (r.next - 8).toNat with
    | (s1, .error 0) => (s1, .error 0)
    | (s1, .error _) => (s1, .ok false)
    | (s1, .ok x) => (s1, .ok (x.testBit 63))
  else (s, .ok true)

/-- Checks and issue of a word that has been fetched, in the order of R261 (R259, R261, R256, R405). -/
def checkWord (s : State) (slot : Slot) (q : Quire) (r : Rally) (lead : List Nat) (lazy : Bool) (x : Nat) :
    State × Option WordParts :=
  match readWord (BitVec.ofNat 64 x) with
  | .error .illegalOpcode => (trapLead s slot r.next lead 0x01 0 0, none)
  | .error .illegalEncoding => (trapLead s slot r.next lead 0x02 0 0, none)
  | .error .pairBank => (trapLead s slot r.next lead (if pairBeyond q x then 0x02 else 0x03) 0 0, none)
  | .ok i =>
    let w := wordInfo (fifoBytes (s.rcdOf slot) / 4) i
    let kind := w.op.map timingOf
    let fo := s.folioOf slot
    if dynOk q (s.rcdOf slot) ((fo.map (·.stage)).getD .compute) ((fo.map fun f => f.pass != 0).getD false) w i = false then (trapLead s slot r.next lead 0x02 0 0, none)
    else if r.words = 24 ∨ (kind = some .control ∧ w.last = false) then (trapLead s slot r.next lead 0x04 0 0, none)
    else
      match headCheck s slot q r lead with
      | (s1, .error _) => (holdFetch s1 slot r.next lead, none)
      | (s1, .ok false) => (trapLead s1 slot r.next lead 0x04 0 0, none)
      | (s1, .ok true) =>
        match s1.quire slot with
        | none => (s1, none)
        | some q =>
        if kind = some .variable ∧ (w.ctr.map fun k => q.ctr.getD k 0 == 63).getD false then
          (holdWord s1 slot r.next lead .again, none)
        else if (w.op.map isLogged).getD false ∧ 8 ≤ q.log.length then (holdWord s1 slot r.next lead .again, none)
        else
          let q1 := if r.words = 0 then waitHead q w.stall else q
          pickWord (s1.setQuire slot fun _ => q1) slot q1 r i w lead lazy

/-- Issue the next word of a quire's running rally: the fetch and the checks before it (R42, R258, R259). The state
holds the word in `cur` when an instruction is to be executed. -/
def issueWord (s : State) (slot : Slot) (lazy : Bool) : State × Option WordParts :=
  match s.quire slot with
  | none => (s, none)
  | some q =>
    match q.rally with
    | none => (s, none)
    | some r =>
      let lead := r.lead.filter fun t => thGet q t false (·.alive)
      if (s.ctx q.ctx).dead ∨ (q.wait.map fun w => w.why != .again && w.why != .fetch).getD false then (s, none)
      else if lead = [] then (endRally s slot false, none)
      else
        match fetchWord s slot q.ctx r.next.toNat with
        | (s1, .error 0) => (holdFetch s1 slot r.next lead, none)
        | (s1, .error e) => (trapLead s1 slot r.next lead (reasonTrap e) e r.next.toNat, none)
        | (s1, .ok x) => checkWord s1 slot q r lead lazy x

/-- A blocked word is taken up again: its `Cur` is restored, its issue counted from now (R251). -/
def takeUp (s : State) (slot : Slot) : Option (State × Wait) :=
  match (s.quire slot).bind (·.wait) with
  | none => none
  | some w =>
    some
      ({ (s.setQuire slot fun q => { q with wait := none }) with
          cur := some { w.cur with began := s.cycle } }, w)

/-- A quire blocked in a word for reason `why` takes it up, runs `body`, and the word ends unless it blocks again. -/
def releaseWord (slot : Slot) (why : Why) (body : Wait → State → Cur → State) (s : State) :
    Host.Outcome State Fault Refusal :=
  match (s.quire slot).bind (·.wait) with
  | none => .next s
  | some w0 =>
    if w0.why = why then
      match takeUp s slot with
      | none => .next s
      | some (s1, w) =>
        match s1.cur with
        | none => .next s1
        | some cur => .next (finishWord (body w s1 cur))
    else .next s

end Sys2Proof.Machine
end

