-- ==== Sys2Proof/Machine/Access.lean ====
section
/-! DEFINITION. Lane accesses: the operand log (R405, R406), translation and its faults (R337, R41, R42), and the
moment at which each access is performed (R106, R109, R118, R130). -/

namespace Sys2Proof.Machine

/-- The permission an opcode's accesses need (R32). -/
def opKind (op : Nat) : XKind := if opAtomic op then .atomic else if opWrites op then .write else .read

/-- The AKIND of an opcode's accesses (R42). -/
def opAkind (op : Nat) : Nat :=
  if opSpace op = .priv then 3 else if opKind op = .read then 0 else 1

/-- The route of an access (R16): that of IMST to a swizzled image, which its operands mark, is 3. -/
def opRoute (op : Nat) (a : Acc) : Nat :=
  match opSpace op with
  | .const => 1
  | .image => if opImst op then (if a.args = [1] then 3 else 0) else 2
  | .tile => 3
  | _ => 0

/-- Locations that are not physical: scratchpad, slices, and pages that are not valid, kept apart. -/
def scratchLoc (o : Nat) : Loc := 2 ^ 72 + o
def sliceLoc (o : Nat) : Loc := 2 ^ 73 + o
def parkedLoc (va : Nat) : Loc := 2 ^ 74 + va

/-- The wait class of a scope in a folio: 0 Local, 1 Device, 2 Fabric, 3 System (R111, R113). -/
def waitClass (fo : Option Folio) (scope : Nat) : Nat :=
  match scope with
  | 2 => if ((fo.map fun f => (folioGaths f).length).getD 1) ≤ 1 then 0 else 1
  | 4 => 1
  | 5 => 2
  | 6 => 3
  | _ => 0

/-- Threads of a quire made a posted write. -/
def postedBy (q : Quire) (ts : List Nat) (m : Msg) : Bool :=
  match m.kind with
  | .posted _ _ p => match p.who with
    | some w => w.1 == q.folio && w.2.1 == q.qid && w.2.2.any ts.contains
    | none => false
  | _ => false

/-- A posted write that a wait class of threads of a quire waits for: their own to a peer window, for Fabric; their own, and on a
host without CXL.cache every earlier one to host memory, for System (R113, R135). -/
def classPosted (s : State) (q : Option Quire) (ts : List Nat) (cls : Nat) (m : Msg) : Bool :=
  let own : Bool := (q.map fun q => postedBy q ts m).getD false
  (own && (cls == 3 || isPeer (m.line * 128))) || (cls == 3 && !s.hostCache && isHost (m.line * 128))

/-- What a release part of threads of a quire waits for at a wait class, done at one moment: the drain of the gathering, and posted
writes (R113, R115 conditions 2 and 3). -/
def drainClass (s : State) (slot : Slot) (ts : List Nat) (cls : Nat) : State :=
  if cls = 0 then s
  else
    let s1 := drainGath s (gathOf slot.core)
    if cls = 1 then s1 else performRuns s1 (classPosted s (s.quire slot) ts cls)

/-- The abort value of FAULT (R189). -/
def faultVal (reason : Nat) : Nat := reason * 2 ^ 24 + reasonTrap reason * 2 ^ 16 + 5

/-- Why an access was not made: a trap with its reason, or none where the thread aborts or the access parks. -/
structure Placed where
  acc : Option Acc
  trap : Option (Nat × Nat)
  /-- the faulting address or offset of the trap (R402) -/
  va : Nat := 0
  deriving DecidableEq, Repr

/-- Members among threads abort with FAULT (R187, R189). -/
def abortFault (s : State) (slot : Slot) (ts : List Nat) (reason : Nat) : State :=
  s.setQuire slot fun q => ts.foldl (fun q t => if q.member t then abortThread q t 5 (faultVal reason) else q) q

/-- The effect of a fault of one access for the threads it stands for (R40, R41, R42): members abort, a page that is
not valid parks the access, any other fault traps. -/
def faultAcc (s : State) (slot : Slot) (c : Nat) (a : Acc) (who : List Nat) (akind route va r : Nat) : State × Placed :=
  -- a parked access was issued by no member of a region (R185)
  let member := a.st != .parked && ((s.quire slot).map fun q => who.any q.member).getD false
  if member then
    (faultRecord (abortFault s slot who r) c (whoSlot slot) va r akind route false, { acc := none, trap := none })
  else if r = 0 then
    (faultRecord s c (whoSlot slot) va r akind route true,
      { acc := some { a with loc := parkedLoc a.va, st := .parked }, trap := none })
  else
    (faultRecord s c (whoSlot slot) va r akind route false, { acc := none, trap := some (reasonTrap r, r), va := va })

/-- Translate one access of a quire at its issue (R337 step 3, R41, R42); a region's store to an NC page or a window
line traps (R186). -/
def placeAcc (s : State) (slot : Slot) (c op : Nat) (a : Acc) (who : List Nat) : State × Placed :=
  match xlate s { core := some slot.core, gath := some (gathOf slot.core) } c a.va (opKind op) with
  | (s1, .ok p) =>
    let member := a.st != .parked && ((s.quire slot).map fun q => who.any q.member).getD false
    if member ∧ opStore op ∧ (p.nc ∨ (winFind s1 p.loc).isSome) then (s1, { acc := none, trap := some (0x28, 0) })
    else
      (s1, { acc := some { a with loc := p.loc, key := p.key, nc := p.nc, st := .waiting, inTry := member && opSpace op == .generic }
             trap := none })
  | (s1, .error r) => faultAcc s1 slot c a who (opAkind op) (opRoute op a) a.va r

/-- A 128-bit access is two accesses of 8 bytes, without order between them (R105, R338). -/
def splitAcc (a : Acc) : List Acc :=
  if a.len = 16 ∧ a.st = .waiting then
    [{ a with len := 8, data := a.data % 2 ^ 64 },
     { a with piece := 1, va := a.va + 8, loc := a.loc + 8, len := 8, data := a.data / 2 ^ 64 }]
  else [a]

/-- The value a load writes, by its size code (R336). -/
def loadVal (cls x : Nat) : Nat := if cls = 5 then signExt 8 32 x else if cls = 6 then signExt 16 32 x else x

/-- A result is written unless its thread has exited (R312). -/
def putResult (q : Quire) (uni : Bool) (t d n x : Nat) : Quire :=
  if uni then q.putS d n x
  else if ((q.th[t]?).map (·.x)).getD true then q
  else q.putV t d n x

/-- The new value of a unit under an atomic, none for a compare-and-swap that fails (R347). -/
def atomNew (op : Nat) (f : Full) (old : Nat) (args : List Nat) : Option Nat :=
  let cls := f.cls.toNat
  let w := if op ∈ [0x141, 0x144, 0x146] then (if cls / 8 = 1 then 64 else 32) else if bitOf cls 4 then 64 else 32
  let b := args.headD 0
  if op = 0x142 ∨ op = 0x147 then (if old = b then some (args.getD 1 0) else none)
  else if op ∈ [0x141, 0x144, 0x146] then
    let g (m : Fmt) (x y : Nat) : Nat :=
      match cls % 8 with
      | 0 => fpOp2 m false 0 (fpAdd 0) x y
      | 1 => fpOp2 m false 0 (fpMinMax false false) x y
      | 2 => fpOp2 m false 0 (fpMinMax true false) x y
      | 3 => fpOp2 m false 0 (fpMinMax false true) x y
      | _ => fpOp2 m false 0 (fpMinMax true true) x y
    some
      (match cls / 8 with
        | 0 => g fp32 old b
        | 1 => g fp64 old b
        | 2 => g fp16 (old % 65536) (b % 65536) + 65536 * g fp16 (old / 65536) (b / 65536)
        | _ => g bf16 (old % 65536) (b % 65536) + 65536 * g bf16 (old / 65536) (b / 65536))
  else
    let rd (x : Nat) : Int := if bitOf cls 3 then (x : Int) else sInt w x
    some
      (match cls % 8 with
        | 0 => (old + b) % 2 ^ w
        | 1 => if rd b < rd old then b else old
        | 2 => if rd old < rd b then b else old
        | 3 => old &&& b
        | 4 => old ||| b
        | 5 => old ^^^ b
        | _ => b)

/-- Registers of an atomic's operand. -/
def atomRegs (op : Nat) (f : Full) : Nat :=
  if op ∈ [0x141, 0x144, 0x146] then (if f.cls.toNat / 8 = 1 then 2 else 1) else if bitOf f.cls.toNat 4 then 2 else 1

/-- An atomic's result in D; RED has none. -/
def atomPut (q : Quire) (e : LogEntry) (a : Acc) (old : Nat) : Quire :=
  if e.op = 0x143 ∨ e.op = 0x144 then q else putResult q e.uni a.t e.f.d.toNat (atomRegs e.op e.f) old

/-- The gathering's token state allows a read of the line: at least one token and valid data (R77). -/
def canRead (s : State) (g line : Nat) : Bool := (heldOf s g line).tok != 0 && (heldOf s g line).valid

/-- A store of member a.t goes to the speculation buffer (R185): ranges recorded by `.chk` abort the thread with ALIAS; too
many entries abort the quire with OVERFLOW (R187). -/
def regionStore (s : State) (slot : Slot) (a : Acc) : State :=
  let g := gathOf slot.core
  let used := (s.quires.filter fun x => gathOf x.slot.core == g).foldl
    (fun n x => n + ((x.region.map fun r => r.entries.length).getD 0)) 0
  s.setQuire slot fun q =>
    match q.region with
    | none => q
    | some r =>
      let age := r.buf.length
      let sec := a.loc / 32
      let fresh := !(r.entries.contains (a.t, sec))
      let r1 : Region :=
        { r with
          buf := r.buf ++ (cellsAt a.loc (bytesOf a.len a.data)).zipIdx.map fun e => (a.t, age + e.2, e.1.1, e.1.2, a.key)
          entries := if fresh then (a.t, sec) :: r.entries else r.entries }
      let q1 := joinSet { q with region := some r1 } (lineOf a.loc) true
      let q2 := if fresh ∧ (128 < r1.entries.length ∨ 512 ≤ used) then strikeRegion q1 3 else q1
      let hitsChk := ((q.th[a.t]?).bind (·.tryTh)).map fun y => y.chk.any fun c => overlaps c.1 c.2 a.loc a.len
      if hitsChk = some true then abortThread q2 a.t 4 4 else q2

/-- Read bytes of a folio's scratchpad: its own banks, or its window lines in mapped mode (R18, R20, R21). -/
def scratchRead (s : State) (fo o n : Nat) : List Byte :=
  match s.folio fo with
  | none => []
  | some x => memGetN x.scr o n

/-- Write bytes of a folio's scratchpad; a window line becomes dirty (R23), and a region that read it aborts (R130). -/
def scratchCells (s : State) (q : Option Slot) (fo : Nat) (cells : List (Nat × Byte)) : State :=
  match s.folio fo with
  | none => s
  | some x =>
    if x.win = [] then s.setFolio fo fun y => { y with scr := memSetAll y.scr cells }
    else cells.foldl (fun s c =>
      match winLine s fo c.1 with
      | some (_, e) => winWrite (lineStrikes s e.pl q) fo c.1 c.2
      | none => s) s

/-- Write consecutive bytes. -/
def scratchWrite (s : State) (fo o : Nat) (bs : List Byte) : State := scratchCells s none fo (cellsAt o bs)

/-- Fill the window line that holds a scratchpad offset under the key of its page, in mapped mode (R21, R23, R32). -/
def scratchFill (s : State) (fo o : Nat) : State :=
  match winLine s fo o with
  | some (_, e) => winFill s fo o e.pkey
  | none => s

/-- Read bytes of a private slice. -/
def sliceRead (q : Quire) (t o n : Nat) : List Byte :=
  ((q.th[t]?).map fun th => (List.range n).map fun i => th.slice.getD (o + i) 0).getD []

/-- Write bytes of a private slice. -/
def sliceWrite (q : Quire) (t o : Nat) (bs : List Byte) : Quire :=
  q.setTh t fun th => { th with slice := (cellsAt o bs).foldl (fun l c => l.set c.1 c.2) th.slice }

/-- An access has been performed: its result goes to D, and it is done (R257). -/
def accDone (s : State) (slot : Slot) (e : LogEntry) (a : Acc) (res : Quire → Quire) : State :=
  landIn s slot e.seq fun q => res { q with log := logPut e.seq a (fun y => { y with st := .done }) q.log }

/-- A load's result; each half of a 128-bit load writes its own pair (R105). -/
def loadDone (s : State) (slot : Slot) (e : LogEntry) (a : Acc) (x : Nat) : State :=
  let cls := e.f.cls.toNat
  accDone s slot e a fun q =>
    putResult q e.uni a.t (e.f.d.toNat + 2 * a.piece) (if cls % 8 = 4 then 2 else sizeRegs cls) (loadVal cls x)

/-- A `.chk` load of a member records its bytes when its first half is bound (R185). -/
def noteChk (s : State) (slot : Slot) (e : LogEntry) (a : Acc) : State :=
  if e.op = 0x104 then
    s.setQuire slot fun q =>
      if tryAcc q e a && !(e.acc.any fun b => b.t == a.t && b.piece != a.piece && b.st == .done) then
        recordChk q a.t (a.loc - 8 * a.piece) (if e.f.cls.toNat % 8 = 4 then 16 else a.len)
      else q
  else s

/-- Who posts the write of an access. -/
def accPoster (q : Quire) (e : LogEntry) (a : Acc) : Poster :=
  { ctx := q.ctx, route := opRoute e.op a, who := some (q.folio, q.qid, accThreads e a), add := none }

/-- A read of a byte that its own thread has posted is bound after that write is performed (R114); `spans` are the bytes read. -/
def settleOwn (s : State) (q : Quire) (ts : List Nat) (spans : List (Nat × Loc × Nat)) : State :=
  performRuns s fun m => postedBy q ts m && match m.kind with
    | .posted data _ _ => data.any fun c => spans.any fun p => decide (p.2.1 ≤ c.1) && decide (c.1 < p.2.1 + p.2.2)
    | _ => false

/-- What a gathering has pending or posted in a line is performed (R84, R130). -/
def performAll (s : State) (g line : Nat) : State := performRuns (performLine s g line) fun m => m.src == g && m.line == line

/-- A route 0 load at one moment, if its line can be read now; else the line is asked for (R78, R109). A load that a fill has
served takes that value (R94). -/
def performLoad (s : State) (slot : Slot) (q : Quire) (e : LogEntry) (a : Acc) : State :=
  let g := gathOf slot.core
  let line := lineOf a.loc
  let mine := tryAcc q e a
  let join (s : State) : State := if mine then s.setQuire slot fun q => joinSet q line false else s
  match a.got with
  | some v => loadDone (noteChk s slot e a) slot e a v
  | none =>
    match winFind s a.loc with
    | some (f, off) =>
      let s1 := winFill s f off a.key
      loadDone (noteChk (join s1) slot e a) slot e a (bytesVal (loadBytes s1 g q e a))
    | none =>
      let s0 := settleKey s g a.key line
      let s1 := if canRead s0 g line then settleFor s0 a.key line (some g) else s0
      let s2 := if mine then performAll s1 g line else s1
      let here : Bool := !mine && (List.range a.len).all fun i => (pendingByte s2 g a.key (a.loc + i)).isSome
      if canRead s2 g line then
        loadDone (noteChk (join (touchLine s2 g (false, line))) slot e a) slot e a (bytesVal (loadBytes s2 g q e a))
      else if here then loadDone s2 slot e a (bytesVal (readBytes s2 (some g) a.key a.loc a.len))
      else sendRequest s2 g line .read

/-- A route 0 store enters, or joins a region's buffer (R82, R185). -/
def performStore (s : State) (slot : Slot) (q : Quire) (e : LogEntry) (a : Acc) : State :=
  let g := gathOf slot.core
  if tryAcc q e a then
    -- one made once is a store of each member (R340)
    if canRead s g (lineOf a.loc) then
      accDone (((accThreads e a).filter q.member).foldl (fun s t => regionStore s slot { a with t := t }) s) slot e a id
    else sendRequest s g (lineOf a.loc) .read
  else
    accDone (enterBytes s g (some slot) q.ctx a.key a.loc (bytesOf a.len a.data)) slot e a id

/-- A route 0 atomic, while the gathering holds the line in M (R84, R348). -/
def performAtomic (s : State) (slot : Slot) (e : LogEntry) (a : Acc) : State :=
  let g := gathOf slot.core
  let line := lineOf a.loc
  match winFind s a.loc with
  | some (f, off) =>
    let s1 := winFill s f off a.key
    let old := bytesVal (readBytes s1 (some g) a.key a.loc a.len)
    let s2 := match atomNew e.op e.f old a.args with
              | some x => (cellsAt off (bytesOf a.len x)).foldl (fun s c => winWrite s f c.1 c.2) (lineStrikes s1 line (some slot))
              | none => s1
    accDone s2 slot e a fun q => atomPut q e a old
  | none =>
    let s1 := settleKey s g a.key line
    if (heldOf s1 g line).tok = 64 ∧ (heldOf s1 g line).valid then
      let s2 := touchLine (settleFor (awayStrikes (performLine s1 g line) g line) a.key line (some g)) g (false, line)
      let old := bytesVal (readBytes s2 none a.key a.loc a.len)
      let s3 := match atomNew e.op e.f old a.args with
                | some x =>
                  (cellsAt a.loc (bytesOf a.len x)).foldl (fun s c => writeM s g a.key c.1 c.2)
                    (storeStrikes s2 g line (some slot))
                | none => s2
      accDone s3 slot e a fun q => atomPut q e a old
    else sendRequest s1 g line .write

/-- The accesses of a scratchpad store that write the word an access writes: they are combined (R60). -/
def wordMates (e : LogEntry) (a : Acc) : List Acc := e.acc.filter fun b => b.st == .waiting && b.va / 8 == a.va / 8

/-- A scratchpad access at its bank (R58 to R61, R106): the threads of one store that write a word write it once, the highest
thread's bytes standing (R60). -/
def performScratch (s : State) (slot : Slot) (q : Quire) (e : LogEntry) (a : Acc) : State :=
  let s1 := scratchFill s q.folio a.va
  if opAtomic e.op then
    let old := bytesVal (scratchRead s1 q.folio a.va a.len)
    let s2 := match atomNew e.op e.f old a.args with
              | some x => scratchCells s1 (some slot) q.folio (cellsAt a.va (bytesOf a.len x))
              | none => s1
    accDone s2 slot e a fun q => atomPut q e a old
  else if opStore e.op then
    let mates := wordMates e a
    if mates.any (heldBack q { e with acc := [] }) then s
    else
      let bytes := mates.foldl (fun m b => (cellsAt b.va (bytesOf b.len b.data)).foldl (fun m c => cellPut m c.1 c.2) m) []
      mates.foldl (fun s b => accDone s slot e b id) (scratchCells s1 (some slot) q.folio bytes)
  else
    loadDone s1 slot e a (bytesVal (scratchRead s1 q.folio a.va a.len))

/-- An access to a page with NC is performed at the home, the host or the peer (R14, R106): host and peer stores are posted; a
read sees what its gathering has entered (R109), and an atomic or a region's load follows what it has entered in the line (R84,
R130; DEDUCED for the atomic, log 109). -/
def performNc (s : State) (slot : Slot) (q : Quire) (e : LogEntry) (a : Acc) : State :=
  let g := gathOf slot.core
  if opWrites e.op then accDone (ncWrite s g a.key a.loc (bytesOf a.len a.data) (accPoster q e a)) slot e a id
  else
    let mine := tryAcc q e a
    let s0 := if mine || opAtomic e.op then performAll s g (lineOf a.loc) else s
    -- pending bytes are read on route 0 alone (R118)
    let at_ : Option Nat := if opRoute e.op a = 0 then some g else none
    let s1 := prepareNc s0 at_ a.key a.loc a.len
    let old := bytesVal (readBytes s1 at_ a.key a.loc a.len)
    if opAtomic e.op then
      let s2 := match atomNew e.op e.f old a.args with
                | some x => homeWrite s1 a.key a.loc (bytesOf a.len x)
                | none => s1
      accDone s2 slot e a fun q => atomPut q e a old
    else if e.op = 0x126 then
      accDone s1 slot e a fun q => putResult q e.uni a.t e.f.d.toNat (if a.args.headD 0 = 8 then 2 else 1) (a.data + old)
    else if mine then
      loadDone (noteChk (s1.setQuire slot fun q => joinSet q (lineOf a.loc) false) slot e a) slot e a
        (bytesVal ((List.range a.len).map fun i => (regionByte q (tryThread q e a) (a.loc + i)).getD (readByte s1 none a.key (a.loc + i))))
    else loadDone s1 slot e a old

/-- A lease-route access: LDC and LDT (R118, R342, R344). An element out of bounds reads nothing. -/
def performLease (s : State) (slot : Slot) (e : LogEntry) (a : Acc) : State :=
  let w : LeaseAt := if e.op = 0x126 then .tile (gathOf slot.core) else .constant slot.core
  let r := if a.len = 0 then (s, []) else leaseRead s w a.key a.loc a.len
  if e.op = 0x126 then
    accDone r.1 slot e a fun q =>
      putResult q e.uni a.t e.f.d.toNat (if a.args.headD 0 = 8 then 2 else 1) (a.data + bytesVal r.2)
  else loadDone r.1 slot e a (bytesVal r.2)

/-- A private access (R27, R49, R343): the slice at once; the backing as a route 0 access, a store of which is performed at the
access (R106), or at the home, the host or the peer on an NC page (R14). -/
def performPriv (s : State) (slot : Slot) (q : Quire) (e : LogEntry) (a : Acc) : State :=
  let g := gathOf slot.core
  if 2 ^ 73 ≤ a.loc ∧ a.loc < 2 ^ 74 then
    if opStore e.op then accDone s slot e a fun q => sliceWrite q a.t (a.loc - 2 ^ 73) (bytesOf a.len a.data)
    else loadDone s slot e a (bytesVal (sliceRead q a.t (a.loc - 2 ^ 73) a.len))
  else if a.nc then performNc s slot q e a
  else if opStore e.op then
    accDone (performLine (enterBytes s g (some slot) q.ctx a.key a.loc (bytesOf a.len a.data)) g (lineOf a.loc)) slot e a id
  else performLoad s slot q e a

end Sys2Proof.Machine
end

