-- ==== Sys2Proof/Machine/Trans.lean ====
section
/-! DEFINITION. The FP32 transcendentals (R233): the exact value rounded once by RNE. A reciprocal or a root is
exact integer arithmetic with a sticky part. The others bracket the value between two dyadic numbers, at a precision
at which both ends round alike (DEDUCED that the last precision tried always suffices, log 11). -/

namespace Sys2Proof.Machine

/-- Integer square root by bits, from bit n down. -/
def isqrtFrom (x : Nat) : Nat → Nat → Nat
  | 0, r => r
  | n + 1, r => if (r + 2 ^ n) * (r + 2 ^ n) ≤ x then isqrtFrom x n (r + 2 ^ n) else isqrtFrom x n r

/-- Floor of the square root. -/
def isqrt (x : Nat) : Nat := isqrtFrom x (Nat.log2 x / 2 + 1) 0

/-- FRCP: 1/x. -/
def trRcp : Fpv → Nat
  | .nan => fp32.nan
  | .inf n => signed fp32 n 0
  | .fin n m e =>
    if m = 0 then signed fp32 n fp32.inf
    else
      let k := Nat.log2 m + 64
      signed fp32 n (roundMag fp32 0 n (2 ^ k / m) (-e - k) (2 ^ k % m != 0))

/-- FSQRT. -/
def trSqrt : Fpv → Nat
  | .nan => fp32.nan
  | .inf n => if n then fp32.nan else fp32.inf
  | .fin n m e =>
    if m = 0 then signed fp32 n 0
    else if n then fp32.nan
    else
      let k : Nat := if e % 2 = 0 then 128 else 129
      let x := m * 2 ^ k
      let r := isqrt x
      roundMag fp32 0 false r ((e - k) / 2) (r * r != x)

/-- FRSQ: 1/√x. -/
def trRsq : Fpv → Nat
  | .nan => fp32.nan
  | .inf n => if n then fp32.nan else 0
  | .fin n m e =>
    if m = 0 then signed fp32 n fp32.inf
    else if n then fp32.nan
    else
      -- 1/√(m 2^e) = √(2^k / m) 2^((-e - k) / 2), with e + k even
      let k : Nat := if e % 2 = 0 then 192 else 193
      let r := isqrt (2 ^ k / m)
      roundMag fp32 0 false r ((-e - k) / 2) (r * r * m != 2 ^ k)

/-- Sum of (-1)^i z^(2i+1)/(2i+1) scaled by 2^p, or of the terms without alternation: atan or atanh of 1/n. -/
def atanInv (alt : Bool) (n : Nat) : Nat → Nat → Nat → Int → Int
  | 0, _, _, acc => acc
  | fuel + 1, i, pow, acc =>
    if pow = 0 then acc
    else
      let t : Int := (pow / (2 * i + 1) : Nat)
      atanInv alt n fuel (i + 1) (pow / (n * n)) (if alt ∧ i % 2 = 1 then acc - t else acc + t)

/-- π scaled by 2^p, to within 2^16 units (Machin). -/
def piScaled (p : Nat) : Int :=
  16 * atanInv true 5 p 0 (2 ^ p / 5) 0 - 4 * atanInv true 239 p 0 (2 ^ p / 239) 0

/-- ln 2 scaled by 2^p, to within 2^12 units. -/
def ln2Scaled (p : Nat) : Nat := (2 * atanInv false 3 p 0 (2 ^ p / 3) 0).toNat

/-- Sum of y^i / i!, scaled by 2^p, from term `t` of index i. -/
def expTerms (p y : Nat) : Nat → Nat → Nat → Nat → Nat
  | 0, _, _, acc => acc
  | fuel + 1, i, t, acc => if t = 0 then acc else expTerms p y fuel (i + 1) (t * y / 2 ^ p / (i + 1)) (acc + t)

/-- e^(y / 2^p) scaled by 2^p, for 0 ≤ y < 2^p: within 2^12 units below. -/
def expScaled (p y : Nat) : Nat := expTerms p y p 0 (2 ^ p) 0

/-- Sum of z^(2i+1)/(2i+1) scaled by 2^p, from the power `pow`. -/
def atanhTerms (p z2 : Nat) : Nat → Nat → Nat → Nat → Nat
  | 0, _, _, acc => acc
  | fuel + 1, i, pow, acc =>
    if pow = 0 then acc else atanhTerms p z2 fuel (i + 1) (pow * z2 / 2 ^ p) (acc + pow / (2 * i + 1))

/-- The sum of (-1)^i y^(2i) / (2i)! (from i = 0) or of the odd terms, scaled by 2^p. -/
def trigTerms (p y2 : Nat) : Nat → Nat → Nat → Int → Int
  | 0, _, _, acc => acc
  | fuel + 1, k, t, acc =>
    if t = 0 then acc
    else
      trigTerms p y2 fuel (k + 2) (t * y2 / 2 ^ p / ((k + 1) * (k + 2)))
        (if k / 2 % 2 = 1 then acc - t else acc + t)

/-- Round a bracketed magnitude lo ≤ x ≤ hi (scaled by 2^-p): none where the ends round differently. -/
def roundBracket (neg : Bool) (lo hi : Nat) (e : Int) : Option Nat :=
  let a := roundMag fp32 0 neg lo e true
  let b := roundMag fp32 0 neg hi e true
  if a = b then some (signed fp32 neg a) else none

/-- The first precision at which a bracket decides; the last precision's lower end if none does. -/
def firstDecided (f : Nat → Bool × Nat × Nat × Int) : List Nat → Nat
  | [] => 0
  | [p] => let r := f p; signed fp32 r.1 (roundMag fp32 0 r.1 r.2.1 r.2.2.2 true)
  | p :: ps =>
    let r := f p
    match roundBracket r.1 r.2.1 r.2.2.1 r.2.2.2 with
    | some x => x
    | none => firstDecided f ps

/-- The precisions tried. -/
def precisions : List Nat := [128, 256, 512]

/-- A magnitude m 2^e scaled by 2^p, rounded down. -/
def scaleDown (m : Nat) (e : Int) (p : Nat) : Nat :=
  if 0 ≤ e + p then m * 2 ^ (e + p).toNat else m / 2 ^ (-(e + p)).toNat

/-- FEXP2: 2^x. -/
def trExp2 : Fpv → Nat
  | .nan => fp32.nan
  | .inf n => if n then 0 else fp32.inf
  | .fin n m e =>
    if m = 0 then 0x3F800000
    else if ¬ n ∧ 128 * 2 ^ 200 ≤ scaleDown m e 200 then fp32.inf
    else if n ∧ 160 * 2 ^ 200 ≤ scaleDown m e 200 then 0
    else if scaleDown m e 40 = 0 then 0x3F800000
    else
      -- every FP32 value of magnitude 2^-40 or more is a multiple of 2^-63
      let x : Int := scaled n m e (-64)
      let k : Int := x / (2 ^ 64 : Nat)
      let fr : Nat := (x % (2 ^ 64 : Nat)).toNat
      if fr = 0 then roundMag fp32 0 false 1 k false
      else
        firstDecided (fun p =>
          let y := fr * ln2Scaled p / 2 ^ 64
          let v := expScaled p y
          (false, v - 2 ^ 16, v + 2 ^ 16, k - p)) precisions

/-- FLOG2: log₂ x. -/
def trLog2 : Fpv → Nat
  | .nan => fp32.nan
  | .inf n => if n then fp32.nan else fp32.inf
  | .fin n m e =>
    if m = 0 then signed fp32 true fp32.inf
    else if n then fp32.nan
    else
      let b := Nat.log2 m
      -- x = (m / 2^b) 2^(e + b); use m / 2^(b + 1) when it lies nearer to 1
      let hi := decide (11 * 2 ^ b < 8 * m)
      let den : Nat := if hi then 2 ^ (b + 1) else 2 ^ b
      let k : Int := e + b + (if hi then 1 else 0)
      if m = den then
        (if k = 0 then 0 else signed fp32 (k < 0) (roundMag fp32 0 (k < 0) k.natAbs 0 false))
      else
        firstDecided (fun p =>
          let negz := decide (m < den)
          let d : Nat := (m - den) + (den - m)
          let z := d * 2 ^ p / (m + den)
          let l := 2 * atanhTerms p (z * z / 2 ^ p) p 0 z 0
          let q : Int := (l * 2 ^ p / ln2Scaled p : Nat)
          let v : Int := k * (2 ^ p : Nat) + (if negz then -q else q)
          (v < 0, v.natAbs - 2 ^ 16, v.natAbs + 2 ^ 16, -(p : Int))) precisions

/-- sin or cos of a magnitude m 2^e at precision p: sign and bracket. -/
def trigAt (cosine neg : Bool) (m : Nat) (e : Int) (p : Nat) : Bool × Nat × Nat × Int :=
  let w := p + 160
  let x := scaleDown m e w
  let half : Nat := (piScaled w).toNat / 2
  let k := x / half
  let y := x % half / 2 ^ 160
  let quad := (k + if cosine then 1 else 0) % 4
  let y2 := y * y / 2 ^ p
  let v : Int := if quad % 2 = 0 then trigTerms p y2 p 1 y 0 else trigTerms p y2 p 0 (2 ^ p) 0
  let sgn := (quad / 2 == 1) != (neg && !cosine)
  ((v < 0) != sgn, v.natAbs - 2 ^ 16, v.natAbs + 2 ^ 16, -(p : Int))

/-- FSIN and FCOS. -/
def trTrig (cosine : Bool) : Fpv → Nat
  | .nan => fp32.nan
  | .inf _ => fp32.nan
  | .fin n m e =>
    if m = 0 then (if cosine then 0x3F800000 else signed fp32 n 0)
    else if scaleDown m e 40 = 0 then
      (if cosine then 0x3F800000 else signed fp32 n (roundMag fp32 0 n (m * 2 ^ 64 - 1) (e - 64) true))
    else firstDecided (trigAt cosine n m e) precisions

/-- FTANH. -/
def trTanh : Fpv → Nat
  | .nan => fp32.nan
  | .inf n => signed fp32 n 0x3F800000
  | .fin n m e =>
    if m = 0 then signed fp32 n 0
    else if scaleDown m e 40 = 0 then signed fp32 n (roundMag fp32 0 n (m * 2 ^ 64 - 1) (e - 64) true)
    else if 20 * 2 ^ 64 ≤ scaleDown m e 64 then signed fp32 n 0x3F800000
    else
      firstDecided (fun p =>
        -- e^(-2x) = 2^-j e^(-r), with 2x = j ln 2 + r, 0 ≤ r < ln 2; e^(-r) = 1 / e^r
        let y := 2 * scaleDown m e p
        let l := ln2Scaled p
        let j := y / l
        let er := expScaled p (y % l)
        let q := 2 ^ p * 2 ^ p / er / 2 ^ j
        let v := (2 ^ p - q) * 2 ^ p / (2 ^ p + q)
        (n, v - 2 ^ 24, v + 2 ^ 24, -(p : Int))) precisions

end Sys2Proof.Machine
end

