-- ==== Sys2Proof/Machine/Image.lean ====
section
/-! DEFINITION. Images: the descriptor (R353 to R355), texel addresses (R356), coordinates (R358), the level of detail
(R359), filtering (R360, R361), the fetch forms (R362) and the conversion of a store (R363). -/

namespace Sys2Proof.Machine

def imBase (d : Nat) : Nat := bitsOf d 63 0
def imWm (d : Nat) : Nat := bitsOf d 79 64
def imHm (d : Nat) : Nat := bitsOf d 95 80
def imDm (d : Nat) : Nat := bitsOf d 111 96
def imDim (d : Nat) : Nat := bitsOf d 115 112
def imFmt (d : Nat) : Nat := bitsOf d 119 116
def imLm (d : Nat) : Nat := bitsOf d 123 120
def imSamp (d : Nat) : Nat := bitsOf d 125 124
def imSwizzled (d : Nat) : Bool := d.testBit 126
def imMip (d : Nat) : Nat := bitsOf d 131 130
def imBorder (d : Nat) : Nat := bitsOf d 139 138
def imCmp (d : Nat) : Nat := bitsOf d 143 140
def imMinLod (d : Nat) : Nat := bitsOf d 175 160
def imMaxLod (d : Nat) : Nat := bitsOf d 191 176

/-- Texel bytes Tb of a format (R354). -/
def texBytes (fmt : Nat) : Nat := ([1, 2, 4, 4, 2, 4, 8, 4, 8, 16, 4, 8, 16] : List Nat).getD fmt 16

/-- Channels of a format. -/
def texChannels (fmt : Nat) : Nat := ([1, 2, 4, 4, 1, 2, 4, 1, 2, 4, 1, 2, 4] : List Nat).getD fmt 4

/-- A descriptor at an address is valid (R353, R355). -/
def imageOk (addr d : Nat) : Bool :=
  let dim := imDim d
  let big := max (max (imWm d + 1) (imHm d + 1)) (if dim = 2 then imDm d + 1 else 1)
  addr % 64 == 0 && bitsOf d 511 192 == 0 && !d.testBit 127 && imCmp d < 8 && imBorder d != 3 && imMip d != 3
    && imFmt d ≤ 12 && dim ≤ 5 && imBase d % 128 == 0 && decide (imBase d < 2 ^ 57)
    && (dim != 0 || imHm d == 0) && (!(dim = 0 || dim = 1 || dim = 5) || imDm d == 0)
    && (dim != 3 || (imDm d == 5 && imWm d == imHm d)) && (imSamp d == 0 || dim == 5) && (imLm d == 0 || dim != 5)
    && decide (imLm d ≤ Nat.log2 big) && decide (imMinLod d ≤ imMaxLod d)

/-- Whether an image word may use this descriptor (R355). -/
def imageFits (op h dim addr d : Nat) : Bool :=
  imageOk addr d && imDim d == dim && !(op ∈ [0x150, 0x151, 0x152, 0x154] && 10 ≤ imFmt d)
    && !(op = 0x153 && imFmt d != 4 && imFmt d != 7) && !(h = 1 && 10 ≤ imFmt d)

def levelW (d l : Nat) : Nat := max 1 ((imWm d + 1) / 2 ^ l)
def levelH (d l : Nat) : Nat := max 1 ((imHm d + 1) / 2 ^ l)
def levelD (d l : Nat) : Nat := if imDim d = 2 then max 1 ((imDm d + 1) / 2 ^ l) else imDm d + 1
/-- Row pitch of a level (R356). -/
def levelPitch (d l : Nat) : Nat := roundUp (levelW d l * texBytes (imFmt d) * 2 ^ imSamp d) 128

/-- TexelAddr (R356). -/
def texelAddr (d x y z l smp : Nat) : Nat :=
  let tb := texBytes (imFmt d)
  let loff := (List.range l).foldl (fun a i => a + levelPitch d i * levelH d i * levelD d i) 0
  let b := x * tb * 2 ^ imSamp d + smp * tb
  let b1 := if imSwizzled d then b ^^^ (y % 8 * 16) else b
  imBase d + loff + z * levelPitch d l * levelH d l + y * levelPitch d l + b1

/-- FP32 operations of the sampler: RNE, no FTZ (R358 to R360). -/
def sAdd (a b : Nat) : Nat := fpOp2 fp32 false 0 (fpAdd 0) a b
def sMul (a b : Nat) : Nat := fpOp2 fp32 false 0 fpMul a b
def sSub (a b : Nat) : Nat := fpOp2 fp32 false 0 (fun x y => fpAdd 0 x (fpNeg y)) a b
def sFma (a b c : Nat) : Nat := fpOp3 fp32 false 0 (fpFma 0) a b c
def sMax (a b : Nat) : Nat := fpOp2 fp32 false 0 (fpMinMax true false) a b
/-- A whole number as FP32. -/
def sInt32 (n : Nat) : Nat := fpRound fp32 0 (.fin false n 0)

/-- The largest whole number at most a finite value. -/
def floorOf : Fpv → Int
  | .fin n m e => if n then -(intMag 2 true m e : Int) else intMag 2 false m e
  | _ => 0

/-- A floating coordinate, clamped, a NaN read as zero (R358). -/
def clampCoord (x : Nat) : Nat :=
  match fpRead fp32 x with
  | .nan => 0
  | v => if fpLt v (.fin true 1 20) then 0xC9800000 else if fpLt (.fin false 1 20) v then 0x49800000 else x

/-- The magnitude bits of a pattern. -/
def absBits (x : Nat) : Nat := x % 2 ^ 31

/-- The face of a direction (R358). -/
def cubeFace (x y z : Nat) : Nat :=
  let sg (v : Nat) : Nat := v / 2 ^ 31
  if absBits x = 0 ∧ absBits y = 0 ∧ absBits z = 0 then 4
  else if absBits x ≤ absBits z ∧ absBits y ≤ absBits z then 4 + sg z
  else if absBits x ≤ absBits y then 2 + sg y
  else sg x

/-- u and v of a direction on a face (R358). -/
def cubeUv (face x y z : Nat) : Nat × Nat :=
  let ng (v : Nat) : Nat := v ^^^ 2 ^ 31
  let m := if face ≤ 1 then x else if face ≤ 3 then y else z
  let s := match face with
           | 0 => ng z
           | 1 => z
           | 4 => x
           | 5 => ng x
           | _ => x
  let t := match face with
           | 2 => z
           | 3 => ng z
           | _ => ng y
  let r := trRcp (fpRead fp32 (absBits m))
  if absBits x = 0 ∧ absBits y = 0 ∧ absBits z = 0 then (0x3F000000, 0x3F000000)
  else (sAdd (sMul 0x3F000000 (sMul s r)) 0x3F000000, sAdd (sMul 0x3F000000 (sMul t r)) 0x3F000000)

/-- An axis's index under its address mode; none reads the border (R358). -/
def axisIndex (mode n : Nat) (i : Int) : Option Nat :=
  match mode with
  | 0 => some (i % (n : Int)).toNat
  | 1 => some (min i.toNat (n - 1))
  | 2 =>
    let j := (i % (2 * n : Int)).toNat
    some (if j < n then j else 2 * n - 1 - j)
  | _ => if 0 ≤ i ∧ i < n then some i.toNat else none

/-- An axis's address mode; a CUBE acts as clamp (R358). -/
def axisMode (d k : Nat) : Nat := if imDim d = 3 then 1 else bitsOf d (133 + 2 * k) (132 + 2 * k)

/-- One texel of a footprint: its address, none at the border, and its weight in units of 2^-32. -/
structure Tap where
  addr : Option Nat
  wt : Nat
  deriving DecidableEq, Repr

/-- The indices and weights (in 2^-8) of one axis (R360). -/
def axisTaps (linear : Bool) (mode n c : Nat) : List (Option Nat × Nat) :=
  let p := sMul c (sInt32 n)
  if linear then
    let a := fpRead fp32 (sSub p 0x3F000000)
    let i := floorOf a
    let w := (floorOf (fpMul a (.fin false 1 8)) - 256 * i).toNat
    [(axisIndex mode n i, 256 - w), (axisIndex mode n (i + 1), w)]
  else [(axisIndex mode n (floorOf (fpRead fp32 p)), 256)]

/-- The spatial coordinates of a sample: u, v, w patterns and the fixed slice, by the dimension (R358). -/
structure Coord where
  u : Nat
  v : Nat
  w : Nat
  z : Nat
  deriving DecidableEq, Repr

/-- Read the coordinates of a sampling word (R358). -/
def coordOf (d : Nat) (xs : List Nat) : Coord :=
  let g (i : Nat) : Nat := clampCoord (xs.getD i 0)
  match imDim d with
  | 3 =>
    let face := cubeFace (g 0) (g 1) (g 2)
    let uv := cubeUv face (g 0) (g 1) (g 2)
    { u := uv.1, v := uv.2, w := 0, z := face }
  | 4 =>
    let l : Int := match fpRead fp32 (g 2) with
                   | .fin n m e => if n then -(intMag 0 true m e : Int) else intMag 0 false m e
                   | _ => 0
    { u := g 0, v := g 1, w := 0, z := min l.toNat (imDm d) }
  | 2 => { u := g 0, v := g 1, w := g 2, z := 0 }
  | 1 => { u := g 0, v := g 1, w := 0, z := 0 }
  | _ => { u := g 0, v := 0, w := 0, z := 0 }

/-- The footprint of one level with a weight of its own, in 2^-8 (R360). -/
def levelTaps (d : Nat) (linear : Bool) (k : Coord) (l lw : Nat) : List Tap :=
  let dim := imDim d
  let xs := axisTaps linear (axisMode d 0) (levelW d l) k.u
  let ys := if dim = 0 then [(some 0, 256)] else axisTaps linear (axisMode d 1) (levelH d l) k.v
  let zs := if dim = 2 then axisTaps linear (axisMode d 2) (levelD d l) k.w else [(some k.z, 256)]
  zs.flatMap fun z => ys.flatMap fun y => xs.map fun x =>
    { addr := x.1.bind fun i => y.1.bind fun j => z.1.map fun m => texelAddr d i j m l 0
      wt := lw * x.2 * y.2 * z.2 }

/-- The levels a sample filters with their weights in 2^-8, and whether linearly (R360). -/
def filterTaps (d : Nat) (k : Coord) (lq : Nat) : List Tap :=
  if lq = 0 then levelTaps d (d.testBit 128) k 0 256
  else
    let lin := d.testBit 129
    match imMip d with
    | 0 => levelTaps d lin k 0 256
    | 1 => levelTaps d lin k (min ((lq + 128) / 256) (imLm d)) 256
    | _ =>
      let l0 := min (lq / 256) (imLm d)
      let l1 := min (l0 + 1) (imLm d)
      let fr := if l0 = imLm d then 0 else lq % 256
      levelTaps d lin k l0 (256 - fr) ++ levelTaps d lin k l1 fr

/-- BIAS as FP32. -/
def biasBits (d : Nat) : Nat := fpRound fp32 0 (ofScaled (sInt 16 (bitsOf d 159 144)) (-8) false)

/-- One of px and py (R359): the derivatives of the axes scaled by their extents. -/
def lodSum (d : Nat) (ds : List Nat) : Nat :=
  let ext (i : Nat) : Nat :=
    sInt32 (if imDim d = 3 then imWm d + 1 else if i = 0 then imWm d + 1 else if i = 1 then imHm d + 1 else imDm d + 1)
  match ds.zipIdx.map fun e => sMul e.1 (ext e.2) with
  | [] => 0
  | x :: rest => rest.foldl (fun a y => sFma y y a) (sMul x x)

/-- lam of R359. -/
def lodOf (d : Nat) (dx dy : List Nat) : Nat :=
  sAdd (sMul 0x3F000000 (trLog2 (fpRead fp32 (sMax (lodSum d dx) (lodSum d dy))))) (biasBits d)

/-- The derivatives' coordinates of a thread of the quad: u and v on a face for a CUBE (R359). -/
def quadCoord (d face : Nat) (xs : List Nat) : List Nat :=
  let g (i : Nat) : Nat := clampCoord (xs.getD i 0)
  match imDim d with
  | 3 => let uv := cubeUv face (g 0) (g 1) (g 2); [uv.1, uv.2]
  | 2 => [g 0, g 1, g 2]
  | 0 => [g 0]
  | _ => [g 0, g 1]

/-- lam from the coordinates of threads 4j, 4j + 1 and 4j + 2 (R359). -/
def quadLod (d : Nat) (q0 q1 q2 : List Nat) : Nat :=
  let face := cubeFace (clampCoord (q0.getD 0 0)) (clampCoord (q0.getD 1 0)) (clampCoord (q0.getD 2 0))
  let a := quadCoord d face q0
  lodOf d ((quadCoord d face q1).zipWith sSub a) ((quadCoord d face q2).zipWith sSub a)

/-- The level of detail clamped and truncated to 2^-8 (R359). -/
def lodClamp (d lam : Nat) : Nat :=
  match fpRead fp32 lam with
  | .nan => imMinLod d
  | .inf n => if n then imMinLod d else imMaxLod d
  | v => max (imMinLod d) (min (imMaxLod d) (floorOf (fpMul v (.fin false 1 8))).toNat)

/-- A ratio of whole numbers as FP32 by RNE (R354). -/
def ratio32 (n den : Nat) : Nat := roundMag fp32 0 false (n * 2 ^ 64 / den) (-64) (n * 2 ^ 64 % den != 0)

/-- The whole part of a fifth root, from its bit k − 1 down. -/
def root5 (n : Nat) : Nat → Nat → Nat
  | 0, a => a
  | k + 1, a => root5 n k (if (a + 2 ^ k) ^ 5 ≤ n then a + 2 ^ k else a)

/-- The IEC 61966-2-1 decoding of n/255, correctly rounded to FP32 (R354): c/12.92 up to 0.04045, then ((c + 0.055)/1.055)^2.4, taken
as the fifth root of a twelfth power. R354 names the standard and does not repeat its constants (PRESUMED, log 8). -/
def srgbDecode (n : Nat) : Nat :=
  if n * 100000 ≤ 4045 * 255 then ratio32 (25 * n) (255 * 323)
  else
    let p := (40 * n + 561) ^ 12 * 2 ^ 400
    let x := root5 (p / 10761 ^ 12) 82 0
    roundMag fp32 0 false x (-80) (x ^ 5 * 10761 ^ 12 != p)

/-- Channel c of a texel's bits, decoded (R354). -/
def texChannel (fmt x c : Nat) : Nat :=
  if texChannels fmt ≤ c then (if c = 3 then (if 10 ≤ fmt then 1 else 0x3F800000) else 0)
  else if fmt ≤ 2 then ratio32 (bitsOf x (8 * c + 7) (8 * c)) 255
  else if fmt = 3 then
    if c = 3 then ratio32 (bitsOf x 31 24) 255 else srgbDecode (bitsOf x (8 * c + 7) (8 * c))
  else if fmt ≤ 6 then fpRound fp32 0 (fpRead fp16 (bitsOf x (16 * c + 15) (16 * c)))
  else bitsOf x (32 * c + 31) (32 * c)

/-- Channel c of the border (R353, R358). -/
def borderChannel (d c : Nat) : Nat :=
  let one := if 10 ≤ imFmt d then 1 else 0x3F800000
  match imBorder d with
  | 0 => 0
  | 1 => if c = 3 then one else 0
  | _ => one

/-- Channel c of a fetched texel, or of the border. -/
def tapChannel (d c : Nat) (raw : Option Nat) : Nat :=
  match raw with
  | some x => texChannel (imFmt d) x c
  | none => borderChannel d c

/-- The exact weighted sum of a channel, rounded once (R360). -/
def filterSum (vals : List (Nat × Nat)) : Nat :=
  match (vals.filter fun e => e.2 != 0).map fun e => fpMul (fpRead fp32 e.1) (.fin false e.2 (-32)) with
  | [] => 0
  | x :: rest => fpRound fp32 0 (fpSum rest x)

/-- Four channels as a quad, or as a pair of FP16 values under H (R357). -/
def packChannels (h : Nat) (ch : Nat → Nat) : Nat :=
  if h = 1 then
    (List.range 4).foldl (fun a c => a + fpRound fp16 0 (fpRead fp32 (ch c)) * 2 ^ (16 * c)) 0
  else (List.range 4).foldl (fun a c => a + ch c % 2 ^ 32 * 2 ^ (32 * c)) 0

/-- The test of TEX.cmp (R353, R361). -/
def cmpTest (d ref x : Nat) : Bool :=
  if imCmp d = 6 then false else if imCmp d = 7 then true else fpCompare (imCmp d) (fpRead fp32 ref) (fpRead fp32 x)

/-- An integer coordinate in range, as an index. -/
def inRange (x n : Nat) : Option Nat := if 0 ≤ sInt 32 x ∧ sInt 32 x < n then some (sInt 32 x).toNat else none

/-- The one texel of TLD; none in the outer place gives zero (R362). -/
def tldTap (d op : Nat) (xs : List Nat) : Option Tap :=
  let dim := imDim d
  let nc := imgCoords dim
  let ix (i : Nat) : Int := sInt 32 (xs.getD i 0)
  if op = 0x156 then
    match inRange (xs.getD 2 0) (2 ^ imSamp d) with
    | none => none
    | some smp =>
      some
        { addr := (axisIndex (axisMode d 0) (levelW d 0) (ix 0)).bind fun i =>
            (axisIndex (axisMode d 1) (levelH d 0) (ix 1)).map fun j => texelAddr d i j 0 0 smp
          wt := 2 ^ 32 }
  else
    match inRange (xs.getD nc 0) (imLm d + 1) with
    | none => none
    | some l =>
      let z : Option Nat :=
        if dim = 2 then axisIndex (axisMode d 2) (levelD d l) (ix 2)
        else if dim = 3 ∨ dim = 4 then some (min (ix 2).toNat (imDm d))
        else some 0
      let y : Option Nat := if dim = 0 then some 0 else axisIndex (axisMode d 1) (levelH d l) (ix 1)
      some
        { addr := (axisIndex (axisMode d 0) (levelW d l) (ix 0)).bind fun i => y.bind fun j => z.map fun m =>
            texelAddr d i j m l 0
          wt := 2 ^ 32 }

/-- The texel of IMLD and IMST; none when out of range (R362, R363). -/
def imAddr (d : Nat) (xs : List Nat) : Option Nat :=
  let dim := imDim d
  let nc := imgCoords dim
  let last := xs.getD nc 0
  (if dim = 5 then some 0 else inRange last (imLm d + 1)).bind fun l =>
    (if dim = 5 then inRange last (2 ^ imSamp d) else some 0).bind fun smp =>
      (inRange (xs.getD 0 0) (levelW d l)).bind fun x =>
        (if nc ≤ 1 then some 0 else inRange (xs.getD 1 0) (levelH d l)).bind fun y =>
          (if nc ≤ 2 then some 0 else inRange (xs.getD 2 0) (levelD d l)).map fun z => texelAddr d x y z l smp

/-- The texels an image word reads for a thread, `xs` its block, `qs` the quad's coordinates (R358 to R362). -/
def imageTaps (d op : Nat) (xs : List Nat) (qs : List (List Nat)) : List Tap :=
  let nc := imgCoords (imDim d)
  let nd := imgGrads (imDim d)
  let k := coordOf d xs
  let lam := quadLod d (qs.getD 0 []) (qs.getD 1 []) (qs.getD 2 [])
  if op = 0x150 ∨ op = 0x153 then filterTaps d k (lodClamp d lam)
  else if op = 0x151 then filterTaps d k (lodClamp d (xs.getD nc 0))
  else if op = 0x152 then
    filterTaps d k (lodClamp d (lodOf d ((xs.drop nc).take nd) ((xs.drop (nc + nd)).take nd)))
  else if op = 0x154 then
    (levelTaps d true k (min (imMinLod d / 256) (imLm d)) 256).map fun t => { t with wt := 2 ^ 32 }
  else if op = 0x155 ∨ op = 0x156 then (tldTap d op xs).toList
  else if op = 0x15A ∨ op = 0x15B then ((imAddr d xs).map fun a => { addr := some a, wt := 2 ^ 32 }).toList
  else []

/-- The result of an image word from the texels it read (R357 to R362). -/
def imageValue (d op cls : Nat) (xs : List Nat) (qs : List (List Nat)) (raws : List (Option Nat × Nat)) : Nat :=
  let nc := imgCoords (imDim d)
  let h := cls % 2
  let one (c : Nat) : Nat :=
    match raws with
    | r :: _ => tapChannel d c r.1
    | [] => 0
  if op = 0x150 ∨ op = 0x151 ∨ op = 0x152 then
    packChannels h fun c => filterSum (raws.map fun r => (tapChannel d c r.1, r.2))
  else if op = 0x153 then
    filterSum (raws.map fun r => (if cmpTest d (xs.getD nc 0) (tapChannel d 0 r.1) then 0x3F800000 else 0, r.2))
  else if op = 0x154 then
    wordsVal (raws.map fun r => BitVec.ofNat 32 (tapChannel d (cls / 2 % 4) r.1))
  else if op = 0x155 ∨ op = 0x156 ∨ op = 0x15A then packChannels h one
  else if op = 0x15B then (raws.head?.bind (·.1)).getD 0
  else if op = 0x158 then
    match inRange (xs.getD 0 0) (imLm d + 1) with
    | some l => wordsVal [BitVec.ofNat 32 (levelW d l), BitVec.ofNat 32 (levelH d l), BitVec.ofNat 32 (levelD d l),
                  BitVec.ofNat 32 (imLm d + 1)]
    | none => 0
  else
    let lam := quadLod d (qs.getD 0 []) (qs.getD 1 []) (qs.getD 2 [])
    fpRound fp32 0 (.fin false (lodClamp d lam) (-8)) + lam * 2 ^ 32

/-- Registers of an image word's result (R357). -/
def imageRegs (op cls : Nat) : Nat :=
  if op = 0x153 then 1 else if op = 0x159 then 2 else if op = 0x154 ∨ op = 0x158 ∨ op = 0x15B then 4
  else if cls % 2 = 1 then 2 else 4

/-- A channel of `IMST` as a UN8 code (R363). -/
def unormByte (x : Nat) : Nat :=
  match fpRead fp32 x with
  | .nan => (Config.unormNan x).toNat
  | .inf n => if n then 0 else 255
  | .fin n m e => if n then 0 else min 255 (intMag 0 false (m * 255) e)

/-- 255 times the IEC 61966-2-1 encoding of num/den rounds to k or more by RNE (R363): 12.92 v up to 0.0031308, then
1.055 v^(1/2.4) − 0.055 (PRESUMED, log 8). -/
def srgbReaches (num den k : Nat) : Bool :=
  let e : Nat × Nat :=
    if num * 10000000 ≤ 31308 * den then (num * 1292 * 510, (2 * k - 1) * 100 * den)
    else (num ^ 5 * 10761 ^ 12, (20 * (2 * k - 1) + 561) ^ 12 * den ^ 5)
  decide (e.2 < e.1) || (e.1 == e.2 && k % 2 == 0)

/-- An SRGB channel of `IMST` (R363): encoded, then converted as UN8. -/
def srgbByte (x : Nat) : Nat :=
  match fpRead fp32 x with
  | .nan => (Config.unormNan x).toNat
  | .inf n => if n then 0 else 255
  | .fin n m e =>
    if n then 0 else ((List.range 255).filter fun i => srgbReaches (m * 2 ^ e.toNat) (2 ^ (-e).toNat) (i + 1)).length

/-- The texel's bits that `IMST` stores from a data quad (R363). -/
def texelBits (d x : Nat) : Nat :=
  let fmt := imFmt d
  let ch (c : Nat) : Nat := bitsOf x (32 * c + 31) (32 * c)
  (List.range (texChannels fmt)).foldl
    (fun a c =>
      a + (if fmt ≤ 2 then unormByte (ch c) * 2 ^ (8 * c)
           else if fmt = 3 then (if c = 3 then unormByte (ch c) else srgbByte (ch c)) * 2 ^ (8 * c)
           else if fmt ≤ 6 then fpRound fp16 0 (fpRead fp32 (ch c)) * 2 ^ (16 * c)
           else if fmt ≤ 9 then fpRound fp32 0 (fpRead fp32 (ch c)) * 2 ^ (32 * c)
           else ch c * 2 ^ (32 * c))) 0

/-- Read bytes of a texel or a descriptor on route 2, or at the home of an NC page (R14, R364). -/
def readTexel (s : State) (slot : Slot) (p : Page) (n : Nat) : State × Nat :=
  if p.nc then
    let s1 := prepareNc s none p.key p.loc n
    (s1, bytesVal (readBytes s1 none p.key p.loc n))
  else
    let r := leaseRead s (.sampler slot.core) p.key p.loc n
    (r.1, bytesVal r.2)

/-- The single-copy units of a footprint, in order: generic address and length (R105). A texel of 16 bytes is two. -/
def tapUnits (n : Nat) (ts : List Tap) : List (Nat × Nat) :=
  ts.flatMap fun t =>
    match t.addr with
    | some a => if t.wt = 0 then [] else if n = 16 then [(a, 8), (a + 8, 8)] else [(a, n)]
    | none => []

/-- The texels of a footprint from the values of its units (R360, R362). -/
def tapRaws (n : Nat) : List Tap → List Nat → List (Option Nat × Nat)
  | [], _ => []
  | t :: ts, vs =>
    if t.addr.isNone ∨ t.wt = 0 then (none, t.wt) :: tapRaws n ts vs
    else if n = 16 then (some (vs.headD 0 + 2 ^ 64 * (vs.drop 1).headD 0), t.wt) :: tapRaws n ts (vs.drop 2)
    else (some (vs.headD 0), t.wt) :: tapRaws n ts (vs.drop 1)

/-- Read bytes at a generic address on route 2: their value, or the reason of a fault. -/
def readUnit (s : State) (slot : Slot) (c a n : Nat) : State × Except Nat Nat :=
  match xlate s { core := some slot.core, gath := some (gathOf slot.core) } c a .read with
  | (s1, .error r) => (s1, .error r)
  | (s1, .ok p) => let x := readTexel s1 slot p n; (x.1, .ok x.2)

/-- Read a descriptor on route 2 (R353). -/
def readDesc (s : State) (slot : Slot) (c addr : Nat) : State × Except Nat Nat := readUnit s slot c addr 64

/-- Where the bytes of a list of units lie (R114), or the first fault with its address. -/
def placeUnits (s : State) (slot : Slot) (c : Nat) : List (Nat × Nat) → State × Except (Nat × Nat) (List (Nat × Loc × Nat))
  | [] => (s, .ok [])
  | u :: us =>
    match xlate s { core := some slot.core, gath := some (gathOf slot.core) } c u.1 .read with
    | (s1, .error r) => (s1, .error (u.1, r))
    | (s1, .ok p) =>
      match placeUnits s1 slot c us with
      | (s2, .error e) => (s2, .error e)
      | (s2, .ok l) => (s2, .ok ((u.1, p.loc, u.2) :: l))

end Sys2Proof.Machine
end

