-- ==== Sys2Proof/Machine/Record.lean ====
section
/-! DEFINITION. Shape records (R138 to R143), the gathering's record cache (R65, R66) and the generator that draws for an element (R240, R241). -/

namespace Sys2Proof.Machine

def shBase (r : Nat) : Nat := bitsOf r 63 0
def shFmt (r : Nat) : Nat := bitsOf r 67 64
def shRank (r : Nat) : Nat := bitsOf r 70 68
def shSwz (r : Nat) : Nat := bitsOf r 75 72
def shBounds (r : Nat) : Nat := bitsOf r 77 76
def shTid (r : Nat) : Nat := bitsOf r 127 96
def shFill (r : Nat) : Nat := bitsOf r 191 128
def shExt (r d : Nat) : Nat := bitsOf r (223 + 32 * d) (192 + 32 * d)
/-- The stride of dimension d ≥ 1. -/
def shStr (r d : Nat) : Nat := if d = 0 then 0 else bitsOf r (447 + 64 * (d - 1)) (384 + 64 * (d - 1))
def shBox (r d : Nat) : Nat := bitsOf r (655 + 16 * d) (640 + 16 * d)
/-- Element bytes E of a format (R139). -/
def elemBytes (fmt : Nat) : Nat := ([2, 2, 1, 1, 1, 1, 4, 4, 8] : List Nat).getD fmt 1
def shElem (r : Nat) : Nat := elemBytes (shFmt r)
/-- Bytes of the box image (R140). -/
def boxBytes (r : Nat) : Nat := (List.range (shRank r)).foldl (fun n d => n * shBox r d) (shElem r)

/-- A record is valid (R138 to R140). -/
def shapeOk (addr r : Nat) : Bool :=
  let e := shElem r
  addr % 64 == 0 && bitsOf r 1535 720 == 0 && bitsOf r 383 352 == 0 && bitsOf r 95 78 == 0 && !r.testBit 71
    && shFmt r ≤ 8 && shBounds r ≤ 1 && shSwz r ≤ 4 && decide (shBase r < 2 ^ 57) && shBase r % e == 0
    && 1 ≤ shRank r && shRank r ≤ 5
    && ((List.range 5).all fun d =>
      if d < shRank r then shExt r d != 0 && shBox r d != 0 && shBox r d ≤ 1024
      else shExt r d == 0 && shBox r d == 0 && shStr r d == 0)
    && ((List.range 5).all fun d => decide (shStr r d < 2 ^ 48) && shStr r d % e == 0)
    && shFill r / 2 ^ (8 * e) == 0 && boxBytes r ≤ 1048576 && (shSwz r == 0 || e * shBox r 0 % 8 == 0)

/-- The address of a tensor element, none when out of bounds (R141). -/
def elemAddr (r : Nat) (xs : List Int) : Option Nat :=
  if (List.range (shRank r)).all fun d => decide (0 ≤ xs.getD d 0) && decide (xs.getD d 0 < (shExt r d : Int)) then
    some ((List.range (shRank r)).foldl
      (fun a d => a + (xs.getD d 0).toNat * (if d = 0 then shElem r else shStr r d)) (shBase r))
  else none

/-- A route 0 read of a gathering in 64-byte pieces: the bytes, or the faulting address and the reason. -/
def readPieces (s : State) (v : Via) (c va : Nat) : Nat → State × Except (Nat × Nat) (List Byte)
  | 0 => (s, .ok [])
  | n + 1 =>
    match agentRead s v c va 64 with
    | (s1, .error r) => (s1, .error (va, r))
    | (s1, .ok bs) =>
      match readPieces s1 v c (va + 64) n with
      | (s2, .error e) => (s2, .error e)
      | (s2, .ok l) => (s2, .ok (bs ++ l))

/-- Use the record at an address through a gathering's record cache (R65): its bits, or the fault of a fill. The
cache keeps the most recently used first. -/
def recordUse (s : State) (g c addr : Nat) : State × Except (Nat × Nat) Nat :=
  match (s.gath g).recs.find? fun e => e.ctx == c && e.addr == addr with
  | some e => (s.setGath g fun x => { x with recs := e :: x.recs.filter (· != e) }, .ok e.val)
  | none =>
    match readPieces s { core := none, gath := some g } c addr 3 with
    | (s1, .error e) => (s1, .error e)
    | (s1, .ok bs) =>
      let e : RecEntry := { ctx := c, addr := addr, val := bytesVal bs }
      (s1.setGath g fun x => { x with recs := (e :: x.recs).take 32 }, .ok e.val)

/-- One round of the generator (R240): k0, k1, x0 to x3. -/
def rngRound (k0 k1 x0 x1 x2 x3 : Nat) : Nat × Nat × Nat × Nat × Nat × Nat :=
  let p0 := 0xD3A58F2B * x0
  let p1 := 0xC8E4F137 * x2
  ((k0 + 0x9D1C6A47) % 2 ^ 32, (k1 + 0xB5E3872D) % 2 ^ 32, (p1 / 2 ^ 32) ^^^ x1 ^^^ k0, p1 % 2 ^ 32,
    (p0 / 2 ^ 32) ^^^ x3 ^^^ k1, p0 % 2 ^ 32)

/-- `n` rounds. -/
def rngRounds : Nat → Nat × Nat × Nat × Nat × Nat × Nat → Nat × Nat × Nat × Nat × Nat × Nat
  | 0, x => x
  | n + 1, x => rngRounds n (rngRound x.1 x.2.1 x.2.2.1 x.2.2.2.1 x.2.2.2.2.1 x.2.2.2.2.2)

/-- RngBlock (R240). -/
def rngBlock (seed tid coord blk : Nat) : Nat :=
  let r := rngRounds 8
    (seed % 2 ^ 32, seed / 2 ^ 32 % 2 ^ 32, tid % 2 ^ 32, coord % 2 ^ 32, coord / 2 ^ 32 % 2 ^ 32, blk % 2 ^ 32)
  r.2.2.1 + 2 ^ 32 * r.2.2.2.1 + 2 ^ 64 * r.2.2.2.2.1 + 2 ^ 96 * r.2.2.2.2.2

/-- The linear coordinate of a tensor element modulo 2^64 (R241). -/
def linearCoord (r : Nat) (xs : List Int) : Nat :=
  toBits 64 ((List.range 5).foldr
    (fun d acc => xs.getD d 0 + (if d < shRank r then (shExt r d : Int) else 1) * acc) 0)

/-- The words that RNG draws for an element (R393): seed and width, operands: coordinates, then the block number. -/
def rngDraw (seed w r : Nat) (args : List Nat) : Nat :=
  rngBlock seed (shTid r) (linearCoord r ((args.take (args.length - 1)).map (sInt 32))) (args.getLastD 0) % 2 ^ (32 * w)

/-- What RECLD reports of a record (R396). -/
def recordReport (a r : Nat) : Nat := bit (shapeOk a r) * 2 ^ 31 + shSwz r % 16 * 256 + shFmt r * 16 + shRank r

end Sys2Proof.Machine
end

