-- ==== Sys2Proof/Machine/Serve.lean ====
section
/-! DEFINITION. The operand log at work: placing a word's accesses (R337, R405), serving them in an order that the
memory model allows (R106, R114, R116, R406), and replaying parked ones (R41). -/

namespace Sys2Proof.Machine

/-- The private backing address of an offset at or above 64 (R27). -/
def backingAddr (rcd : Nat) (slot : Slot) (w t o : Nat) : Nat :=
  (rcPrivBase rcd + (slot.core * 4096 + slot.lane * 64 + slot.q * w + t) * (rcPriv rcd - 64) + (o - 64)) % 2 ^ 64

/-- The location of a scratchpad offset: its window line's physical address in mapped mode (R21). -/
def scratchPlace (fo : Option Folio) (o : Nat) : Loc :=
  match fo.bind fun f => f.win.find? fun e => e.sl == o / 128 with
  | some e => e.pl * 128 + o % 128
  | none => scratchLoc o

/-- The AKIND of a private access's range fault (R42). -/
def privAkind (op o : Nat) : Nat := if o < 64 then (if opKind op = .read then 0 else 1) else 3

/-- A scratchpad access: its range (R18). -/
def placeScratch (s : State) (slot : Slot) (c op : Nat) (a : Acc) (who : List Nat) : State × Placed :=
  if scratchBytes (s.rcdOf slot) < a.va + a.len then
    faultAcc s slot c a who (if opKind op = .read then 0 else 1) 0 a.va 8
  else (s, { acc := some { a with loc := scratchPlace (s.folioOf slot) a.va }, trap := none })

/-- A private access: its range, its slice byte or its backing (R27). -/
def placePriv (s : State) (slot : Slot) (c op w : Nat) (a : Acc) (who : List Nat) : State × Placed :=
  if rcPriv (s.rcdOf slot) < a.va + a.len then faultAcc s slot c a who (privAkind op a.va) 0 a.va 7
  else if a.va < 64 then (s, { acc := some { a with loc := sliceLoc a.va }, trap := none })
  else placeAcc s slot c op { a with va := backingAddr (s.rcdOf slot) slot w a.t a.va } who

/-- An LDT access whose record is still to be read (R344): `va` is the record's address, `args` the coordinates. An
element out of bounds makes no access: its result is in `data`. -/
def placeLdt (s : State) (slot : Slot) (c d lim : Nat) (a : Acc) (who : List Nat) : State × Placed :=
  if a.va % 64 ≠ 0 then (s, { acc := none, trap := some (0x1A, 0) })
  else
    match recordUse s (gathOf slot.core) c a.va with
    | (s1, .error e) => faultAcc s1 slot c a who 0 0 e.1 e.2
    | (s1, .ok r) =>
      if shapeOk a.va r = false ∨ shRank r ≠ a.args.length then (s1, { acc := none, trap := some (0x1A, 0) })
      else
        let e := shElem r
        -- an 8-byte element's D is a pair, which must lie below the count as any pair (R244; DEDUCED, log 123)
        if e = 8 ∧ lim < d + 2 then (s1, { acc := none, trap := some (0x02, 0) })
        else match elemAddr r (a.args.map (sInt 32)) with
        | none => (s1, { acc := some { a with loc := 2 ^ 76, data := shFill r, args := [e], st := .waiting }, trap := none })
        | some x =>
          placeAcc s1 slot c 0x126 { a with va := x, len := e, data := 0, args := [e] } who

/-- Registers of an image word's coordinate block (R357). -/
def imgBlock (op dim : Nat) : Nat :=
  let nc := imgCoords dim
  if op = 0x152 then nc + 2 * imgGrads dim
  else if op = 0x156 then 3
  else if op = 0x158 then 1
  else if op = 0x150 ∨ op = 0x154 ∨ op = 0x159 then nc
  else nc + 1

/-- Cut a list into runs of `n`. -/
def chunks (n : Nat) : Nat → List Nat → List (List Nat)
  | 0, _ => []
  | k + 1, l => l.take n :: chunks n k (l.drop n)

/-- The quad's coordinates kept behind the block. -/
def quadArgs (op dim : Nat) (args : List Nat) : List (List Nat) :=
  chunks (imgCoords dim) 3 (args.drop (imgBlock op dim))

/-- An image access at its issue (R355, R363, R364): the descriptor is read and checked; the texels of a read form
are translated, and the descriptor is kept in `vals`; a store finds its address and its bytes. `len` is 0 while the
descriptor of a store is still to be read. -/
def placeImage (s : State) (slot : Slot) (c op : Nat) (f : Full) (a : Acc) (who : List Nat) : State × Placed :=
  let dim := f.c.toNat % 8
  let xs := a.args.take (imgBlock op dim)
  if a.va % 64 ≠ 0 then (s, { acc := none, trap := some (0x1A, 0) })
  else
    match readDesc s slot c a.va with
    | (s1, .error r) => faultAcc s1 slot c a who (opAkind op) 2 a.va r
    | (s1, .ok d) =>
      if imageFits op (f.cls.toNat % 2) dim a.va d = false then (s1, { acc := none, trap := some (0x1A, 0) })
      else if opImst op then
        match imAddr d xs with
        | none => (s1, { acc := none, trap := none })
        | some x =>
          let tb := texBytes (imFmt d)
          let bits := if op = 0x15C then texelBits d a.data else a.data % 2 ^ (8 * tb)
          placeAcc s1 slot c op
            { a with va := x, len := tb, data := bits, args := if imSwizzled d then [1] else [] } who
      else
        match placeUnits s1 slot c ((a.va, 64) :: tapUnits (texBytes (imFmt d)) (imageTaps d op xs (quadArgs op dim a.args))) with
        | (s2, .error e) => faultAcc s2 slot c a who 0 2 e.1 e.2
        | (s2, .ok l) => (s2, { acc := some { a with loc := 2 ^ 76, st := .waiting, spans := l, vals := [(0, d)] }, trap := none })

/-- A parked record read of RNG or RECLD is made again (R41, R393, R396): what the word draws or reports is in `data`. -/
def placeRecord (s : State) (slot : Slot) (c op : Nat) (f : Full) (a : Acc) (who : List Nat) : State × Placed :=
  match recordUse s (gathOf slot.core) c a.va with
  | (s1, .error e) => faultAcc s1 slot c a who 0 0 e.1 e.2
  | (s1, .ok r) =>
    let put (x : Nat) : Placed := { acc := some { a with loc := 2 ^ 77, st := .waiting, data := x }, trap := none }
    if op = 0x1B3 then (s1, put (recordReport a.va r))
    else if shapeOk a.va r = false ∨ shRank r ≠ f.cls.toNat % 8 then (s1, { acc := none, trap := some (0x1A, 0) })
    else (s1, put (rngDraw (rcSeed (s1.rcdOf slot)) (2 ^ (f.cls.toNat / 8)) r a.args))

/-- Place any access of a logged word. -/
def placeAny (s : State) (slot : Slot) (q : Quire) (op : Nat) (f : Full) (a : Acc) (who : List Nat) : State × Placed :=
  -- a parked SPAWN is replayed by the executor's words
  if op = 0x1B1 then (s, { acc := some a, trap := none })
  else if op = 0x1B0 ∨ op = 0x1B3 then placeRecord s slot q.ctx op f a who
  else
  match opSpace op with
  | .scratch => placeScratch s slot q.ctx op a who
  | .priv => if a.st = .parked then placeAcc s slot q.ctx op a who else placePriv s slot q.ctx op q.w a who
  | .tile => if a.len = 0 then placeLdt s slot q.ctx f.d.toNat (if f.u then 128 else q.regs) a who else placeAcc s slot q.ctx op a who
  | .image =>
    if a.len = 0 then placeImage s slot q.ctx op f a who else placeAcc s slot q.ctx op a who
  | _ => placeAcc s slot q.ctx op a who

/-- Place the accesses of a word in thread order. -/
def placeAll (slot : Slot) (q : Quire) (op : Nat) (f : Full) (uni : Bool) (act : List Nat) :
    List Acc → State → State × List Acc × List Trapped
  | [], s => (s, [], [])
  | a :: rest, s =>
    let who := if uni then act else [a.t]
    let r := placeAny s slot q op f a who
    let x := placeAll slot q op f uni act rest r.1
    (x.1, r.2.acc.toList ++ x.2.1,
      (match r.2.trap with
        | some k => who.map fun t => ⟨t, k.1, k.2, r.2.va⟩
        | none => []) ++ x.2.2)

/-- Bind the units of an image read that `pick` names and that are not bound yet, in order: the values so far, or a fault. -/
def bindUnits (s : State) (slot : Slot) (c : Nat) (pick : Nat → Bool) :
    List ((Nat × Nat) × Nat) → List (Nat × Nat) → State × Except (Nat × Nat) (List (Nat × Nat))
  | [], vs => (s, .ok vs)
  | u :: us, vs =>
    if vs.any (fun v => v.1 == u.2 + 1) || !pick u.2 then bindUnits s slot c pick us vs
    else
      match readUnit s slot c u.1.1 u.1.2 with
      | (s1, .error r) => (s1, .error (u.1.1, r))
      | (s1, .ok x) => bindUnits s1 slot c pick us ((u.2 + 1, x) :: vs)

/-- An image read binds the units that `pick` names, each at its moment (R105, R364); when all are bound its result is written. -/
def performImage (s : State) (slot : Slot) (q : Quire) (e : LogEntry) (a : Acc) (pick : Nat → Bool) : State × Option (Nat × Nat) :=
  let dim := e.f.c.toNat % 8
  let xs := a.args.take (imgBlock e.op dim)
  let qs := quadArgs e.op dim a.args
  match a.vals.find? fun v => v.1 == 0 with
  | none => (s, none)
  | some (_, d) =>
    let n := texBytes (imFmt d)
    let taps := imageTaps d e.op xs qs
    let us := tapUnits n taps
    match bindUnits s slot q.ctx pick us.zipIdx a.vals with
    | (s2, .error r) => (s2, some r)
    | (s2, .ok vs) =>
      let got (k : Nat) : Option Nat := (vs.find? fun v => v.1 == k + 1).map (·.2)
      if (List.range us.length).all fun k => (got k).isSome then
        (accDone s2 slot e a fun q =>
          putResult q e.uni a.t e.f.d.toNat (imageRegs e.op e.f.cls.toNat)
            (imageValue d e.op e.f.cls.toNat xs qs (tapRaws n taps ((List.range us.length).map fun k => (got k).getD 0))), none)
      else
        (s2.setQuire slot fun q =>
          { q with log := logPut e.seq a (fun y => { y with vals := (0, d) :: vs.filter fun v => v.1 != 0 }) q.log }, none)

/-- Entries whose accesses are all done leave the log, and their counters come down (R256, R338, R405). -/
def sweepLog (q : Quire) : Quire :=
  let out := q.log.filter fun e => e.acc.all (·.st == .done)
  out.foldl (fun q e => varDone (match e.ctr with
                                  | some k => ctrDown q k
                                  | none => q) e.seq)
    { q with log := q.log.filter fun e => !(e.acc.all (·.st == .done)) }

/-- One route 3 write is performed at the home and its access ends (R69). -/
def performTileWrite (s : State) (m : Msg) : State :=
  let s1 : State := { s with msgs := s.msgs.filter fun x => x.id != m.id }
  match m.kind with
  | .write3 data key back =>
    let s2 := homeWriteCells s1 key data
    match back with
    | some b =>
      s2.setQuire b.1 fun q =>
        sweepLog
          { q with
            log := updWhere (fun x => x.seq == b.2.1)
              (fun x => { x with acc := updWhere (fun y => y.t == b.2.2.1 && y.piece == b.2.2.2) (fun y => { y with st := .done }) x.acc }) q.log }
    | none => s2
  | _ => s

/-- Route 3 writes of a gathering are performed at the home (R69, R119). -/
def performTileWrites (s : State) (g : Nat) : State :=
  (s.msgs.filter fun m => m.src == g && match m.kind with | .write3 .. => true | _ => false).foldl performTileWrite s

/-- A route 3 read waits for its gathering's own writes of the line: they are performed first (R69). -/
def settleTile (s : State) (g line : Nat) : State :=
  (s.msgs.filter fun m => m.src == g && m.line == line && match m.kind with | .write3 .. => true | _ => false).foldl performTileWrite s

/-- A route 3 read by an engine of a gathering, within one line (R118): its own writes of the line are performed first (R69); an NC
page is read at its home, the host or the peer (R14). -/
def tileRead (s : State) (g : Nat) (p : Page) (n : Nat) : State × Nat :=
  let s1 := settleTile s g (lineOf p.loc)
  if p.nc then let s2 := prepareNc s1 none p.key p.loc n; (s2, bytesVal (readBytes s2 none p.key p.loc n))
  else let z := leaseRead s1 (.tile g) p.key p.loc n; (z.1, bytesVal z.2)

/-- A gathering's own lease copy of a line is dropped before a route 3 write leaves (R69). -/
def dropOwn (s : State) (g line : Nat) : State := { s with leases := s.leases.filter fun l => !(l.at_ == .tile g && l.line == line) }

/-- An SW128 image store goes to the home as a route 3 write (R363, R69). -/
def performTileStore (s : State) (slot : Slot) (e : LogEntry) (a : Acc) : State :=
  if s.msgs.any fun m => match m.kind with | .write3 _ _ (some b) => b == (slot, e.seq, a.t, a.piece) | _ => false then s
  else
    sendMsg (dropOwn s (gathOf slot.core) (lineOf a.loc)) (lineOf a.loc) (gathOf slot.core) none
      (.write3 (cellsAt a.loc (bytesOf a.len a.data)) a.key (some (slot, e.seq, a.t, a.piece)))

/-- An access writes the scratchpad. -/
def scratchWriter (e : LogEntry) : Bool := opSpace e.op == .scratch && (opStore e.op || opAtomic e.op)

/-- A scratchpad write waits for the quire's own older matrix words that have yet to read its bytes (R127). -/
def benchHolds (s : State) (slot : Slot) (e : LogEntry) (a : Acc) : Bool :=
  scratchWriter e
    && (benchOf s slot).any fun b => decide (b.seq < e.seq) && (benchSpans b).any fun r => overlaps a.va a.len r.1 r.2

/-- An entry's reads of B wait: its B is still to be written by an older scratchpad write of its quire (R127), or an older
acquire of its threads has still to take its value (R115 condition 4, R116). -/
def benchBehind (s : State) (b : Bench) : Bool :=
  ((s.quire b.slot).map fun q => q.log.any fun e =>
    decide (e.seq < b.seq) && e.acc.any fun a =>
      a.st != .done && ((scratchWriter e && (benchSpans b).any fun r => overlaps a.va a.len r.1 r.2)
        || (entAcq e.op e.f && (e.uni || b.act.contains a.t)))).getD false

/-- What is done with a placement made after the word: the access goes on, parks again, or traps its threads at
the next rally head, dropping what was held behind it (R41). -/
def settlePlaced (s : State) (slot : Slot) (e : LogEntry) (a : Acc) (r : Placed) : State :=
  s.setQuire slot fun q =>
    let put (bs : List Acc) : List LogEntry :=
      updWhere (fun x => x.seq == e.seq) (fun x => { x with acc := x.acc.flatMap fun y => if y.same a then bs else [y] }) q.log
    match r.acc with
    | some b => { q with log := put (splitAcc b) }
    | none =>
      let l := put [{ a with st := .done }]
      match r.trap with
      | none => { q with log := l }
      | some k =>
        { q with
          log := l.map fun x =>
            if e.seq < x.seq then
              { x with acc := updWhere (fun y => (y.t == a.t || e.uni) && accOverlap a y) (fun y => { y with st := .done }) x.acc }
            else x
          deferred := q.deferred ++ [(if e.uni then e.act else [a.t], k.1, k.2, r.va, e.pc)] }

/-- The spans that an access touches now: of an image read, those of the units that `pick` names. -/
def pickSpans (a : Acc) (pick : Nat → Bool) : List (Nat × Loc × Nat) :=
  if a.spans = [] then accSpans a else (a.spans.zipIdx.filter fun z => z.2 != 0 && pick (z.2 - 1)).map (·.1)

/-- Perform one access that may be performed (R106); `pick` names the units that an image read binds. A read follows what its own
threads have posted to its bytes (R114). -/
def performAcc (s0 : State) (slot : Slot) (q : Quire) (e : LogEntry) (a : Acc) (pick : Nat → Bool) : State :=
  let g := gathOf slot.core
  let s := if opWrites e.op then s0 else settleOwn s0 q (accThreads e a) (pickSpans a pick)
  match opSpace e.op with
  | .scratch => performScratch s slot q e a
  | .priv => performPriv s slot q e a
  | .const => if a.nc then performNc s slot q e a else performLease s slot e a
  | .tile =>
    let s1 := settleTile s g (lineOf a.loc)
    if a.nc && a.len != 0 then performNc s1 slot q e a else performLease s1 slot e a
  | .image =>
    if opImst e.op then
      if a.nc then performNc (if a.args = [1] then dropOwn s g (lineOf a.loc) else s) slot q e a
      else if a.args = [1] then performTileStore s slot e a
      else performStore s slot q e a
    else
      match performImage s slot q e a pick with
      | (s1, none) => s1
      | (s1, some x) =>
        let who := if e.uni then e.act else [a.t]
        -- issued before the region of its thread, it acts as outside it (R185)
        let before : Bool := (((q.th[a.t]?).bind (·.tryTh)).map fun y => decide (e.seq < y.since)).getD false
        let r := faultAcc s1 slot q.ctx { a with vals := [], spans := [], st := if before then .parked else a.st } who 0 2 x.1 x.2
        settlePlaced r.1 slot e a r.2
  | .generic =>
    if e.op = 0x1B0 ∨ e.op = 0x1B3 then
      accDone s slot e a fun q => putResult q e.uni a.t e.f.d.toNat (if e.op = 0x1B0 then 2 ^ (e.f.cls.toNat / 8) else 1) a.data
    else if a.nc then performNc s slot q e a
    else if opAtomic e.op then performAtomic s slot e a
    else if opStore e.op then performStore s slot q e a
    else performLoad s slot q e a

/-- The atomics of one instruction that are performed together (R348): those to one line, or, for ATOMS, all of them. -/
def atomMates (e : LogEntry) (a : Acc) : List Acc :=
  e.acc.filter fun b => b.st == .waiting && (opSpace e.op == .scratch || lineOf b.loc == lineOf a.loc)

/-- Perform an access; the atomics of one instruction to one line are performed one after another in ascending thread order,
with no write of another between them, once all of them may be (R110, R348). -/
def performGroup (s : State) (slot : Slot) (q : Quire) (e : LogEntry) (a : Acc) (pick : Nat → Bool) : State :=
  if opAtomic e.op then
    let mates := atomMates e a
    if mates.any (heldBack q { e with acc := [] }) then s
    else mates.foldl (fun s b => performAcc s slot q e b pick) s
  else performAcc s slot q e a pick

/-- The scope of an entry's ordered access. -/
def entScope (f : Full) : Nat := f.c.toNat % 8

/-- Serve one access of the log if it may be performed now; a release first does what its scope waits for (R113,
R116). -/
def serveAcc (s : State) (slot : Slot) (seq t piece : Nat) (pick : Nat → Bool) : State :=
  match s.quire slot with
  | none => s
  | some q =>
    match q.log.find? fun e => e.seq == seq with
    | none => s
    | some e =>
      match e.acc.find? fun a => a.t == t && a.piece == piece with
      | none => s
      | some a =>
        -- each unit of an image read takes its own moment (R105, R114)
        if a.st != .waiting || (a.spans = [] && heldBack q e a) || benchHolds s slot e a then s
        else if entRel e.op e.f then
          performGroup (drainClass s slot (accThreads e a) (waitClass (s.folioOf slot) (entScope e.f))) slot q e a pick
        else if a.spans = [] then performGroup s slot q e a pick
        else performGroup s slot q e a fun k => pick k && !heldBack q e (accUnit a k)

/-- Serve a quire's operand log, oldest first. -/
def serveQuire (s : State) (slot : Slot) : State :=
  match s.quire slot with
  | none => s
  | some q =>
    let ids := q.log.flatMap fun e => e.acc.map fun a => (e.seq, a.t, a.piece)
    (ids.foldl (fun s i => serveAcc s slot i.1 i.2.1 i.2.2 fun _ => true) s).setQuire slot sweepLog

/-- Serve one access of a log alone, out of its place (R107): for an image read, `piece` names the unit that is bound. -/
def serveOne (s : State) (slot : Slot) (seq t piece : Nat) : State :=
  let image := ((s.quire slot).map fun q => q.log.any fun e => e.seq == seq && opSpace e.op == .image && !opImst e.op).getD false
  (serveAcc s slot seq t (if image then 0 else piece) (fun k => !image || k == piece)).setQuire slot sweepLog

/-- Some access of threads `ts` has not been done (R115 condition 1, R406). -/
def busyThreads (q : Quire) (ts : List Nat) : Bool :=
  q.log.any fun e => e.acc.any fun a => a.st != .done && (e.uni || ts.contains a.t)

/-- The accesses of a word enter the operand log (R256, R405). -/
def logAccs (s : State) (cur : Cur) (op : Nat) (f : Full) (uni : Bool) (accs : List Acc) : State :=
  if accs = [] then s
  else
    let k := if f.cen then some f.csel.toNat else none
    s.setQuire cur.slot fun q =>
      let q1 := match k with
                | some k => ctrUp q k
                | none => q
      { q1 with
        log := q1.log ++ [{ seq := q1.seq, pc := cur.pc, op := op, f := f, uni := uni, ctr := k, act := cur.act, acc := accs }] }

/-- Pages of accesses that the TLBs do not hold (R33). -/
def missing (s : State) (slot : Slot) (c op : Nat) (l : List Acc) : List Nat :=
  if opSpace op = .generic ∨ opSpace op = .const then
    ((l.filter fun a => a.va < 2 ^ 57 &&
        (tlbLookup s { core := some slot.core, gath := some (gathOf slot.core) } c a.va).isNone).map
      fun a => a.va / 65536).dedup
  else []

/-- Walks begin, or wait for a free walker, for pages that a word misses (R33, R34); the word waits for them. -/
def startWalks (s : State) (slot : Slot) (c : Nat) (pages : List Nat) : State :=
  fillWalkers (pages.foldl (fun s p =>
    if s.walks.any fun w => w.ctx == c && w.page == p && w.slot == some slot then s
    else
      s.named fun i s =>
        { s with
          walks := s.walks ++ [{ id := i, ctx := c, page := p, root := none, core := some slot.core, gath := gathOf slot.core
                                 slot := some slot, discard := false }] }) s)

/-- Whether a word reads a record or a descriptor at its issue (R344, R357). -/
def readsFirst (op : Nat) : Bool := opSpace op == .image || opSpace op == .tile

/-- The second register of an LDT's pair, once its record gives an element of 8 bytes, is a destination too (R257, R344). -/
def pairLate (op : Nat) (f : Full) (q : Quire) (accs : List Acc) : List (Nat × Bool × Nat × Word) :=
  if op = 0x126 then
    (accs.filter fun a => a.st != .parked && a.args == [8]).map fun a =>
      (a.t, !f.u, f.d.toNat + 1, keyVal q a.t (!f.u) (f.d.toNat + 1))
  else []

/-- A logged word (R337, R338, R340): each actor is checked, traps or makes its access; the accesses are served at once
unless the word was issued lazily. One that reads a record or a descriptor first follows its threads' older acquires (R115
condition 4). -/
def accWord (op : Nat) (f : Full) (uni : Bool) (chk : State → Quire → Cur → Nat → Option Nat)
    (mk : Quire → Cur → Nat → Acc) (s : State) : Host.Outcome State Fault Refusal :=
  match s.active with
  | none => .next s
  | some cur =>
    match s.quire cur.slot with
    | none => .next s
    | some q =>
      -- an access made once is made by a member of a region where one is active, and any thread's check stops it (R340)
      let one := ((cur.act.find? q.member).orElse fun _ => cur.act.head?).toList
      let found := cur.act.filterMap fun t => (chk s q cur t).map fun k => (t, k)
      let ts := if uni then one else cur.act
      let bad := if uni then (found.take 1).flatMap fun e => one.map fun t => (t, e.2) else found
      let want := (ts.filter fun t => !(bad.any fun e => e.1 == t)).map (mk q cur)
      let miss := missing s cur.slot q.ctx op want
      if readsFirst op && acqWaits q ts then .next (againCur (serveQuire s cur.slot) cur)
      else if cur.lazy ∧ miss ≠ [] then .next (againCur (startWalks s cur.slot q.ctx miss) cur)
      else
        let r := placeAll cur.slot q op f uni cur.act want s
        let trapped : List Trapped :=
          (bad.flatMap fun e => (if uni then cur.act else [e.1]).map fun t => ⟨t, e.2, 0, 0⟩) ++ r.2.2
        let d := dropTraps r.1 { cur with was := cur.was ++ pairLate op f q r.2.1 } trapped
        let s2 := logAccs d.1 d.2 op f uni (r.2.1.flatMap splitAcc)
        .next (if cur.lazy then s2 else serveQuire s2 cur.slot)

/-- Parked accesses are replayed from their entries in program order (R41, R405, R406). -/
def replayQuire (s : State) (slot : Slot) : State :=
  match s.quire slot with
  | none => s
  | some q =>
    let parked := q.log.flatMap fun e => (e.acc.filter fun a => a.st == .parked).map fun a => (e, a)
    let s1 := parked.foldl (fun s p =>
      match (s.quire slot).bind fun q => (q.log.find? fun e => e.seq == p.1.seq).bind fun e => e.acc.find? fun a => a.same p.2 with
      | some a =>
        if a.st = .parked then
          let r := placeAny s slot q p.1.op p.1.f a (if p.1.uni then p.1.act else [a.t])
          settlePlaced r.1 slot p.1 a r.2
        else s
      | none => s) s
    serveQuire s1 slot

end Sys2Proof.Machine
end

