-- ==== Sys2Proof/Machine/LoadStore.lean ====
section
/-! DEFINITION. Loads and stores (R334 to R344) and the prefetch (R345). -/

namespace Sys2Proof.Machine

/-- The offset of an immediate form (R335). -/
def immOffset (ordered : Bool) (f : Full) : Int :=
  if ordered then sInt 13 (f.b.toNat * 32 + f.c.toNat / 8) else sInt 16 (f.b.toNat * 256 + f.c.toNat)

/-- The offset of a thread: the immediate, or the scaled index register (R335). -/
def accOffset (x ordered : Bool) (f : Full) (q : Quire) (cur : Cur) (t : Nat) : Int :=
  if x then sInt 32 (block q cur f.sb t f.b.toNat 1) * (2 ^ (f.c.toNat / 8 % 8) : Nat) else immOffset ordered f

/-- The generic address (R335). -/
def genAddr (x ordered : Bool) (f : Full) (q : Quire) (cur : Cur) (t : Nat) : Nat :=
  toBits 64 ((block q cur f.sa t f.a.toNat 2 : Int) + accOffset x ordered f q cur t)

/-- The scratchpad or private offset (R335). -/
def locAddr (x ordered : Bool) (f : Full) (q : Quire) (cur : Cur) (t : Nat) : Nat :=
  toBits 32 ((block q cur f.sa t f.a.toNat 1 : Int) + accOffset x ordered f q cur t)

/-- Bytes of a size code (R336). -/
def sizeBytes (cls : Nat) : Nat :=
  match cls % 8 with
  | 0 => 1
  | 1 => 2
  | 2 => 4
  | 3 => 8
  | 4 => 16
  | 5 => 1
  | _ => 2

/-- An access not yet placed. -/
def newAcc (t va len data : Nat) (args : List Nat) : Acc :=
  { t := t, piece := 0, va := va, loc := 0, len := len, spans := [], inTry := false, got := none, vals := [], key := .opened
    nc := false, st := .waiting, data := data, args := args }

/-- The checks of a scoped access in the order of its entry (R339, R348): scope, private mode, deterministic mode,
region. `det` says the form is restricted in a deterministic launch, `unsafe_` that it traps inside a region. -/
def scopeCheck (scratch det unsafe_ : Bool) (scope : Option Nat) (s : State) (q : Quire) (t : Nat) : Option Nat :=
  let rcd := s.rcdOf q.slot
  match scope with
  | some 7 => some 0x09
  | some k =>
    if scratch ∧ rcMapped rcd = false ∧ 4 ≤ k then some 0x09
    else if det ∧ rcDet rcd ∧ k ≠ 0 ∧ k ≠ 2 then some 0x20
    else if unsafe_ ∧ q.member t then some 0x28
    else none
  | none => if unsafe_ ∧ q.member t then some 0x28 else none

/-- A load or store word (R334 to R340): opcode, form, space. -/
def memWord (op : Nat) (x ordered local_ unsafe_ : Bool) (f : Full) (s : State) : Host.Outcome State Fault Refusal :=
  let addr (q : Quire) (cur : Cur) (t : Nat) : Nat :=
    if local_ then locAddr x ordered f q cur t else genAddr x ordered f q cur t
  let n := sizeBytes f.cls.toNat
  accWord op f f.u
    (fun s q cur t =>
      match scopeCheck (opSpace op == .scratch) (opAcqLoad op) (unsafe_ || ordered)
        (if ordered then some (f.c.toNat % 8) else none) s q t with
      | some k => some k
      | none => if addr q cur t % n = 0 then none else some 0x08)
    (fun q cur t =>
      newAcc t (addr q cur t) n
        (if opStore op then block q cur f.u t f.d.toNat (sizeRegs f.cls.toNat) % 2 ^ (8 * n) else 0) []) s

def execLd (_ : Hdr) (f : Full) (s : State) : Host.Outcome State Fault Refusal := memWord 0x100 false false false false f s
def execLdAcq (_ : Hdr) (f : Full) (s : State) : Host.Outcome State Fault Refusal := memWord 0x101 false true false false f s
def execSt (_ : Hdr) (f : Full) (s : State) : Host.Outcome State Fault Refusal := memWord 0x102 false false false false f s
def execStRel (_ : Hdr) (f : Full) (s : State) : Host.Outcome State Fault Refusal := memWord 0x103 false true false false f s
/-- LD.chk (R341). -/
def execLdChk (_ : Hdr) (f : Full) (s : State) : Host.Outcome State Fault Refusal := memWord 0x104 false false false false f s
def execLdX (_ : Hdr) (f : Full) (s : State) : Host.Outcome State Fault Refusal := memWord 0x108 true false false false f s
def execLdAcqX (_ : Hdr) (f : Full) (s : State) : Host.Outcome State Fault Refusal := memWord 0x109 true true false false f s
def execStX (_ : Hdr) (f : Full) (s : State) : Host.Outcome State Fault Refusal := memWord 0x10A true false false false f s
def execStRelX (_ : Hdr) (f : Full) (s : State) : Host.Outcome State Fault Refusal := memWord 0x10B true true false false f s
def execLds (_ : Hdr) (f : Full) (s : State) : Host.Outcome State Fault Refusal := memWord 0x110 false false true false f s
def execLdsAcq (_ : Hdr) (f : Full) (s : State) : Host.Outcome State Fault Refusal := memWord 0x111 false true true false f s
/-- STS: inside a region it traps (R186). -/
def execSts (_ : Hdr) (f : Full) (s : State) : Host.Outcome State Fault Refusal := memWord 0x112 false false true true f s
def execStsRel (_ : Hdr) (f : Full) (s : State) : Host.Outcome State Fault Refusal := memWord 0x113 false true true true f s
def execLdsX (_ : Hdr) (f : Full) (s : State) : Host.Outcome State Fault Refusal := memWord 0x118 true false true false f s
def execLdsAcqX (_ : Hdr) (f : Full) (s : State) : Host.Outcome State Fault Refusal := memWord 0x119 true true true false f s
def execStsX (_ : Hdr) (f : Full) (s : State) : Host.Outcome State Fault Refusal := memWord 0x11A true false true true f s
def execStsRelX (_ : Hdr) (f : Full) (s : State) : Host.Outcome State Fault Refusal := memWord 0x11B true true true true f s
/-- LDP and STP (R343). -/
def execLdp (_ : Hdr) (f : Full) (s : State) : Host.Outcome State Fault Refusal := memWord 0x120 false false true false f s
def execStp (_ : Hdr) (f : Full) (s : State) : Host.Outcome State Fault Refusal := memWord 0x121 false false true true f s
def execLdpX (_ : Hdr) (f : Full) (s : State) : Host.Outcome State Fault Refusal := memWord 0x122 true false true false f s
def execStpX (_ : Hdr) (f : Full) (s : State) : Host.Outcome State Fault Refusal := memWord 0x123 true false true true f s
/-- LDC reads on route 1 (R342). -/
def execLdc (_ : Hdr) (f : Full) (s : State) : Host.Outcome State Fault Refusal := memWord 0x124 false false false false f s
def execLdcX (_ : Hdr) (f : Full) (s : State) : Host.Outcome State Fault Refusal := memWord 0x125 true false false false f s

/-- LDT: a tensor element through a shape record (R344). -/
def execLdt (_ : Hdr) (f : Full) (s : State) : Host.Outcome State Fault Refusal :=
  accWord 0x126 f f.u (fun _ _ _ _ => none)
    (fun q cur t =>
      newAcc t (block q cur true t f.a.toNat 2) 0 0
        ((List.range (f.c.toNat % 8)).map fun i => block q cur f.sb t (f.b.toNat + i) 1)) s

/-- One prefetch (R345): a token request, or the line brought into its L2 home; a fault drops it. -/
def prefetch (s : State) (slot : Slot) (c va : Nat) (excl l2 : Bool) : State :=
  match xlate s { core := some slot.core, gath := some (gathOf slot.core) } c va .read with
  | (s1, .error _) => s1
  | (s1, .ok p) =>
    let line := lineOf p.loc
    let g := gathOf slot.core
    if p.nc ∨ (winFind s1 p.loc).isSome then s1
    else if l2 then touchHome (settleFor s1 p.key line none) line
    else
      let s2 := settleFor (settleKey s1 g p.key line) p.key line (some g)
      if excl then
        if (heldOf s2 g line).tok = 64 then touchLine s2 g (false, line) else sendRequest s2 g line .write
      else if canRead s2 g line then touchLine s2 g (false, line)
      else sendRequest s2 g line .read

/-- PREF (R345). -/
def prefWord (x : Bool) (f : Full) (s : State) : Host.Outcome State Fault Refusal :=
  match s.active with
  | none => .next s
  | some cur =>
    match s.quire cur.slot with
    | none => .next s
    | some q =>
      .next ((actors cur f.u).foldl (fun s t =>
        prefetch s cur.slot q.ctx (genAddr x false f q cur t) (f.cls.toNat.testBit 0) (f.cls.toNat.testBit 1)) s)

def execPref (_ : Hdr) (f : Full) (s : State) : Host.Outcome State Fault Refusal := prefWord false f s
def execPrefX (_ : Hdr) (f : Full) (s : State) : Host.Outcome State Fault Refusal := prefWord true f s

end Sys2Proof.Machine
end

