-- ==== Sys2Proof/Machine/Atomic.lean ====
section
/-! DEFINITION. Atomics and reductions (R346 to R348). -/

namespace Sys2Proof.Machine

/-- Bytes of an atomic's unit (R346). -/
def unitBytes (op : Nat) (f : Full) : Nat := 4 * atomRegs op f

/-- An atomic word: checks of R348, one access for each actor. -/
def atomWord (op : Nat) (f : Full) (s : State) : Host.Outcome State Fault Refusal :=
  let scratch := opSpace op == .scratch
  let n := unitBytes op f
  let r := atomRegs op f
  let cas := op = 0x142 ∨ op = 0x147
  let addr (q : Quire) (cur : Cur) (t : Nat) : Nat := block q cur f.sa t f.a.toNat (if scratch then 1 else 2)
  accWord op f f.u
    (fun s q cur t =>
      match scopeCheck scratch true true (some (f.c.toNat % 8)) s q t with
      | some k => some k
      | none => if addr q cur t % n = 0 then none else some 0x08)
    (fun q cur t =>
      newAcc t (addr q cur t) n 0
        (block q cur f.sb t f.b.toNat r :: (if cas then [block q cur f.sb t (f.b.toNat + r) r] else []))) s

def execAtom (_ : Hdr) (f : Full) (s : State) : Host.Outcome State Fault Refusal := atomWord 0x140 f s
def execAtomF (_ : Hdr) (f : Full) (s : State) : Host.Outcome State Fault Refusal := atomWord 0x141 f s
def execAtomCas (_ : Hdr) (f : Full) (s : State) : Host.Outcome State Fault Refusal := atomWord 0x142 f s
def execRed (_ : Hdr) (f : Full) (s : State) : Host.Outcome State Fault Refusal := atomWord 0x143 f s
def execRedF (_ : Hdr) (f : Full) (s : State) : Host.Outcome State Fault Refusal := atomWord 0x144 f s
def execAtoms (_ : Hdr) (f : Full) (s : State) : Host.Outcome State Fault Refusal := atomWord 0x145 f s
def execAtomsF (_ : Hdr) (f : Full) (s : State) : Host.Outcome State Fault Refusal := atomWord 0x146 f s
def execAtomsCas (_ : Hdr) (f : Full) (s : State) : Host.Outcome State Fault Refusal := atomWord 0x147 f s

end Sys2Proof.Machine
end

