-- ==== Sys2Proof/Machine/Fence.lean ====
section
/-! DEFINITION. FENCE, PFENCE and RFENCE (R365 to R367, R115, R119). -/

namespace Sys2Proof.Machine

/-- An interlocked word: traps, then it waits until every older access of its threads is done, then acts (R115
condition 1, R406). -/
def interlocked (chk : State → Quire → Nat → Option Nat) (body : State → Cur → Quire → State) (s : State) :
    Host.Outcome State Fault Refusal :=
  match s.active with
  | none => .next s
  | some cur =>
    match s.quire cur.slot with
    | none => .next s
    | some q =>
      let bad := cur.act.filterMap fun t => (chk s q t).map fun k => (⟨t, k, 0, 0⟩ : Trapped)
      let d := dropTraps s cur bad
      if d.2.act = [] then .next d.1
      else
        let s1 := serveQuire d.1 cur.slot
        match s1.quire cur.slot with
        | none => .next s1
        | some q1 => .next (if busyThreads q1 d.2.act then againCur s1 d.2 else body s1 d.2 q1)

/-- Older acquires of a word's active threads take their values before the word's own event (R115 condition 4, R116): whether one
has still to. `parked` says that the word is an acquire itself, which waits for their parked accesses too (R406). -/
def bindAcquires (parked : Bool) (s : State) (cur : Cur) : State × Bool :=
  let still (s : State) : Bool :=
    ((s.quire cur.slot).map fun q => acqWaits q cur.act || (parked && parkedThreads q cur.act)).getD false
  if still s then (serveQuire s cur.slot, still (serveQuire s cur.slot)) else (s, false)

/-- FENCE.scope (R365): what the scope's wait class asks for is done before it ends. -/
def execFence (_ : Hdr) (f : Full) (s : State) : Host.Outcome State Fault Refusal :=
  interlocked
    (fun _ q t => if f.cls.toNat % 8 = 7 then some 0x09 else if q.member t then some 0x28 else none)
    (fun s cur _ => drainClass s cur.slot cur.act (waitClass (s.folioOf cur.slot) (f.cls.toNat % 8))) s

/-- Route 3 writes of threads of a quire are performed at the home (R119). -/
def ownTileWrites (s : State) (slot : Slot) (ts : List Nat) : State :=
  (s.msgs.filter fun m => match m.kind with
    | .write3 _ _ (some b) => b.1 == slot && ts.contains b.2.2.1
    | _ => false).foldl performTileWrite s

/-- PFENCE.w.k (R366, R119): the threads' writes through route w, posted ones included, and, for w = 0, the gathering's pending
writes are performed; then the reading route's lines are marked EXPIRED. -/
def execPfence (_ : Hdr) (f : Full) (s : State) : Host.Outcome State Fault Refusal :=
  interlocked (fun _ q t => if q.member t then some 0x28 else none)
    (fun s cur q =>
      let g := gathOf cur.slot.core
      let w := f.cls.toNat % 4
      let s1 := performRuns (if w = 0 then drainGath s g else ownTileWrites s cur.slot cur.act) fun m =>
        postedBy q cur.act m && match m.kind with | .posted _ _ p => p.route == w | _ => false
      expireLeases s1
        (fun w =>
          match f.cls.toNat / 4 % 4 with
          | 1 => w == .constant cur.slot.core
          | 2 => w == .sampler cur.slot.core
          | _ => w == .tile g) q.ctx) s

/-- RFENCE drops the context's record-cache entries of the gathering (R367, R66). -/
def execRfence (_ : Hdr) (_ : Full) (s : State) : Host.Outcome State Fault Refusal :=
  interlocked (fun _ q t => if q.member t then some 0x28 else none)
    (fun s cur q =>
      s.setGath (gathOf cur.slot.core) fun x => { x with recs := x.recs.filter fun e => e.ctx != q.ctx }) s

end Sys2Proof.Machine
end

