-- ==== Sys2Proof/Machine/Barrier.lean ====
section
/-! DEFINITION. Barrier objects (R153 to R156) and the barrier instructions (R368 to R372). -/

namespace Sys2Proof.Machine

/-- Folio-relative number of a device core. -/
def relCore (fo : Option Folio) (core : Nat) : Nat := ((fo.map fun f => f.cores.idxOf core)).getD 0

/-- The valid instance that a folio-relative core uses (R153, R368). -/
def barFind (fo : Option Folio) (num rc : Nat) : Option Bar :=
  fo.bind fun f => f.bars.find? fun b => b.num == num && b.v && (b.core == none || b.core == some rc)

/-- An instance's key. -/
def sameBar (x y : Bar) : Bool := x.num == y.num && x.core == y.core

/-- Change one instance of a folio. -/
def setBar (s : State) (fo : Nat) (b : Bar) (g : Bar → Bar) : State :=
  s.setFolio fo fun x => { x with bars := updWhere (sameBar b) g x.bars }

/-- A phase completes when its arrivals are complete (R154). -/
def completePhase (b : Bar) : Bar :=
  if b.arr = b.a ∧ b.pend = 0 then
    { b with
      ph := (b.ph + 1) % 65536, lerr := b.err || b.got != b.decl, arr := 0, decl := 0, got := 0, err := false }
  else b

/-- The checks of a barrier word at one thread: region, open section, invalid instance (R156, R368, R433). -/
def barCheck (os inst : Bool) (num : Nat) (s : State) (q : Quire) (t : Nat) : Option Nat :=
  if q.member t then some 0x28
  else if os && sectionOpen s q t then some 0x23
  else if inst && (barFind (s.folio q.folio) num (relCore (s.folio q.folio) q.slot.core)).isNone then some 0x1C
  else none

/-- A barrier word with its traps: `whole` is the code that every other active thread takes, if any (R399). -/
def barWord (os inst : Bool) (num : Nat) (whole : State → Cur → Quire → Option Nat) (body : State → Cur → Quire → State) (s : State) :
    Host.Outcome State Fault Refusal :=
  match s.active with
  | none => .next s
  | some cur =>
    match s.quire cur.slot with
    | none => .next s
    | some q =>
      let bad := cur.act.filterMap fun t => (barCheck os inst num s q t).map fun k => (⟨t, k, 0, 0⟩ : Trapped)
      let rest := cur.act.filter fun t => !(bad.any fun e => e.t == t)
      match if rest = [] then none else whole s { cur with act := rest } q with
      | some k => .next (dropTraps s cur (bad ++ rest.map fun t => ⟨t, k, 0, 0⟩)).1
      | none =>
        let d := dropTraps s cur bad
        .next (if d.2.act = [] then d.1 else body d.1 d.2 q)

/-- No further trap. -/
def noTrap (_ : State) (_ : Cur) (_ : Quire) : Option Nat := none

/-- Any instance that BARINIT or BARINVAL would change is busy (R155). -/
def barBusy (fo : Option Folio) (num : Nat) (p : Bar → Bool) : Bool :=
  (fo.map fun f => f.bars.any fun b => b.num == num && b.v && p b && (b.wait != 0 || b.pend != 0)).getD false

/-- BARINIT (R155, R369). -/
def execBarinit (_ : Hdr) (f : Full) (s : State) : Host.Outcome State Fault Refusal :=
  let num := f.cls.toNat
  let wide := f.c.toNat % 2 = 1
  let hit (s : State) (cur : Cur) (q : Quire) (b : Bar) : Bool :=
    wide || b.core == none || b.core == some (relCore (s.folio q.folio) cur.slot.core)
  barWord false false num (fun s cur q => if barBusy (s.folio q.folio) num (hit s cur q) then some 0x1B else none)
    (fun s cur q =>
        let rc := relCore (s.folio q.folio) cur.slot.core
        let n := block q cur true (cur.act.headD 0) f.a.toNat 1 % 65536
        let b : Bar :=
          { num := num, core := if wide then none else some rc, v := true, a := if n = 0 then 65536 else n, arr := 0
            pend := 0, decl := 0, got := 0, ph := 0, err := false, lerr := false, wait := 0 }
        s.setFolio q.folio fun x => { x with bars := b :: x.bars.filter fun y => !(y.num == num && hit s cur q y) }) s

/-- BARINVAL (R155, R369). -/
def execBarinval (_ : Hdr) (f : Full) (s : State) : Host.Outcome State Fault Refusal :=
  let num := f.cls.toNat
  barWord false false num (fun s _ q => if barBusy (s.folio q.folio) num (fun _ => true) then some 0x1B else none)
    (fun s _ q => s.setFolio q.folio fun x => { x with bars := x.bars.filter fun y => y.num != num }) s

/-- Units of one thread arrive while the phase takes them: the units left, the last token, the instance (R370). -/
def arriveUnits : Nat → Nat → Bar → Nat × Nat × Bar
  | 0, tok, b => (0, tok, b)
  | n + 1, tok, b =>
    if b.arr < b.a then arriveUnits n b.ph (completePhase { b with arr := b.arr + 1 }) else (n + 1, tok, b)

/-- The threads of an arrival in order: results by thread, and the threads from the one that blocks on, with their units (R370). -/
def arriveAll : List (Nat × Nat) → Bar → List (Nat × Nat) × List (Nat × Nat) × Bar
  | [], b => ([], [], b)
  | (t, n) :: rest, b =>
    let r := arriveUnits n b.ph b
    if r.1 = 0 then
      let x := arriveAll rest r.2.2
      ((t, r.2.1) :: x.1, x.2.1, x.2.2)
    else ([], (t, r.1) :: rest, r.2.2)

/-- BARARR and BARARR.n (R370): every arrival is a release at the barrier's scope. -/
def arriveWord (units : Quire → Cur → Nat → Nat) (f : Full) (s : State) : Host.Outcome State Fault Refusal :=
  let num := f.cls.toNat
  barWord true true num noTrap
    (fun s cur q0 =>
      let s1 := serveQuire s cur.slot
      match s1.quire cur.slot, barFind (s1.folio q0.folio) num (relCore (s1.folio q0.folio) cur.slot.core) with
      | some q, some b =>
        if busyThreads q cur.act ∧ cur.prog = [] then againCur s1 cur
        else
          let todo := if cur.prog = [] then (actors cur f.u).map fun t => (t, min (units q cur t) 65536) else cur.prog
          let s2 := if b.core = none then drainClass s1 cur.slot cur.act (waitClass (s1.folioOf cur.slot) 2) else s1
          let r := arriveAll todo b
          let blocked := r.2.1 != []
          let held := if blocked then cur.act.length else 0
          let was := if cur.prog = [] then 0 else cur.act.length
          let s3 := setBar s2 q.folio b fun _ => { r.2.2 with wait := r.2.2.wait + held - was }
          let s4 := s3.setQuire cur.slot fun q => r.1.foldl (fun q e => q.putD f.u e.1 f.d.toNat 1 e.2) q
          if blocked then
            againCur s4 { cur with prog := r.2.1 }
          else s4
      | _, _ => s1) s

def execBararr (_ : Hdr) (f : Full) (s : State) : Host.Outcome State Fault Refusal := arriveWord (fun _ _ _ => 1) f s
def execBararrN (_ : Hdr) (f : Full) (s : State) : Host.Outcome State Fault Refusal :=
  arriveWord (fun q cur t => block q cur f.sa t f.a.toNat 1) f s

/-- The tokens of a wait: read at its first issue (R371). -/
def waitTokens (f : Full) (q : Quire) (cur : Cur) : List (Nat × Nat) :=
  if cur.prog = [] then (actors cur f.u).map fun t => (t, block q cur f.sa t f.a.toNat 1) else cur.prog

/-- BARWAIT, and BARTEST in a deterministic launch: blocked while some token is the phase's (R371, R196); it sees the phase after
older acquires have taken their values (R116). -/
def waitBody (op : Nat) (f : Full) (s0 : State) (cur : Cur) : State :=
  match bindAcquires true s0 cur with
  | (s, true) => againCur s cur
  | (s, false) =>
    match s.quire cur.slot with
    | none => s
    | some q =>
      match barFind (s.folio q.folio) f.cls.toNat (relCore (s.folio q.folio) cur.slot.core) with
      | none => s
      | some b =>
        let toks := waitTokens f q cur
        let was := if cur.prog = [] then 0 else cur.act.length
        if toks.any fun e => e.2 == b.ph then
          blockCur (setBar s q.folio b fun x => { x with wait := x.wait + cur.act.length - was }) { cur with prog := toks }
            .barwait op f
        else
          let s1 := setBar s q.folio b fun x => { x with wait := x.wait - was }
          if op = 0x16C then s1.setQuire cur.slot fun q => (actors cur f.u).foldl (fun q t => q.putPred f.u t (f.d.toNat % 16) true) q
          else s1

/-- BARWAIT (R371). -/
def execBarwait (_ : Hdr) (f : Full) (s : State) : Host.Outcome State Fault Refusal :=
  barWord true true f.cls.toNat noTrap (fun s cur _ => waitBody 0x16B f s cur) s

/-- BARTEST (R371, R196). -/
def execBartest (_ : Hdr) (f : Full) (s : State) : Host.Outcome State Fault Refusal :=
  barWord true true f.cls.toNat noTrap
    (fun s0 cur q =>
      if rcDet (s0.rcdOf cur.slot) then waitBody 0x16C f s0 cur
      else
        match bindAcquires true s0 cur with
        | (s, true) => againCur s cur
        | (s, false) =>
          match barFind (s.folio q.folio) f.cls.toNat (relCore (s.folio q.folio) cur.slot.core) with
          | none => s
          | some b =>
            s.setQuire cur.slot fun q0 =>
              (waitTokens f q0 cur).foldl (fun q e => q.putPred f.u e.1 (f.d.toNat % 16) (e.2 != b.ph)) q0) s

/-- BARWAIT_RELEASE: the phase has moved (R371). -/
def execBarwaitRelease (slot : Slot) (s : State) : Host.Outcome State Fault Refusal :=
  releaseWord slot .barwait (fun w s cur => waitBody w.op w.f s cur) s

/-- FBAR: each thread of the leading set arrives with a release at `.fo`, and the quire is blocked (R125, R372). -/
def execFbar (_ : Hdr) (f : Full) (s : State) : Host.Outcome State Fault Refusal :=
  barWord true false 0 noTrap
    (fun s cur q0 =>
      let s1 := serveQuire s cur.slot
      match s1.quire cur.slot with
      | none => s1
      | some q =>
        if busyThreads q cur.act then againCur s1 cur
        else
          let s2 := drainClass s1 cur.slot cur.act (waitClass (s1.folioOf cur.slot) 2)
          let s3 := s2.setFolio q0.folio fun x => { x with fbar := x.fbar ++ cur.act.map fun t => (q.qid, t) }
          blockCur s3 cur .fbar 0x16E f) s

/-- Every thread of the folio that has not exited has arrived in the round (R372). -/
def fbarDone (s : State) (fo : Nat) : Bool :=
  match s.folio fo with
  | none => false
  | some x =>
    x.fbar != [] && (s.quires.filter fun q => q.folio == fo).all fun q =>
      q.notExited.all fun t => x.fbar.contains (q.qid, t)

/-- FBAR_ROUND_COMPLETE: the round completes and its quires go on (R372). -/
def execFbarRoundComplete (fo : Nat) (s : State) : Host.Outcome State Fault Refusal :=
  if fbarDone s fo then
    let slots := (s.quires.filter fun q => q.folio == fo && (q.wait.map fun w => w.why == .fbar).getD false).map (·.slot)
    let s1 := s.setFolio fo fun x => { x with fbar := [] }
    .next (slots.foldl (fun s q => match takeUp s q with
                                   | some r => finishWord r.1
                                   | none => s) s1)
  else .next s

/-- A folio's tag on a core; an absent one is IDLE (R148). -/
def tagOf (fo : Option Folio) (core n : Nat) : Option Tag := fo.bind fun f => f.tags.find? fun t => t.core == core && t.num == n

/-- A tag's state. -/
def tagState (fo : Option Folio) (core n : Nat) : TagSt := ((tagOf fo core n).map (·.st)).getD .idle

/-- The tags an instruction names as a mask of the folio's T (R373). -/
def tagMask (form : Bool) (f : Full) (q : Quire) (cur : Cur) (tags : Nat) : Nat :=
  if form then block q cur true (cur.act.headD 0) f.a.toNat 2 % 2 ^ tags else 2 ^ f.b.toNat

/-- The code of a tag state (R374). -/
def tagCode (t : TagSt) : Nat :=
  match t with
  | .idle => 0
  | .collecting => 1
  | .running => 2
  | .done => 3

/-- A tag word under way (R373, R196): it waits or writes its answer, seen after older acquires have taken their values (R116). -/
def tagBody (op : Nat) (f : Full) (mask : Nat) (s0 : State) (cur : Cur) : State :=
  match bindAcquires true s0 cur with
  | (s, true) => againCur s cur
  | (s, false) =>
    let fo := s.folioOf cur.slot
    let det := rcDet (s.rcdOf cur.slot)
    let st (n : Nat) : TagSt := tagState fo cur.slot.core n
    let named := bitList mask 64
    let busy := named.any fun n => st n == .collecting || st n == .running
    let done := named.filter fun n => st n == .done
    let wait : Bool :=
      if op = 0x170 then busy
      else if op = 0x171 then (if det then busy else busy && done == [])
      else det && busy
    let ts := actors cur f.u
    if wait then blockCur s { cur with prog := [(0, mask)] } .tagwait op f
    else
      let put (x : Nat) : State := s.setQuire cur.slot fun q => ts.foldl (fun q t => q.putD f.u t f.d.toNat 1 x) q
      if op = 0x170 then s
      else if op = 0x171 ∨ op = 0x172 then put (done.headD 64)
      else if op = 0x173 then
        s.setQuire cur.slot fun q => ts.foldl (fun q t => q.putPred f.u t (f.d.toNat % 16) (done != [])) q
      else
        let n := named.headD 0
        put (((tagOf fo cur.slot.core n).map (·.lstat)).getD 0 * 256 + tagCode (st n))

/-- A tag word: it traps at members of a region (R373). -/
def tagWord (op : Nat) (form : Bool) (f : Full) (s : State) : Host.Outcome State Fault Refusal :=
  barWord false false 0 noTrap
    (fun s cur q => tagBody op f (tagMask form f q cur (folioTags (s.rcdOf cur.slot))) s cur) s

def execTagwait (_ : Hdr) (f : Full) (s : State) : Host.Outcome State Fault Refusal :=
  tagWord 0x170 (f.cls.toNat.testBit 0) f s
def execTagany (_ : Hdr) (f : Full) (s : State) : Host.Outcome State Fault Refusal := tagWord 0x171 true f s
def execTagffr (_ : Hdr) (f : Full) (s : State) : Host.Outcome State Fault Refusal := tagWord 0x172 true f s
def execTagtest (_ : Hdr) (f : Full) (s : State) : Host.Outcome State Fault Refusal := tagWord 0x173 false f s
/-- TAGRD (R374). -/
def execTagrd (_ : Hdr) (f : Full) (s : State) : Host.Outcome State Fault Refusal := tagWord 0x174 false f s

/-- TAGWAIT_RELEASE: a blocked tag wait goes on when its tags have finished (R373). -/
def execTagwaitRelease (slot : Slot) (s : State) : Host.Outcome State Fault Refusal :=
  releaseWord slot .tagwait
    (fun w s cur => tagBody w.op w.f ((cur.prog.head?.map (·.2)).getD 0) s cur) s

end Sys2Proof.Machine
end

