-- ==== Sys2Proof/Machine/Home.lean ====
section
/-! DEFINITION. The events of the coherence protocol: token requests at the home and at the holders (R78, R79, R94),
persistent requests (R80), the home's report of a silent agent (R81), leases (R89 to R93), and the writes that wait at a
home (R14, R69, R135). -/

namespace Sys2Proof.Machine

/-- A message in flight. -/
def State.msg (s : State) (n : Nat) : Option Msg := s.msgs.find? fun m => m.id == n

/-- A message has been received. -/
def dropMsg (s : State) (n : Nat) : State := { s with msgs := s.msgs.filter fun m => m.id != n }

/-- The host's halves let a request for a line of host memory be served (R98). -/
def bridgeReady (s : State) (line : Nat) (r : Req) : Bool :=
  if isHost (line * 128) then
    match s.bridges.find? fun b => b.line == line with
    | none => false
    | some b =>
      match r with
      | .read => b.h0 != .i && b.h1 != .i
      | .write => (b.h0 == .e || b.h0 == .m) && (b.h1 == .e || b.h1 == .m)
  else true

/-- From its own tokens the home sends one for a READ, all for a WRITE (R78); its version moves on as it gives its last token
up (R90; for a READ: log 91). -/
def homeSends (s : State) (line a : Nat) (r : Req) : State :=
  let h := homeOf s line
  let data : Bool := h.hv && !(heldOf s a line).valid
  if h.ht = 0 ∨ h.win then s
  else
    match r with
    | .read =>
      let own := h.ho && h.ht == 1
      let s1 := if h.ht = 1 then lastToken s line else s
      sendTokens (setHome s1 line fun x => { x with ht := h.ht - 1, ho := h.ho && !own }) line a (some a) 1 own data false
    | .write =>
      sendTokens (setHome (lastToken s line) line fun x => { x with ht := 0, ho := false, hv := false })
        line a (some a) h.ht h.ho data false

/-- A request is forwarded to every other agent that may hold tokens (R78). -/
def forwardAll (s : State) (line a : Nat) (r : Req) : State :=
  ((homeOf s line).hold.filter (· != a)).foldl (fun s b => sendMsg s line a (some b) (.forward r)) s

/-- The bridges ask for an open accessor: copies under a context's key are settled first (R72, R103). -/
def settleOutside (s : State) (a line : Nat) : State := if a < 48 then s else settleFor s .opened line (some a)

/-- Home side of a transient request. A window line is served at its window and gives no tokens (R76). -/
def serveRequest (s : State) (m : Msg) (r : Req) : State :=
  if bridgeReady s m.line r = false then s
  else if (homeOf s m.line).win then setHeld (dropMsg s m.id) m.src m.line fun h => { h with req := none }
  else forwardAll (homeSends (settleOutside (dropMsg s m.id) m.src m.line) m.line m.src r) m.line m.src r

/-- TRANSIENT_READ_REQUEST (R78): a request for a half-held line of host memory waits for the host's answer (R98). -/
def execTransientReadRequest (n : Nat) (s : State) : Host.Outcome State Fault Refusal :=
  match s.msg n with
  | some m => .next (if m.kind = .request .read then serveRequest s m .read else s)
  | none => .next s

/-- TRANSIENT_WRITE_REQUEST (R78). -/
def execTransientWriteRequest (n : Nat) (s : State) : Host.Outcome State Fault Refusal :=
  match s.msg n with
  | some m => .next (if m.kind = .request .write then serveRequest s m .write else s)
  | none => .next s

/-- A holder gives tokens of a line to a requester (R76, R78, R86): `n` of them, the owner token last. -/
def giveTokens (s : State) (a line dst n : Nat) (own : Bool) : State :=
  let h := heldOf s a line
  if n = 0 then s
  else
    let left := h.tok - n
    let s1 := setHeld (tokensLeave s a line) a line fun x =>
      { x with tok := left, own := h.own && !own, valid := h.valid && left != 0, dirty := h.dirty && !own }
    let s2 := if a = 49 then peerSync s1 line else s1
    sendTokens (setHome s2 line fun x => if left = 0 then { x with hold := x.hold.filter (· != a) } else x)
      line a (some dst) n own h.valid (h.dirty && own)

/-- The host caches a half of a line of device memory (R101). -/
def hostCaches (s : State) (line : Nat) : Bool :=
  s.hostLines.any fun e => e.1 == line && (e.2.1 != .i || e.2.2 != .i)

/-- FORWARDED_READ (R78): the owner of two or more sends a non-owner token, the holder of the owner token alone sends it,
another holder sends nothing. The bridge first has the host give up its halves, and returns what is left (R101). Tokens of a line
registered since to a window stay there (R76). -/
def execForwardedRead (n : Nat) (s : State) : Host.Outcome State Fault Refusal :=
  match s.msg n with
  | some m =>
    match m.kind, m.dst with
    | .forward .read, some a =>
      if (homeOf s m.line).win then .next (dropMsg s n)
      else if a = 48 ∧ hostCaches s m.line then .next s
      else
        let h := heldOf s a m.line
        let s1 := wakeGath (dropMsg s n) a
        let s2 := if h.own then (if 2 ≤ h.tok then giveTokens s1 a m.line m.src 1 false else giveTokens s1 a m.line m.src h.tok true)
                  else s1
        .next (if a = 48 then tokensHome s2 48 m.line else s2)
    | _, _ => .next s
  | none => .next s

/-- A request that meets a fill in flight is recorded against it, with the loads bound to the fill (R94). -/
def recordRequest (s : State) (a line : Nat) (dst : Option Nat) : State :=
  let h := heldOf s a line
  if h.req.isSome && !h.valid && h.recorded.isNone then
    setHeld s a line fun x => { x with recorded := some dst, bound := loadsOn s a line }
  else s

/-- FORWARDED_WRITE (R78, R94): a holder sends all its tokens, but for those of a window line (R76). -/
def execForwardedWrite (n : Nat) (s : State) : Host.Outcome State Fault Refusal :=
  match s.msg n with
  | some m =>
    match m.kind, m.dst with
    | .forward .write, some a =>
      if (homeOf s m.line).win then .next (dropMsg s n)
      else if a = 48 ∧ hostCaches s m.line then .next s
      else
        let h := heldOf s a m.line
        let s1 := recordRequest (wakeGath (dropMsg s n) a) a m.line (some m.src)
        .next (giveTokens s1 a m.line m.src h.tok h.own)
    | _, _ => .next s
  | none => .next s

/-- Tokens come home (R76): dirty data comes with the owner token, and an active persistent request is due them (R80). -/
def homeTakes (s : State) (line src tok : Nat) (own data dirty : Bool) : State :=
  let s1 := setHome s line fun h =>
    { h with
      ht := h.ht + tok, ho := h.ho || own, hv := h.hv || (own && data)
      hold := if (heldOf s src line).tok = 0 then h.hold.filter (· != src) else h.hold }
  kickPersist (if own && dirty then cleanLine s1 line else s1) line

/-- An active persistent request of a line is still to be broadcast. -/
def broadcastDue (s : State) (line : Nat) : Bool :=
  s.msgs.any fun m => m.line == line && match m.kind with | .activate _ => true | _ => false

/-- The requester that an active persistent request of a line names, other than `a`, once it has been broadcast (R80). -/
def activeFor (s : State) (line a : Nat) : Option Nat :=
  if broadcastDue s line then none
  else ((s.persists.find? fun p => p.line == line && p.active && p.agent != a)).map (·.agent)

/-- Serve the operand logs of a gathering's quires. -/
def serveGath (s : State) (g : Nat) : State :=
  (s.quires.filter fun q => gathOf q.slot.core == g && q.log != []).foldl (fun s q => serveQuire s q.slot) s

/-- A request of a kind has what it asks for (R78). -/
def reqMet (h : Held) : Req → Bool
  | .read => h.tok != 0 && h.valid
  | .write => h.tok == 64 && h.valid

/-- An agent's request has what it asked for: its pending stores are performed, waiting accesses are served, and a
persistent request that is met is given up (R79, R80, R83). -/
def agentSettled (s : State) (a line : Nat) : State :=
  let h := heldOf s a line
  let s1 :=
    if (h.req.map fun r => reqMet h r.1).getD false then
      serveGath (performLine (setHeld s a line fun x => { x with req := none, fails := 0, recorded := none, bound := [] }) a line) a
    else s
  if (h.pers.map (reqMet h)).getD false && (heldOf s1 a line).pers.isSome then settlePers s1 a line else s1

/-- The importer that has the owner token of the bridge's tokens of a line. -/
def ownerImp (s : State) (line : Nat) : Option Nat := (s.peerOwns.find? fun e => e.1 == line).map (·.2)

/-- The tokens of one entry of the peer table return home (R102, R104). Where the owner token is among them, the home's data becomes
current, and dirty data that the importer has not returned is lost. -/
def returnEntry (s : State) (e : Nat × Nat × Nat) : State :=
  let h := heldOf s 49 e.1
  let n := min e.2.2 h.tok
  let owns : Bool := h.own && (n == h.tok || ownerImp s e.1 == some e.2.1)
  let s1 := if owns ∧ h.dirty then loseLine s e.1 else s
  let s2 := setHeld s1 49 e.1 fun x => { x with tok := x.tok - n, own := x.own && !owns, valid := x.valid && n != h.tok, dirty := x.dirty && !owns }
  let s3 := setHome s2 e.1 fun x =>
    { x with ht := x.ht + n, ho := x.ho || owns, hv := x.hv || owns
             hold := if n = h.tok then x.hold.filter (· != 49) else x.hold }
  kickPersist
    { s3 with
      peerTab := s3.peerTab.filter (· != e)
      peerOwns := if owns then s3.peerOwns.filter fun x => x.1 != e.1 else s3.peerOwns } e.1

/-- A full peer table frees its oldest entry by recalling its tokens from the importers, with their data (R102). -/
def peerRoom (s : State) : State :=
  if s.peerTab.length < 65536 then s
  else
    match s.peerTab.getLast? with
    | some e => returnEntry (if (heldOf s 49 e.1).dirty then setHeld (cleanLine s e.1) 49 e.1 fun x => { x with dirty := false } else s) e
    | none => s

/-- An importer's share of the bridge's tokens of a line grows; a new entry first gets its room (R102). -/
def addShare (s : State) (line imp n : Nat) (own : Bool) : State :=
  let s1 : State :=
    if s.peerTab.any fun e => e.1 == line && e.2.1 == imp then
      { s with peerTab := updWhere (fun e => e.1 == line && e.2.1 == imp) (fun e => (e.1, e.2.1, e.2.2 + n)) s.peerTab }
    else let s0 := peerRoom s; { s0 with peerTab := (line, imp, n) :: s0.peerTab }
  if own then { s1 with peerOwns := (line, imp) :: s1.peerOwns.filter fun e => e.1 != line } else s1

/-- Tokens that reach the fabric bridge go to the importer that asked for the line, or that holds it (R102). -/
def creditImporter (s : State) (line n : Nat) (own : Bool) : State :=
  match ((s.peerAsks.find? fun e => e.1 == line).map (·.2)).orElse fun _ => (s.peerTab.find? fun e => e.1 == line).map (·.2.1) with
  | none => s
  | some imp => addShare s line imp n own

/-- Tokens reach their holder: sent on where a request is recorded against the fill or a persistent request is active
(R80, R94), sent home from a gathering in FLUSHED sleep, which wakes with every line invalid (R96), taken otherwise. The loads bound to a fill before the recorded request take its data once. -/
def tokensReach (s : State) (m : Msg) (tok : Nat) (own data dirty fill : Bool) : State :=
  let s1 := dropMsg s m.id
  match m.dst with
  | none => homeTakes s1 m.line m.src tok own data dirty
  | some a =>
    let h := heldOf s1 a m.line
    let onward : Option (Option Nat) :=
      match (if fill then h.recorded else none), activeFor s1 m.line a with
      | some r, _ => some r
      | none, some b => some (some b)
      | none, none => if a < 48 ∧ (s1.gath a).sleep = .flushed then some none else none
    match onward with
    | some r =>
      let s2 := if fill then fillGone (tokensLeave (bindLoads s1 a m.line h.bound) a m.line) a m.line else s1
      sendTokens s2 m.line a r tok own data dirty
    | none =>
      let s2 := setHeld (allocLine s1 a (false, m.line)) a m.line fun x =>
        { x with tok := x.tok + tok, own := x.own || own, valid := x.valid || data, dirty := x.dirty || (own && dirty) }
      let s3 := agentSettled (if a = 49 then creditImporter s2 m.line tok own else s2) a m.line
      if a = 49 ∧ (heldOf s3 49 m.line).req.isNone then { s3 with peerAsks := s3.peerAsks.filter fun e => e.1 != m.line } else s3

/-- TOKEN_ARRIVAL (R76, R83). -/
def execTokenArrival (n : Nat) (s : State) : Host.Outcome State Fault Refusal :=
  match s.msg n with
  | some m =>
    match m.kind with
    | .tokens tok own data dirty false => .next (tokensReach s m tok own data dirty false)
    | _ => .next s
  | none => .next s

/-- FILL_ARRIVAL (R94): tokens with data for an agent without valid data. -/
def execFillArrival (n : Nat) (s : State) : Host.Outcome State Fault Refusal :=
  match s.msg n with
  | some m =>
    match m.kind with
    | .tokens tok own data dirty true => .next (tokensReach s m tok own data dirty true)
    | _ => .next s
  | none => .next s

/-- An agent's persistent requests, those on their way included (R80). -/
def persistCount (s : State) (a : Nat) : Nat :=
  (s.persists.filter fun p => p.agent == a).length
    + (s.msgs.filter fun m => m.src == a && match m.kind with | .persist _ => true | _ => false).length

/-- An agent registers a persistent request (R79), in place of one of the other kind for the line. -/
def goPersistent (s : State) (a line : Nat) (r : Req) : State :=
  let s1 := if (heldOf s a line).pers.isSome then settlePers s a line else s
  sendMsg (setHeld s1 a line fun h => { h with pers := some r }) line a none (.persist r)

/-- A persistent request of the agent stands for its outstanding one. -/
def persHas (h : Held) (r : Req) : Bool := h.pers == some .write || h.pers == some r

/-- TRANSIENT_REQUEST_TIMEOUT (R79). -/
def execTransientRequestTimeout (agent line : Nat) (s : State) : Host.Outcome State Fault Refusal :=
  let h := heldOf s agent line
  match h.req with
  | some (r, c) =>
    if s.cycle < c + 1024 ∨ persHas h r then .next s
    else
      let s1 := setHeld s agent line fun x =>
        { x with fails := x.fails + 1, fourth := if x.fails = 3 then s.cycle else x.fourth, req := some (r, s.cycle) }
      .next (if 4 ≤ h.fails + 1 ∧ (persistCount s1 agent < 4 ∨ h.pers.isSome) then goPersistent s1 agent line r
             else sendMsg s1 line agent none (.request r))
  | none => .next s

/-- The arbitration pointer of a line (R80). -/
def ptrOf (s : State) (line : Nat) : Nat := ((s.ptrs.find? fun p => p.1 == line).map (·.2)).getD 0

/-- Activate the next waiting persistent request of a line by its pointer (R80). -/
def activateNext (s : State) (line : Nat) : State :=
  let w := (s.persists.filter fun p => p.line == line && !p.active)
  let p := ptrOf s line
  let least (l : List Nat) : Option Nat := l.foldl (fun b a => some (match b with | some x => min x a | none => a)) none
  if s.persists.any fun q => q.line == line && q.active then s
  else
    match (least ((w.map (·.agent)).filter fun a => decide (p ≤ a))).orElse fun _ => least (w.map (·.agent)) with
    | none => s
    | some a =>
      let r := ((w.find? fun q => q.agent == a).map (·.req)).getD .write
      let next := (a + 1) % 50
      let s1 : State :=
        { s with
          persists := updWhere (fun q => q.line == line && q.agent == a) (fun q => { q with active := true }) s.persists
          ptrs := (if next = 0 then [] else [(line, next)]) ++ s.ptrs.filter fun p => p.1 != line }
      sendMsg (setHome s1 line fun h => { h with pra := true }) line a none (.activate r)

/-- An agent's earlier word on its persistent request for the line is still on its way: registrations and deactivations reach the
home in order (DEDUCED from R80, log 110). -/
def persBehind (s : State) (m : Msg) : Bool := s.msgs.any fun x => decide (x.id < m.id) && isPersMsg m.src m.line x

/-- PERSISTENT_REQUEST_REGISTER (R80). -/
def execPersistentRequestRegister (n : Nat) (s : State) : Host.Outcome State Fault Refusal :=
  match s.msg n with
  | some m =>
    match m.kind with
    | .persist r =>
      if persBehind s m then .next s else
      let s1 := dropMsg s n
      .next (activateNext
        { s1 with persists := s1.persists ++ [{ agent := m.src, line := m.line, req := r, active := false }] } m.line)
    | _ => .next s
  | none => .next s

/-- PERSISTENT_BROADCAST (R80): the home and every agent that holds tokens of the line send them to the requester, for a
READ exactly one each, of the "at least one" that R80 asks (DESIGN CHOICE, log 92). A window line gives none, and the requester
gives its request up (R76); a gathering in FLUSHED sleep is sent none (R96). -/
def execPersistentBroadcast (n : Nat) (s : State) : Host.Outcome State Fault Refusal :=
  match s.msg n with
  | some m =>
    match m.kind with
    | .activate r =>
      if bridgeReady s m.line r = false ∨ hostCaches s m.line then .next s
      else if (homeOf s m.line).win then .next (settlePers (setHeld (dropMsg s n) m.src m.line fun h => { h with req := none }) m.src m.line)
      else if m.src < 48 ∧ (s.gath m.src).sleep = .flushed then .next (dropMsg s n)
      else
        let s1 := homeSends (settleOutside (dropMsg s n) m.src m.line) m.line m.src r
        let others := (List.range 50).filter (· != m.src)
        .next (others.foldl (fun s a =>
          let h := heldOf s a m.line
          let s2 := recordRequest (wakeGath s a) a m.line (some m.src)
          match r with
          | .write => giveTokens s2 a m.line m.src h.tok h.own
          | .read =>
            let s3 := giveTokens s2 a m.line m.src (min 1 h.tok) (h.own && h.tok == 1)
            if a = 48 then tokensHome s3 48 m.line else s3) s1)
    | _ => .next s
  | none => .next s

/-- The line that an agent registers when one of its four places falls free: the one that failed first among those that found
none (R79). -/
def nextWaiting (s : State) (agent : Nat) : Option Held :=
  (s.held.filter fun h => h.agent == agent && h.pers.isNone && decide (4 ≤ h.fails) && h.req.isSome).foldl
    (fun (b : Option Held) h => match b with
      | some x => if h.fourth < x.fourth then some h else some x
      | none => some h) none

/-- A persistent request of an agent leaves the table of its home; PRA is cleared if it was active, and the next one of the line is
activated (R80). -/
def freePers (s : State) (a line : Nat) : State :=
  let s1 : State :=
    { s with
      persists := s.persists.filter fun p => !(p.agent == a && p.line == line)
      msgs := s.msgs.filter fun x => !(x.line == line && x.src == a && match x.kind with | .activate _ => true | _ => false) }
  let still := s1.persists.any fun p => p.line == line && p.active
  activateNext (setHome s1 line fun h => { h with pra := still }) line

/-- PERSISTENT_DEACTIVATION (R79, R80): the request leaves the table; PRA is cleared if it was active, and the next one of the
line is activated; the agent registers the line that failed first among those that found no place. -/
def execPersistentDeactivation (n : Nat) (s : State) : Host.Outcome State Fault Refusal :=
  match s.msg n with
  | some m =>
    match m.kind with
    | .deactivate =>
      if persBehind s m then .next s else
      let s3 := freePers (dropMsg s n) m.src m.line
      .next (match nextWaiting s3 m.src with
        | some h =>
          match h.req with
          | some (r, _) => if persistCount s3 m.src < 4 then goPersistent s3 m.src h.line r else s3
          | none => s3
        | none => s3)
    | _ => .next s
  | none => .next s

/-- A message asks an agent for an answer: a forwarded request or a recall to it, or a broadcast to all 50 (R81). -/
def asks (m : Msg) (agent : Nat) : Bool :=
  match m.kind with
  | .forward _ => m.dst == some agent
  | .recall => m.dst == some agent
  | .activate _ => agent != m.src && decide (agent < 50)
  | _ => false

/-- HOME_RESPONSE_TIMEOUT (R81): an agent that has answered nothing for 4,096 cycles, 6,096 when it sleeps, is reported once; the
request keeps waiting. -/
def execHomeResponseTimeout (agent line : Nat) (s : State) : Host.Outcome State Fault Refusal :=
  let limit := if (s.gath agent).sleep = .awake ∨ 48 ≤ agent then 4096 else 6096
  let late (m : Msg) : Bool := m.line == line && asks m agent && !m.told.contains agent && decide (m.sent + limit ≤ s.cycle)
  if s.msgs.any late then
    .next (errorRecord { s with msgs := updWhere late (fun m => { m with told := agent :: m.told }) s.msgs } 0 4 0xFF agent none (line * 128))
  else .next s

/-- The home recalls a line and waits for the answers (R81, R93, R99, R102): a recall goes to each agent that holds tokens. The
operation that needs it completes later, and takes what has not been answered with it. -/
def recallLine (s : State) (line : Nat) : State :=
  if (homeOf s line).win then s
  else (holders s line none).foldl (fun s a => sendMsg s line a (some a) .recall) s

/-- An agent answers a recall: its tokens go home, and a fill on its way is sent home when it comes (R93, R94). -/
def recallAnswer (s : State) (n : Nat) : State :=
  match s.msg n with
  | some m =>
    match m.kind, m.dst with
    | .recall, some a =>
      if (homeOf s m.line).win then dropMsg s n
      else if a = 48 ∧ hostCaches s m.line then s
      else
        let s1 := tokensHome (recordRequest (wakeGath (dropMsg s n) a) a m.line none) a m.line
        if a = 49 then peerSync s1 m.line else s1
    | _, _ => s
  | none => s

/-- Answers to recalls that are due. -/
def recallMoves (s : State) : List Move :=
  (s.msgs.filter fun m => m.kind == .recall).map fun m => Move.recallAnswer m.id

/-- LEASE_REQUEST (R72, R89): a window line takes no lease. -/
def execLeaseRequest (w : LeaseAt) (line : Nat) (k : Key) (s : State) : Host.Outcome State Fault Refusal :=
  .next (if (winFind s (line * 128)).isSome then s else leaseGrant (settleCopies s k (line * 128)) w line k)

/-- LEASE_RENEWAL (R91, R92). -/
def execLeaseRenewal (w : LeaseAt) (line : Nat) (s : State) : Host.Outcome State Fault Refusal :=
  .next ((s.leases.filter fun l => l.at_ == w && l.line == line).foldl (fun s l => leaseRenew s w line l.key) s)

/-- LEASE_RECALL (R93). -/
def execLeaseRecall (line : Nat) (s : State) : Host.Outcome State Fault Refusal := .next (dropLeases s line)

/-- NC_ACCESS_AT_HOME (R14): an access to an NC page in a quire's log is performed at the home or the host. -/
def execNcAccessAtHome (q : Slot) (seq t : Nat) (s : State) : Host.Outcome State Fault Refusal :=
  let nc := ((s.quire q).map fun x => x.log.any fun e => e.seq == seq && e.acc.any fun a => a.t == t && a.nc).getD false
  let all : Nat → Bool := fun _ => true
  .next (if nc then (serveAcc (serveAcc s q seq t 0 all) q seq t 1 all).setQuire q sweepLog else s)

/-- ROUTE3_WRITE_AT_HOME (R69). -/
def execRoute3WriteAtHome (n : Nat) (s : State) : Host.Outcome State Fault Refusal :=
  match s.msg n with
  | some m => .next (performTileWrite s m)
  | none => .next s

/-- POSTED_WRITE_PERFORM (R106, R110, R135). -/
def execPostedWritePerform (n : Nat) (s : State) : Host.Outcome State Fault Refusal :=
  match s.msg n with
  | some m =>
    match m.kind with
    | .posted .. => .next ((postedRun s m).foldl performPosted s)
    | _ => .next s
  | none => .next s

/-- FLUSH_READ_RETURN (R135): every earlier posted write has been performed when the bridge's flushing read returns to a
quire that waits for it. -/
def execFlushReadReturn (q : Slot) (s : State) : Host.Outcome State Fault Refusal :=
  .next (if (s.quire q).isSome then flushPosted s fun _ => true else s)

end Sys2Proof.Machine
end

