-- ==== Sys2Proof/Machine/Bridge.lean ====
section
/-! DEFINITION. The host bridge and the fabric bridge (R97 to R104, R485), and the power manager (R95, R96, R489, R490). -/

namespace Sys2Proof.Machine

/-- A bridge entry; an absent one has both halves I (R97, R98). -/
def bridgeOf (s : State) (line : Nat) : Bridge :=
  (s.bridges.find? fun b => b.line == line).getD { line := line, h0 := .i, h1 := .i }

/-- Change a bridge entry; one with both halves I is dropped. -/
def setBridge (s : State) (b : Bridge) : State :=
  { s with
    bridges := (if b.h0 = .i ∧ b.h1 = .i then [] else [b]) ++ s.bridges.filter fun x => x.line != b.line }

/-- The state of one half. -/
def half (b : Bridge) (k : Nat) : Mesi := if k = 0 then b.h0 else b.h1
/-- Change the state of one half. -/
def setHalf (b : Bridge) (k : Nat) (x : Mesi) : Bridge := if k = 0 then { b with h0 := x } else { b with h1 := x }

/-- A snoop that recalls the graph-head line of a context wakes its executor (R203). -/
def wakeHeads (s : State) (line : Nat) : State :=
  s.later ((s.monitors.filter fun m => m.1 == line).map fun m => Move.event (.graphHeadMonitorWake m.2))

/-- A line of host memory, named by its location. -/
def hostLine (line : Nat) : Bool := isHost (line * 128)

/-- SNPINV (R99): every token is recalled, with dirty data; the half goes to I. -/
def execSnpinv (line h : Nat) (s : State) : Host.Outcome State Fault Refusal :=
  if hostLine line = false ∨ 2 ≤ h then .next s
  else
    let s1 := recallTokens s line none
    .next (wakeHeads (kickPersist (setBridge s1 (setHalf (bridgeOf s1 line) h .i)) line) line)

/-- SNPDATA (R99): the owner token comes home with data, from its holder or from a message in flight; other holders keep their
tokens; the half goes to S. -/
def execSnpdata (line h : Nat) (s : State) : Host.Outcome State Fault Refusal :=
  if hostLine line = false ∨ 2 ≤ h ∨ half (bridgeOf s line) h = .i then .next s
  else
    let s0 := match ownerMsg s line with
              | some m => landOwner s m
              | none => s
    let s1 :=
      match s0.held.find? fun x => x.line == line && x.own with
      | some x =>
        let s1 := setHeld (tokensLeave (wakeGath s0 x.agent) x.agent line) x.agent line fun y =>
          { y with tok := y.tok - 1, own := false, dirty := false, valid := y.valid && decide (2 ≤ y.tok) }
        cleanLine (setHome s1 line fun z =>
          { z with ht := z.ht + 1, ho := true, hv := true, hold := if x.tok = 1 then z.hold.filter (· != x.agent) else z.hold }) line
      | none => s0
    .next (wakeHeads (kickPersist (setBridge s1 (setHalf (bridgeOf s1 line) h .s)) line) line)

/-- SNPCUR (R99): the host takes current data; no token moves and the half keeps its state. -/
def execSnpcur (_line _h : Nat) (s : State) : Host.Outcome State Fault Refusal := .next s

/-- HOST_CACHE_GRANT (R98): the host answers RdShared with S, or RdOwn with E. -/
def execHostCacheGrant (line h : Nat) (exclusive : Bool) (s : State) : Host.Outcome State Fault Refusal :=
  if hostLine line = false ∨ 2 ≤ h ∨ s.hostCache = false then .next s
  else
    let b := bridgeOf s line
    let x := half b h
    .next (setBridge s (setHalf b h (if exclusive then (if x = .m then .m else .e) else if x = .i then .s else x)))

/-- A window line that the host bridge or the fabric bridge accesses is written back and served under an open accessor (R23). -/
def outsideSettle (s : State) (line : Nat) : State :=
  match winFind s (line * 128) with
  | some (f, off) => winOutside s f off .opened
  | none => s

/-- A write of the host or of an importer performed at the home (R101, R102). -/
def outsideWrite (s : State) (cells : List (Nat × Byte)) : State :=
  homeWriteCells (((cells.map fun c => lineOf c.1).dedup).foldl outsideSettle s) .opened cells

/-- The host's state of the halves of a line of device memory (R101). -/
def hostHalves (s : State) (line : Nat) : Bridge :=
  match s.hostLines.find? fun e => e.1 == line with
  | some e => { line := line, h0 := e.2.1, h1 := e.2.2 }
  | none => { line := line, h0 := .i, h1 := .i }

/-- Change it; a line with both halves I is dropped. -/
def setHostHalves (s : State) (b : Bridge) : State :=
  { s with
    hostLines := (if b.h0 = .i ∧ b.h1 = .i then [] else [(b.line, b.h0, b.h1)]) ++ s.hostLines.filter fun e => e.1 != b.line }

/-- Halves of a line that a span touches. -/
def halvesOf (line a n : Nat) : List Nat := [0, 1].filter fun k => decide (line * 128 + 64 * k < a + n) && decide (a < line * 128 + 64 * k + 64)

/-- The host keeps the halves it has read: in S with one token at the bridge, or in E with all 64 (R101). -/
def hostKeeps (s : State) (line : Nat) (hs : List Nat) (excl : Bool) : State :=
  let s1 := if excl then collect s 48 line else if (heldOf s 48 line).tok = 0 then homeGrants s 48 line else s
  setHostHalves s1 (hs.foldl (fun b k =>
    let x := half b k
    setHalf b k (if x = .e ∨ x = .m then x else if excl then .e else .s)) (hostHalves s1 line))

/-- CXL_MEM_READ (R101, R480): a read of device memory under an open accessor takes one token at the home and gives it
back; whether the host keeps what it has read, in S or in E, is the host's choice, and the bridge then keeps the tokens
(log 25). A window line is read in its window, and no token of it is given (R23, R76). -/
def execCxlMemRead (pa len : Nat) (s : State) : Host.Outcome State Fault Refusal :=
  if s.hostMem = false ∨ s.installed < pa + len then .next s
  else
    .next ((spanLines pa len).foldl (fun s l =>
      if (winFind s (l * 128)).isSome then outsideSettle s l
      else
        let s1 := touchHome (if (heldOf s 48 l).tok = 0 then homeObtain (settleFor s .opened l (some 48)) l else s) l
        let c := s1.choose
        let d := c.2.choose
        if c.1 then hostKeeps d.2 l (halvesOf l pa len) d.1 else d.2) s)

/-- CXL_MEM_WRITE (R101, R134): a write of device memory is performed at the home with all tokens. -/
def execCxlMemWrite (pa : Nat) (bytes : List Byte) (s : State) : Host.Outcome State Fault Refusal :=
  if s.hostMem = false ∨ s.installed < pa + bytes.length then .next s
  else .next (outsideWrite s (cellsAt pa bytes))

/-- A request to the bridge for tokens of a line waits for the host (R101). -/
def bridgeAsked (s : State) (line : Nat) : Bool := s.msgs.any fun m => m.line == line && asks m 48

/-- BISNP_RESPONSE (R101): the host gives up its half; when it holds none, the bridge's tokens answer the request that waits for
them, or go home. -/
def execBisnpResponse (line h : Nat) (s : State) : Host.Outcome State Fault Refusal :=
  if hostCaches s line then
    let s1 := setHostHalves s (setHalf (hostHalves s line) h .i)
    .next (if hostCaches s1 line ∨ bridgeAsked s1 line then s1 else tokensHome s1 48 line)
  else .next s

/-- One line of a store of the host, or of a peer to its own memory. -/
def outsideLine (s : State) (line : Nat) (cells : List (Nat × Byte)) : State :=
  let hs := [0, 1].filter fun k => cells.any fun c => decide (c.1 % 128 / 64 = k)
  if hostLine line then
    let s1 := homeWriteLine s .opened line cells
    wakeHeads (setBridge s1 (hs.foldl (fun b k => setHalf b k .i) (bridgeOf s1 line))) line
  else if isPeer (line * 128) then homeWriteLine s .opened line cells
  else
    let b := hostHalves s line
    if hs.all fun k => half b k == .e || half b k == .m then
      setHostHalves (cells.foldl (fun s c => writeM s 48 .opened c.1 c.2) (awayStrikes s 48 line)) (hs.foldl (fun b k => setHalf b k .m) b)
    else s

/-- A store from outside the device (R106, R133, R136): of a host processor to host memory, with every device copy of the line
recalled and the half given up (R99), or to a line of device memory that it holds in E or M (R101); of an exporting peer, or of
another of its importers, to the peer's memory. -/
def outsideStore (s : State) (l : Loc) (bytes : List Byte) : State :=
  let cells := cellsAt l bytes
  ((cells.map fun c => lineOf c.1).dedup).foldl (fun s x => outsideLine s x (cells.filter fun c => lineOf c.1 == x)) s

/-- Fields of an export-table entry (R485). -/
def exV (e : Nat) : Bool := e.testBit 0
def exW (e : Nat) : Bool := e.testBit 1
def exImp (e : Nat) : Nat := bitsOf e 11 2
def exOff (e : Nat) : Nat := bitsOf e 65 41
def exSize (e : Nat) : Nat := bitsOf e 90 66
def exPbase (e : Nat) : Nat := bitsOf e 115 91

/-- The first valid entry of the export table that admits an importer's offset (R485). -/
def exportEntry (s : State) (imp x : Nat) : Option Nat :=
  ((List.range 256).filterMap fun i => (s.exportTab.find? fun e => e.1 == i).map (·.2.toNat)).find? fun e =>
    exV e && (exImp e == imp || exImp e == 0x3FF)
      && decide (exOff e * 2 ^ 25 ≤ x) && decide (x < (exOff e + exSize e) * 2 ^ 25)

/-- What an importer's access meets at the exporter: a reason, or the physical address (R485). -/
def exportCheck (s : State) (imp x : Nat) (write : Bool) : Except Nat Nat :=
  match exportEntry s imp x with
  | none => .error 0x06
  | some e => if write && !exW e then .error 0x04 else .ok (exPbase e * 2 ^ 25 + (x - exOff e * 2 ^ 25))

/-- An importer reads (R102): its bridge's token of the line may be there; else it takes one at once, or asks for one or for all,
as agent 49. -/
def importRead (s : State) (imp line : Nat) : State :=
  let n := ((s.peerTab.find? fun e => e.1 == line && e.2.1 == imp).map (·.2.2)).getD 0
  if n ≠ 0 then s
  else
    let c := s.choose
    let d := c.2.choose
    if c.1 then sendRequest { d.2 with peerAsks := (line, imp) :: d.2.peerAsks.filter fun e => e.1 != line } 49 line (if d.1 then .write else .read)
    else
      let s1 := homeObtain (settleFor d.2 .opened line (some 49)) line
      addShare (homeGrants s1 49 line) line imp 1 ((homeOf s1 line).ho && (homeOf s1 line).ht == 1)

/-- An importer writes (R102): at the exporting home, or in its own copy with all 64 tokens, which then stays with it. -/
def importWrite (s : State) (imp line : Nat) (cells : List (Nat × Byte)) : State :=
  let c := s.choose
  if c.1 ∧ (winFind s (line * 128)).isNone then
    let s1 := collect (settleFor (lineStrikes c.2 line none) .opened line (some 49)) 49 line
    let s2 : State := { s1 with peerTab := s1.peerTab.filter fun e => e.1 != line }
    addShare (cells.foldl (fun s x => writeM s 49 .opened x.1 x.2) s2) line imp 64 true
  else outsideWrite c.2 cells

/-- PEER_ACCESS_AT_EXPORTER (R102, R103, R485): a served write is performed at the home or in the importer's copy; a served read
takes a token, which the bridge shares out to the importer. A window line is served in its window and gives no token (R23, R76).
A refused access makes no event. -/
def execPeerAccessAtExporter (imp off : Nat) (write : Option (List Byte)) (len : Nat) (s : State) :
    Host.Outcome State Fault Refusal :=
  match exportCheck s imp off write.isSome with
  | .error _ => .next s
  | .ok pa =>
    match write with
    | some bs =>
      if s.installed < pa + bs.length then .next s
      else
        let cells := cellsAt pa bs
        .next (((cells.map fun c => lineOf c.1).dedup).foldl (fun s l => importWrite s imp l (cells.filter fun c => lineOf c.1 == l)) s)
    | none =>
      if s.installed < pa + len then .next s
      else
        .next ((spanLines pa len).foldl (fun s l =>
          if (winFind s (l * 128)).isSome then outsideSettle s l else importRead s imp l) s)

/-- An importer's holdings return home (R104). -/
def dropImporter (s : State) (dev : Nat) : State :=
  let s1 := (s.peerTab.filter fun e => e.2.1 == dev).foldl returnEntry s
  { s1 with peerAsks := s1.peerAsks.filter fun e => e.2 != dev }

/-- A line is in the export space of a device. -/
def peerLine (dev line : Nat) : Bool := isPeer (line * 128) && peerOf (line * 128) == dev

/-- Contexts that some lines concern: those of accesses, pending and posted stores and regions on them (R104). -/
def lineContexts (s : State) (p : Nat → Bool) : List Nat :=
  ((s.quires.filter fun q =>
      (q.log.any fun e => e.acc.any fun a => a.st == .waiting && decide (a.loc < 2 ^ 72) && p (lineOf a.loc))
        || (match q.region with
            | some r => (r.reads ++ r.writes).any p
            | none => false)).map (·.ctx)
    ++ (s.pending.filter fun e => p (lineOf e.loc)).map (·.ctx)
    ++ s.msgs.filterMap fun m => match m.kind with
        | .posted _ _ b => if p m.line then some b.ctx else none
        | _ => none).dedup

/-- Waiting accesses to a peer that is gone meet their fault now (R104). -/
def replacePeer (s : State) (dev : Nat) (q : Quire) : State :=
  let l := q.log.flatMap fun e => (e.acc.filter fun a =>
    a.st == .waiting && isPeer a.loc && decide (a.loc < 2 ^ 72) && peerOf a.loc == dev).map fun a => (e, a)
  l.foldl (fun s p =>
    let r := placeAny s q.slot q p.1.op p.1.f p.2 (if p.1.uni then p.1.act else [p.2.t])
    settlePlaced r.1 q.slot p.1 p.2 r.2) s

/-- Error records of PEER_DROP for contexts, or for the management master (R104, R413). -/
def peerDropRecords (s : State) (cs : List Nat) : State :=
  if cs = [] then errorRecord s 0 5 0xFF 49 none 0
  else cs.foldl (fun s c => errorRecord s (errorMaster s (some c)) 5 0xFF 49 (some c) 0) s

/-- The importing side of a lost peer (R104): its lines are dropped, regions that hold one abort with CONFLICT, accesses
meet PEER_DOWN. -/
def dropPeer (s : State) (dev : Nat) : State :=
  let lines := ((s.held.filter fun h => peerLine dev h.line).map (·.line) ++ (s.homes.filter fun h => peerLine dev h.line).map (·.line)).dedup
  let s1 := lines.foldl (fun s l =>
    let s2 := (holders s l none).foldl (fun s a => tokensLeave s a l) s
    loseLine s2 l) s
  let s2 : State :=
    { s1 with
      held := s1.held.filter fun h => !peerLine dev h.line
      homes := s1.homes.filter fun h => !peerLine dev h.line
      leases := s1.leases.filter fun l => !peerLine dev l.line
      pending := s1.pending.filter fun p => !peerLine dev (lineOf p.loc)
      msgs := s1.msgs.filter fun m => !peerLine dev m.line
      persists := s1.persists.filter fun p => !peerLine dev p.line
      ptrs := s1.ptrs.filter fun p => !peerLine dev p.1
      peersDown := dev :: s1.peersDown.filter (· != dev)
      quires := updWhere
        (fun q => match q.region with
          | some r => (r.reads ++ r.writes).any (peerLine dev)
          | none => false) (fun q => strikeRegion q 2) s1.quires }
  s2.quires.foldl (fun s q => replacePeer s dev q) s2

/-- PEER_LINK_DOWN (R104): every path to a device has gone down. -/
def execPeerLinkDown (dev : Nat) (s : State) : Host.Outcome State Fault Refusal :=
  let shared (l : Nat) : Bool := s.peerTab.any fun e => e.1 == l && e.2.1 == dev
  .next (peerDropRecords (dropPeer (dropImporter s dev) dev) (lineContexts s fun l => peerLine dev l || shared l))

/-- An importer has answered nothing for 262,144 cycles on a line: a recall or a request to the fabric bridge, or a broadcast, waits
(R104). -/
def importerLate (s : State) (e : Nat × Nat × Nat) : Bool :=
  s.msgs.any fun m => m.line == e.1 && asks m 49 && decide (m.sent + 262144 ≤ s.cycle)

/-- PEER_RECALL_TIMEOUT (R104): an importer that answers nothing for 262,144 cycles loses its holdings of the line. -/
def execPeerRecallTimeout (dev : Nat) (s : State) : Host.Outcome State Fault Refusal :=
  let out := s.peerTab.filter fun e => e.2.1 == dev && importerLate s e
  .next (if out = [] then s else peerDropRecords (out.foldl returnEntry s) (lineContexts s fun l => out.any fun e => e.1 == l))

/-- Whether the power manager may gate a gathering (R95). -/
def maySleep (s : State) (g : Nat) : Bool :=
  g < 48 && (s.gath g).sleep == .awake && !(s.folios.any fun f => (f.cores.map gathOf).contains g)
    && !(s.quires.any fun q => gathOf q.slot.core == g) && (s.gath g).bench == [] && !(s.huddles.any fun u => u.gath == g)
    && !(s.serving.any fun v => v.huddle.gath == g)
    && !((s.gath g).banks.any fun b => match b with | .cache => false | .scratch _ => false | _ => true)
    && !(s.passes.any fun p => p.tiles.any fun t => t.gath == g)

/-- Tokens on their way to a gathering go home instead; what it has asked for is given up (R96). -/
def turnFlights (s : State) (g : Nat) : State :=
  let mine (m : Msg) : Bool := m.src == g && match m.kind with | .request _ => true | .forward _ => true | _ => false
  let s1 : State :=
    { s with
      msgs := (s.msgs.filter fun m => !mine m).map fun m =>
        if m.dst == some g && m.kind.isTokens then
          { m with dst := none, src := g, kind := match m.kind with
                                                | .tokens n o d y _ => .tokens n o d y false
                                                | k => k }
        else m }
  (s1.held.filter fun h => h.agent == g).foldl (fun s h =>
    let s2 := setHeld s g h.line fun x => { x with req := none, fails := 0, recorded := none, bound := [] }
    if h.pers.isSome then settlePers s2 g h.line else s2) s1

/-- What a gathering does before FLUSHED sleep (R96): its pending stores are performed, its tokens go home, its lease
copies and its cores' path caches are dropped. -/
def flushGath (s : State) (g : Nat) : State :=
  let s1 := turnFlights (drainGath s g) g
  let lines := (s1.held.filter fun h => h.agent == g && h.tok != 0).map (·.line)
  let s2 := lines.foldl (fun s l =>
    let h := heldOf s g l
    let s3 := setHeld (tokensLeave s g l) g l Held.emptied
    let s4 := setHome s3 l fun x =>
      { x with ht := x.ht + h.tok, ho := x.ho || h.own, hv := x.hv || h.own }
    kickPersist (if h.own then cleanLine s4 l else s4) l) s1
  let here (w : LeaseAt) : Bool :=
    match w with
    | .constant c => gathOf c == g
    | .sampler c => gathOf c == g
    | .tile x => x == g
  let s3 := { s2 with leases := s2.leases.filter fun l => !here l.at_ }
  s3.setGath g fun x => { x with tlb := [], recs := [], lru := [] }

/-- GATHERING_SLEEP (R95, R96, R489): RETAIN while the retention budget allows it, FLUSHED beyond it. -/
def execGatheringSleep (g : Nat) (s : State) : Host.Outcome State Fault Refusal :=
  if maySleep s g = false then .next s
  else if (s.gaths.filter fun x => x.sleep == .retain).length < min 48 s.retmax then
    .next (s.setGath g fun x => { x with sleep := .retain })
  else .next ((flushGath s g).setGath g fun x => { x with sleep := .flushed })

/-- GATHERING_WAKE (R95, R96): a gathering in RETAIN wakes to answer; one in FLUSHED wakes only for a placement. -/
def execGatheringWake (g : Nat) (s : State) : Host.Outcome State Fault Refusal :=
  let placed := s.folios.any fun f => (f.cores.map gathOf).contains g
  .next (s.setGath g fun x =>
    match x.sleep with
    | .retain => { x with sleep := .awake }
    | .flushed => if placed then { x with sleep := .awake } else x
    | .awake => x)

/-- The product limit in watts (R12, R489): the bare die's is its integrator's (log 26). -/
def productLimit (p : Product) : Nat :=
  match p with
  | .f1w => 700
  | .f1m => 1200
  | .die => if Config.dieLimit = 0 then 1200 else min Config.dieLimit 1200

/-- GOVERNOR_WINDOW_END (R489, R490). -/
def execGovernorWindowEnd (est : Nat) (s : State) : Host.Outcome State Fault Refusal :=
  let limit := min s.powLimit (productLimit s.product)
  .next
    { s with
      est := est % 65536
      extra := if limit < est then min (s.extra + 1) 60
               else if est * 100 < limit * 95 then s.extra - 1
               else s.extra }

end Sys2Proof.Machine
end

