-- ==== Sys2Proof/Machine/Evict.lean ====
section
/-! DEFINITION. Replacement in the L2 (R70, R71, R93) and in the host bridge's line table (R97, R100). -/

namespace Sys2Proof.Machine

/-- Slice and set of a device-memory line in the L2 (R70). -/
def l2Place (line : Nat) : Nat × Nat :=
  let a := line * 128
  let f (hi lo : Nat) : Nat := a / 2 ^ lo % 2 ^ (hi + 1 - lo)
  (f 12 7 ^^^ f 18 13 ^^^ f 24 19 ^^^ f 30 25 ^^^ f 36 31 ^^^ f 42 37 ^^^ f 48 43 ^^^ f 51 49, f 22 13 ^^^ f 32 23)

/-- What is out of a line (R93): 0 nothing, 1 leases only, 2 tokens. -/
def outClass (s : State) (line : Nat) : Nat :=
  let h := homeOf s line
  if h.ht ≠ 64 then 2 else if s.cycle < h.lexp then 1 else 0

/-- Lines present in the L2, most recently used first (R70, R71). -/
def l2Lines (s : State) : List Nat := (s.homes.filter fun h => isDev (h.line * 128)).map (·.line)

/-- The L2 may evict the line: no window, no persistent request. -/
def l2MayGo (s : State) (line : Nat) : Bool := !(homeOf s line).win && !(s.persists.any fun p => p.line == line)

/-- The victim of a set (R70, R93): of the lowest class present, the least recently used. -/
def l2Victim (s : State) (crowd : List Nat) : Option Nat :=
  let may := crowd.filter (l2MayGo s)
  ([0, 1, 2].findSome? fun c => (may.filter fun l => outClass s l == c).getLast?)

/-- The L2 makes room in the set of `line` where more than 16 lines stand in it (R70, R71): one of those that were there before the
latest goes. What is out is recalled first, and with it every lease copy, also an EXPIRED one, since a line refilled later has VER 0
and no copy (R90; DEDUCED, log 91). -/
def evictL2 (s : State) (line : Nat) : State :=
  let crowd := (l2Lines s).filter fun l => l2Place l == l2Place line
  match l2Victim s (crowd.drop (crowd.length - 16)) with
  | some l =>
    if crowd.length ≤ 16 then s
    else
      let s1 := dropLeases (if outClass s l = 2 then recallTokens s l none else s) l
      { s1 with homes := s1.homes.filter fun h => h.line != l }
  | none => s

/-- Lines that stand in the L2 beyond the 16 ways of their sets: of the lines sorted by slice and set, each that another of its set
precedes by 16 places. -/
def l2Excess (s : State) : List Nat :=
  let ls := l2Lines s
  if ls.length ≤ 16 then []
  else
    let placed := (ls.map fun l => ((l2Place l).1 * 1024 + (l2Place l).2, l)).mergeSort fun a b => decide (a.1 ≤ b.1)
    (placed.zip (placed.drop 16)).filterMap fun e => if e.1.1 = e.2.1 then some e.1.2 else none

/-- Every line that a step has brought into the L2 has had its room made there (R70). -/
def fitL2 (s : State) : State := (l2Excess s).foldl evictL2 s

/-- The bridge evicts an entry (R100): its tokens are recalled, and both halves are given up. The table holds 32,768 entries in
sets of 16 (R97); the spec does not say which set a line has, so an entry may go once any 16 are held. One with a persistent request
stays (R80). -/
def evictBridge (s : State) (line : Nat) : State :=
  if s.bridges.length ≤ 16 ∨ (s.bridges.any fun b => b.line == line) = false ∨ (s.persists.any fun p => p.line == line) then s
  else
    let s1 := setBridge (dropLeases (recallTokens s line none) line) { line := line, h0 := .i, h1 := .i }
    kickPersist { s1 with homes := s1.homes.filter fun h => h.line != line } line

/-- The bridge's table is overfull: its least recently changed entry that may go does. -/
def bridgeMoves (s : State) : List Move :=
  if s.bridges.length ≤ 32768 then [] else ((s.bridges.reverse.find? fun b => !(s.persists.any fun p => p.line == b.line)).map fun b => Move.evictBridge b.line).toList

end Sys2Proof.Machine
end

