-- ==== Sys2Proof/Machine/Graph.lean ====
section
/-! DEFINITION. The task-graph executor: its memory accesses (R198, R502), the checks of a launch record (R202), a
record's consumption (R203 to R206), the decrement of a dependence count (R205), and a node's finish (R207). -/

namespace Sys2Proof.Machine

/-- An executor's route 0 read (R198, R502): a fault writes its record; one on a page that is not valid parks the
executor's access until the replay. -/
def graphRead (s : State) (c va n : Nat) : State × Except Nat (List Byte) :=
  if (s.ctx c).execWait.contains (va / 65536) then (s, .error 0)
  else
    match agentRead s { core := none, gath := none } c va n with
    | (s1, .error r) =>
      let s2 := faultRecord s1 c whoDevice va r 0 0 (r == 0)
      (if r = 0 then s2.setCtx c fun x => { x with execWait := va / 65536 :: x.execWait } else s2, .error r)
    | x => x

/-- A read of many bytes in 64-byte pieces. -/
def graphReadMany (s : State) (c va : Nat) : Nat → State × Except Nat (List Byte)
  | 0 => (s, .ok [])
  | n + 1 =>
    match graphRead s c va 64 with
    | (s1, .error r) => (s1, .error r)
    | (s1, .ok bs) =>
      match graphReadMany s1 c (va + 64) n with
      | (s2, .error r) => (s2, .error r)
      | (s2, .ok l) => (s2, .ok (bs ++ l))

/-- A read made for the consumption of the record at `key`: what it has read once it keeps while it waits for another page (R418,
R503). -/
def keepRead (s : State) (c key va n : Nat) : State × Except Nat (List Byte) :=
  match (s.ctx c).got.find? fun e => e.1 == key && e.2.1 == va with
  | some e => (s, .ok e.2.2)
  | none =>
    match graphRead s c va n with
    | (s1, .ok bs) => (s1.setCtx c fun x => { x with got := (key, va, bs) :: x.got }, .ok bs)
    | x => x

/-- Reads of a consumption in 64-byte pieces; the fuel bounds the pieces. -/
def keepSpan (s : State) (c key : Nat) : Nat → Nat → Nat → State × Except Nat (List Byte)
  | 0, _, _ => (s, .ok [])
  | k + 1, va, n =>
    if n = 0 then (s, .ok [])
    else
      let m := min n (64 - va % 64)
      match keepRead s c key va m with
      | (s1, .error r) => (s1, .error r)
      | (s1, .ok bs) =>
        match keepSpan s1 c key k (va + m) (n - m) with
        | (s2, .error r) => (s2, .error r)
        | (s2, .ok l) => (s2, .ok (bs ++ l))

/-- A consumption has ended. -/
def dropKept (s : State) (c key : Nat) : State := s.setCtx c fun x => { x with got := x.got.filter fun e => e.1 != key }

/-- Executor reads of a span, each within one 64-byte piece; the fuel bounds the pieces. -/
def graphReadSpan (s : State) (c : Nat) : Nat → Nat → Nat → State × Except Nat (List Byte)
  | 0, _, _ => (s, .ok [])
  | k + 1, va, n =>
    if n = 0 then (s, .ok [])
    else
      let m := min n (64 - va % 64)
      match graphRead s c va m with
      | (s1, .error r) => (s1, .error r)
      | (s1, .ok bs) =>
        match graphReadSpan s1 c k (va + m) (n - m) with
        | (s2, .error r) => (s2, .error r)
        | (s2, .ok l) => (s2, .ok (bs ++ l))

/-- Whether an executor's write would succeed: the reason if not; the fault writes its record. -/
def graphProbe (s : State) (c va : Nat) (k : XKind) : State × Option Nat :=
  if (s.ctx c).execWait.contains (va / 65536) then (s, some 0)
  else
    match xlate s { core := none, gath := none } c va k with
    | (s1, .error r) =>
      let s2 := faultRecord s1 c whoDevice va r 1 0 (r == 0)
      (if r = 0 then s2.setCtx c fun x => { x with execWait := va / 65536 :: x.execWait } else s2, some r)
    | (s1, .ok _) => (s1, none)

/-- An executor's route 0 write (R198, R502). -/
def graphWrite (s : State) (c va : Nat) (bs : List Byte) : State × Option Nat :=
  match graphProbe s c va .write with
  | (s1, some r) => (s1, some r)
  | (s1, none) => agentWrite s1 { core := none, gath := none } c va bs

/-- A node's failure reaches its owner (R202). -/
def nodeFailed (s : State) (c : Nat) : State := interrupt (s.setCtx c fun x => { x with nodeFail := true }) c

/-- STATUS 3 and REASON are written in a slot; a fault on the write is dropped after its record (R202, R502). -/
def failSlot (s : State) (c addr reason : Nat) : State :=
  nodeFailed (graphWrite s c (addr + 78) [3, BitVec.ofNat 8 reason]).1 c

/-- Whether a successor number names a slot of the region or none (R202). -/
def succOk (hsize qsize n : Nat) : Bool :=
  n = 0xFFFF || decide (n < 2 ^ hsize + (if qsize = 0 then 0 else 2 ^ qsize))

/-- STATUS, NSUCC and successor slots of a record (R202). -/
def graphFieldsOk (hsize qsize r : Nat) : Bool :=
  rcStatus r == 0 && rcNsucc r ≤ 8 && (List.range (rcNsucc r)).all fun i => succOk hsize qsize (rcSucc r i)

/-- Reserved bits and codes of a COMPUTE record or a template (R200, R202). -/
def layoutOk (r : Nat) : Bool :=
  bitsOf r 1023 772 == 0 && bitsOf r 607 597 == 0 && bitsOf r 583 581 == 0 && bitsOf r 319 313 == 0
    && bitsOf r 255 248 == 0 && bitsOf r 223 222 == 0 && rcTags r ≤ 4 && rcScr r ≤ 6 && rcFcores r ≤ 4 && rcQw r ≤ 2
    && !rcPassmode r && (rcDet r || rcNlog r == 0)

/-- P, CKPT, the ring, an aligned generic address (R13, R151), and CODE (R202). -/
def privConfigOk (r : Nat) : Bool :=
  rcPriv r % 16 == 0 && 16 ≤ rcPriv r && rcPriv r ≤ 65536 && rcCkpt r % 16 == 0 && rcCkpt r ≤ rcPriv r
    && rcRingBase r % 16 == 0 && bitsOf (rcRingBase r) 63 57 == 0 && (rcRingSize r == 0 || (4 ≤ rcRingSize r && rcRingSize r ≤ 16))
    && rcCode r % 8 == 0 && bitsOf r 63 57 == 0

/-- The limits of R168 but for the edition's extents. -/
def folioShapeOk (r : Nat) : Bool :=
  rcFthreads r != 0 && rcFthreads r ≤ 65536 && folioQuires r / folioCores r * quireWidth r ≤ 4096

/-- The extents of an edition (R168). -/
def editionOk (r : Nat) : Bool :=
  rcEx r != 0 && rcEy r != 0 && rcEz r != 0 && decide (editionFolios r < 2 ^ 32)

/-- The checks of a launch record at its consumption, in the order in which R202 lists them: the REASON of the first
that fails (the order among several failures is DEDUCED, log 15). -/
def launchFail (r : Nat) (extents : Bool) : Option Nat :=
  if layoutOk r = false ∨ rcKind r = 3 then some 0x0A
  else if privConfigOk r = false then some 0x0B
  else if rcDet r ∧ (rcNlog r % 4 ≠ 0 ∨ rcNlog r % folioCores r ≠ 0 ∨ rcNlog r < 4 ∨ 192 < rcNlog r) then some 0x08
  else if rcDet r ∧ rcAnyhit r then some 0x09
  else if folioShapeOk r = false ∨ (extents ∧ editionOk r = false) then some 0x01
  else if rcRegs r = 0 ∨ 4096 < quireWidth r * regGranule (rcRegs r) then some 0x02
  else none

/-- Banks that a folio of a record takes on its folio-relative gathering 0 and on the others (R52). -/
def folioBanks (r : Nat) (mesh : Bool) (g : Nat) : Nat :=
  min (folioCores r) 4 * scratchBanks r + (if g = 0 then rcFifos r + (if mesh then 2 else 0) else 0)

/-- The failures that a record shows at placement: BANK_LIMIT, FIFO_CONFIG, WINDOW_ALIGN (R52, R22, R202). -/
def placeFail (r : Nat) (mesh : Bool) : Option Nat :=
  if 56 < folioBanks r mesh 0 then some 0x03
  else if 8 < rcFifos r ∨ (rcFifos r ≠ 0 ∧ 4 < rcFifoe r) then some 0x04
  else if rcMapped r ∧ rcWbase r % 65536 ≠ 0 then some 0x05
  else none

/-- The slots of a context's task graph: the address of slot 0, HSIZE and QSIZE (R198, R199). -/
structure SlotRegion where
  base : Nat
  hsize : Nat
  qsize : Nat
  deriving DecidableEq, Repr

/-- The fields of a pass descriptor (R418). -/
def pdMeshEx (d : Nat) : Nat := bitsOf d 991 960
def pdPrimPages (d : Nat) : Nat := bitsOf d 1023 992
def pdPoolPages (d : Nat) : Nat := bitsOf d 1055 1024
def pdWm (d : Nat) : Nat := bitsOf d 1071 1056
def pdHm (d : Nat) : Nat := bitsOf d 1087 1072
def pdJx (d : Nat) : Nat := bitsOf d 1103 1088
def pdJy (d : Nat) : Nat := bitsOf d 1119 1104
def pdBudget (d : Nat) : Nat := bitsOf d 1124 1120
def pdMerge (d : Nat) : Nat := bitsOf d 1126 1125
def pdCull (d : Nat) : Nat := bitsOf d 1128 1127
def pdLbanks (d : Nat) : Nat := 2 ^ bitsOf d 1131 1129
def pdDmap (d : Nat) : Nat := bitsOf d 639 576
def pdHead (d : Nat) : Nat := bitsOf d 575 512
def pdPool (d : Nat) : Nat := bitsOf d 511 448
/-- Tiles across and down (R418). -/
def tilesX (d : Nat) : Nat := (pdWm d + 64) / 64
def tilesY (d : Nat) : Nat := (pdHm d + 64) / 64
def tileCount (d : Nat) : Nat := tilesX d * tilesY d

/-- Reserved bits, codes, required templates, BUDGET and alignments of a pass descriptor (R419). -/
def descriptorOk (d : Nat) : Bool :=
  bitsOf d 2047 1184 == 0 && bitsOf d 1151 1132 == 0 && bitsOf d 1131 1129 ≤ 4 && pdCull d != 3
    && bitsOf d 63 0 != 0 && bitsOf d 127 64 != 0 && (pdMerge d != 3 || bitsOf d 383 320 != 0)
    && 1 ≤ pdBudget d && pdBudget d ≤ 16 && pdHead d % 128 == 0 && pdPool d % 4096 == 0 && bitsOf d 447 384 % 4096 == 0

/-- The fields that a pass sets in a stage's template (R419): mesh, fragment, resolve, reconstruction, post, merge. -/
def stageRecord (seed prio d k r : Nat) : Nat :=
  let set3 (r x : Nat) : Nat := setField (setField (setField r 159 128 x) 175 160 1) 191 176 1
  let r1 :=
    match k with
    | 0 => set3 r (pdMeshEx d)
    | 1 => setField (set3 r 1) 208 192 (quireWidth r)
    | 2 => setField (set3 r (tileCount d)) 208 192 4096
    | 5 => setField (set3 r 1) 208 192 16
    | _ => set3 r (tileCount d)
  setField (setField r1 575 512 seed) 239 237 prio

/-- The limits of a stage's template (R419). -/
def stageOk (k r : Nat) : Bool :=
  rcKind r == 0 &&
    match k with
    | 1 => 3 ≤ rcRegs r && rcFcores r == 0
    | 2 => rcFcores r ≤ 2
    | 3 => rcFcores r == 2 && 154000 ≤ scratchBytes r
    | 4 => rcFcores r == 2 && 154000 ≤ scratchBytes r
    | 5 => rcFcores r == 0 && rcQw r == 0
    | _ => true

/-- An image a reconstruction or post stage reads: a 2D descriptor of the pass's size and the plane's format (R441). -/
def planeOk (d addr fmt x : Nat) : Bool :=
  imageOk addr x && imDim x == 1 && imWm x == pdWm d && imHm x == pdHm d && imFmt x == fmt

/-- The checks of R202 that a stage's template breaks, raised at the pass's consumption with those of placement (R419): the REASON. -/
def templateFail (rg : SlotRegion) (k d raw r : Nat) : Option Nat :=
  if stageOk k raw = false ∨ graphFieldsOk rg.hsize rg.qsize raw = false then some 0x0A
  else (launchFail r (k != 0 || pdMeshEx d != 0)).orElse fun _ => placeFail r (k == 0)

/-- Read and check the stage templates of a descriptor, as fields k with their addresses: the records, or a REASON. A MERGE_T that
MERGE does not ask for is not read, as no merge folio runs (DEDUCED, log 122). -/
def readTemplates (s : State) (c key : Nat) (rg : SlotRegion) (seed prio d : Nat) : List (Nat × Nat) → State × Except Nat (List Nat)
  | [] => (s, .ok [])
  | (k, a) :: rest =>
    if a = 0 ∨ (k = 5 ∧ pdMerge d ≠ 3) then
      match readTemplates s c key rg seed prio d rest with
      | (s1, .ok l) => (s1, .ok (0 :: l))
      | x => x
    else
      match keepSpan s c key 3 a 128 with
      | (s1, .error 0) => (s1, .error 0)
      | (s1, .error _) => (s1, .error 0x0E)
      | (s1, .ok bs) =>
        let raw := bytesVal bs
        let r := stageRecord seed prio d k raw
        match templateFail rg k d raw r with
        | some e => (s1, .error e)
        | none =>
          match readTemplates s1 c key rg seed prio d rest with
          | (s2, .ok l) => (s2, .ok (r :: l))
          | x => x

/-- Check the images of the reconstruction and post stages: addresses and the formats their planes need. R503 does not name these
reads: a fault on one fails the pass as one on a template does (DEDUCED, log 120). -/
def readPlanes (s : State) (c key d : Nat) : List (Nat × Nat) → State × Option Nat
  | [] => (s, none)
  | (a, fmt) :: rest =>
    if a % 64 ≠ 0 then (s, some 0x0A)
    else
    match keepRead s c key a 64 with
    | (s1, .error 0) => (s1, some 0)
    | (s1, .error _) => (s1, some 0x0E)
    | (s1, .ok bs) => if planeOk d a fmt (bytesVal bs) then readPlanes s1 c key d rest else (s1, some 0x0A)

/-- Images a pass's stages read (R441, R442). -/
def passPlanes (d : Nat) : List (Nat × Nat) :=
  let rest := [(bitsOf d 767 704, 7), (bitsOf d 831 768, 5), (bitsOf d 895 832, 6)]
  (if bitsOf d 255 192 ≠ 0 then (bitsOf d 703 640, 6) :: rest else [])
    ++ (if bitsOf d 319 256 ≠ 0 then (bitsOf d 959 896, 6) :: rest else [])

/-- Read and check a pass (R417 to R419, R503): its descriptor and templates, or a REASON; 0 parks. An ARGS that is not 64-byte
aligned, for which R417 names no REASON, gives RECORD_INVALID (DEDUCED, log 121). -/
def readPass (s : State) (c key : Nat) (rg : SlotRegion) (r : Nat) : State × Except Nat (Nat × List Nat) :=
  if rcDet r then (s, .error 0x09)
  else if rcArgs r % 64 ≠ 0 then (s, .error 0x0A)
  else
    match keepSpan s c key 4 (rcArgs r) 256 with
    | (s1, .error 0) => (s1, .error 0)
    | (s1, .error _) => (s1, .error 0x0E)
    | (s1, .ok bs) =>
      let d := bytesVal bs
      if descriptorOk d = false then (s1, .error 0x0A)
      else
        match readTemplates s1 c key rg (rcSeed r) (rcPrio r) d
            [(0, bitsOf d 63 0), (1, bitsOf d 127 64), (2, bitsOf d 191 128), (3, bitsOf d 255 192),
             (4, bitsOf d 319 256), (5, bitsOf d 383 320)] with
        | (s2, .error e) => (s2, .error e)
        | (s2, .ok l) =>
          match readPlanes s2 c key d (passPlanes d) with
          | (s3, some e) => (s3, .error e)
          | (s3, none) => (s3, .ok (d, l))

/-- STATUS of the pass descriptor is written (R444, R445, R503), within 64-byte pieces. -/
def writePassStatus (s : State) (c : Nat) (addr st : Nat) : State :=
  let a := addr + 144
  let k := min 4 (64 - a % 64)
  let s1 := (graphWrite s c a ((bytesOf 4 st).take k)).1
  if k = 4 then s1 else (graphWrite s1 c (a + k) ((bytesOf 4 st).drop k)).1

/-- A context's region as its registers stand. -/
def regionOf (s : State) (c : Nat) : SlotRegion :=
  { base := bitsOf (s.ctx c).tgBase.toNat 56 7 * 128, hsize := (s.ctx c).tgHsize, qsize := (s.ctx c).tgQsize }

/-- A node that has passed its checks is RUNNING (R205): ready when its count is zero; an EVENT finishes. It keeps the record as
it was consumed: of the outcomes of R204 for a rewrite of a slot that is NEW or RUNNING, the old record is used throughout, while
decrements act on the bytes of the slot (DESIGN CHOICE, log 94). -/
def startNode (s : State) (rg : SlotRegion) (c slot addr r : Nat) (index : Option Nat) (pass : Option (Nat × List Nat)) : State :=
  let id := s.nextId
  let kind := rcKind r
  let n : Node :=
    { id := id, ctx := c, slot := slot, addr := addr, rcd := r, index := index
      tgBase := rg.base, hsize := rg.hsize, qsize := rg.qsize, dep := rcDep r
      ready := if rcDep r = 0 then some s.cycle else none, nextFid := 0, requeued := []
      pass := if kind = 1 then some (id + 1) else none, failed := none, gang := [], fin := 0 }
  let ps : List Pass :=
    match pass with
    | none => []
    | some (d, tmpl) =>
      [{ id := id + 1, node := id, ctx := c, desc := d, addr := rcArgs r, tmpl := tmpl, imm := rcPassmode r, st := .start
         status := 0, meshOut := [], primPages := 0, prims := [], samples := [], nextFid := 0, nextTile := 0, tiles := []
         frags := [], quires := [], appends := [], poolNext := 0, poolFree := [], fail := none }]
  let s1 := { s with nodes := s.nodes ++ [n], passes := s.passes ++ ps, nextId := id + 2 }
  if kind = 2 ∧ rcDep r = 0 then s1.later [.event (.nodeFinish id)] else s1

/-- Whether one of several slots cannot be reached now because its page is not valid. -/
def anyParked (s : State) (c : Nat) : List Nat → State × Bool
  | [] => (s, false)
  | a :: as =>
    if (s.ctx c).execWait.contains (a / 65536) then (s, true)
    else
      match xlate s { core := none, gath := none } c a .write with
      | (_, .error 0) => ((graphProbe s c a .write).1, true)
      | _ => anyParked s c as

/-- A record that is consumed is checked (R202, R205): it fails, or runs. An absent result parks: also the writes of STATUS and REASON
wait for their pages (R42, R503), and a PASS record that fails has STATUS 0 written to its descriptor (R445). Of an EVENT record
PASSMODE is ignored, with every bit that R200 does not name for it (DESIGN CHOICE, log 95: the table of R202 would fail it). -/
def consumeRecord (s : State) (rg : SlotRegion) (c slot addr r : Nat) (index : Option Nat) : Option State × State :=
  let fail (s : State) (e : Nat) : Option State × State :=
    let pass : Bool := rcKind r = 1
    match anyParked s c ((if pass then [rcArgs r + 144] else []) ++ [addr + 78]) with
    | (s1, true) => (none, s1)
    | (_, false) =>
      let s1 := failSlot (if pass then writePassStatus s c (rcArgs r) 0 else s) c addr e
      (some s1, s1)
  let run (s : State) (p : Option (Nat × List Nat)) : Option State × State :=
    match graphWrite s c (addr + 78) [1] with
    | (s1, some 0) => (none, s1)
    | (s1, some _) => fail s1 0x0D
    | (s1, none) => let s2 := startNode s1 rg c slot addr r index p; (some s2, s2)
  if graphFieldsOk rg.hsize rg.qsize r = false then fail s 0x0A
  else if rcKind r = 2 then run s none
  else if rcKind r = 1 then
    match readPass s c addr rg r with
    | (s1, .error 0) => (none, s1)
    | (s1, .error e) => fail s1 e
    | (s1, .ok p) => run s1 (some p)
  else
    match launchFail r true with
    | some e => fail s e
    | none => run s none

/-- Whether the executor may consume record i: within HEAD, and within 2^HSIZE of the oldest unfinished (R203). -/
def mayConsume (s : State) (c : Nat) : Bool :=
  let x := s.ctx c
  let i := x.consumed.toNat
  x.v && x.tgEn && !x.dead && x.consumed != x.head &&
    (s.nodes.filter fun n => n.ctx == c).all fun n =>
      match n.index with
      | some j => decide ((i + 2 ^ 32 - j) % 2 ^ 32 < 2 ^ x.tgHsize)
      | none => true

/-- Address of a slot of a context's region as its registers stand (R198). -/
def slotAddr (s : State) (c k : Nat) : Nat := bitsOf (s.ctx c).tgBase.toNat 56 7 * 128 + 128 * k

/-- A spawned record in a region is consumed (R206): a failed one frees its slot; one that waits for a page is consumed later, in
the same region (R199). -/
def consumeIn (s : State) (rg : SlotRegion) (c k : Nat) : State :=
  let a := rg.base + 128 * k
  let s0 : State := { s with spawnLate := s.spawnLate.filter fun e => !(e.ctx == c && e.slot == k) }
  let late (s : State) : State :=
    { s with spawnLate := s.spawnLate ++ [{ ctx := c, slot := k, base := rg.base, hsize := rg.hsize, qsize := rg.qsize }] }
  let free (s : State) : State := { s with spawnUsed := s.spawnUsed.filter (· != (c, k)) }
  match keepSpan s0 c a 2 a 128 with
  | (s1, .error 0) => late s1
  | (s1, .error _) => free (failSlot (dropKept s1 c a) c a 0x0D)
  | (s1, .ok bs) =>
    match consumeRecord s1 rg c k a (bytesVal bs) none with
    | (none, s2) => late s2
    | (some s2, _) =>
      let s3 := (dropKept s2 c a).setCtx c fun x => { x with ran := true }
      if s3.nodes.any fun n => n.ctx == c && n.index.isNone && n.slot == k then s3 else free s3

/-- A spawned record is consumed at its SPAWN (R206). -/
def consumeSpawn (s : State) (c k : Nat) : State := consumeIn s (regionOf s c) c k

/-- A spawned record whose consumption waited for a page (R206). -/
def waitingSpawn (s : State) (c : Nat) : Option SpawnLate := s.spawnLate.find? fun e => e.ctx == c

/-- RECORD_CONSUME: the executor consumes the next host record (R203, R205, R502). -/
def execRecordConsume (c : Nat) (s : State) : Host.Outcome State Fault Refusal :=
  match (if (s.ctx c).dead then none else waitingSpawn s c) with
  | some e => .next (consumeIn s { base := e.base, hsize := e.hsize, qsize := e.qsize } c e.slot)
  | none =>
  if mayConsume s c = false then .next s
  else
    let x := s.ctx c
    let i := x.consumed.toNat
    let slot := i % 2 ^ x.tgHsize
    let addr := bitsOf x.tgBase.toNat 56 7 * 128 + 128 * slot
    let count (s : State) : State := (dropKept s c addr).setCtx c fun y => { y with consumed := y.consumed + 1, ran := true }
    match keepSpan s c addr 2 addr 128 with
    | (s1, .error 0) => .next s1
    | (s1, .error _) => .next (count (failSlot s1 c addr 0x0D))
    | (s1, .ok bs) =>
      match consumeRecord s1 (regionOf s c) c slot addr (bytesVal bs) (some i) with
      | (some s2, _) => .next (count s2)
      | (none, s2) => .next s2

/-- The line of a graph head is monitored where a write to it is detected (R203). -/
def monitorHead (s : State) (c : Nat) : State :=
  let a := (s.ctx c).ghAddr.toNat
  let s1 := { s with monitors := s.monitors.filter fun m => m.2 != c }
  match xlate s1 { core := none, gath := none } c a .read with
  | (s2, .ok p) =>
    if isDev p.loc ∨ (isHost p.loc ∧ p.nc = false) then { s2 with monitors := (lineOf p.loc, c) :: s2.monitors } else s2
  | (_, .error _) => s1

/-- The executor reads HEAD (R203, R502) while EN is set. -/
def readHead (s : State) (c : Nat) : State :=
  let x := s.ctx c
  if x.v ∧ x.tgEn ∧ x.dead = false then
    match graphRead s c (bitsOf x.ghAddr.toNat 56 7 * 128) 4 with
    | (s1, .error _) => s1
    | (s1, .ok bs) => (monitorHead s1 c).setCtx c fun y => { y with head := BitVec.ofNat 32 (bytesVal bs) }
  else s

/-- GRAPH_HEAD_MONITOR_WAKE: a detected write of the graph-head line wakes the executor (R203). -/
def execGraphHeadMonitorWake (c : Nat) (s : State) : Host.Outcome State Fault Refusal := .next (readHead s c)

/-- A node's count reaches a value: it becomes ready, or an EVENT finishes (R205). -/
def noteDep (s : State) (c addr dep : Nat) : State :=
  let hit := s.nodes.filter fun n => n.ctx == c && n.addr == addr
  let s1 : State :=
    { s with
      nodes := updWhere (fun n => n.ctx == c && n.addr == addr)
        (fun n => { n with dep := dep, ready := if dep = 0 ∧ n.ready = none then some s.cycle else n.ready }) s.nodes }
  if dep = 0 then s1.later ((hit.filter fun n => rcKind n.rcd == 2).map fun n => Move.event (.nodeFinish n.id)) else s1

/-- DEPCOUNT of a slot is decremented, an atomic at `.dv` (R205): at zero it stays and DEP_UNDER is set. A fault other
than NOT_VALID loses the decrement (R502). -/
def decrementSlot (s : State) (c addr : Nat) : State :=
  match graphProbe s c (addr + 76) .atomic with
  | (s1, some _) => nodeFailed s1 c
  | (s1, none) =>
    match agentRead s1 { core := none, gath := none } c (addr + 76) 2 with
    | (s2, .error r) => nodeFailed (faultRecord s2 c whoDevice (addr + 76) r 1 0 false) c
    | (s2, .ok bs) =>
      let d := bytesVal bs
      if d = 0 then s2.setCtx c fun x => { x with depUnder := true }
      else
        match graphWrite s2 c (addr + 76) (bytesOf 2 (d - 1)) with
        | (s3, none) => noteDep s3 c addr (d - 1)
        | (s3, some _) => nodeFailed s3 c

/-- The successors of a node, in SUCC order, as slot addresses (R207). -/
def succSlots (n : Node) : List Nat :=
  ((List.range (rcNsucc n.rcd)).map (rcSucc n.rcd)).filterMap fun k => if k = 0xFFFF then none else some (n.tgBase + 128 * k)

/-- Every write in the device is performed, posted writes and route 3 writes included (R207 step 2, R113). -/
def performWrites (s : State) : State :=
  let gs := (s.pending.map (·.gath)).dedup
  let hs := (s.msgs.map (·.src)).dedup
  flushPosted (hs.foldl performTileWrites (gs.foldl drainGath s)) fun _ => true

/-- Lease lines that hold data of a context expire and its record-cache entries are dropped (R207 step 3). -/
def expireContext (s : State) (c : Nat) : State :=
  let s1 := expireLeases s (fun _ => true) c
  { s1 with gaths := s1.gaths.map fun g => { g with recs := g.recs.filter fun e => e.ctx != c } }

/-- Folios a node still has, placed, waiting or to be placed again. -/
def nodeBusy (s : State) (n : Node) : Bool :=
  (s.folios.any fun f => f.node == n.id) || n.requeued != []

/-- A node's work is done: its folios have all retired, its pass has ended, or it failed and nothing is left of it. -/
def nodeDone (s : State) (n : Node) : Bool :=
  !(s.folios.any fun f => f.node == n.id) &&
    (if n.failed.isSome then true
     else if rcKind n.rcd = 0 then n.requeued == [] && editionFolios n.rcd ≤ n.nextFid && n.ready.isSome
     else if rcKind n.rcd = 1 then ((n.pass.bind s.pass).map fun p => p.st == .ending).getD true
     else n.dep == 0)

/-- The owner that a draining bank keeps once its own is gone: its drain then ends in CACHE (R50). -/
def noOwner : Nat := 2 ^ 80

/-- The name a tile's list banks are owned by. -/
def tileOwner (pass n : Nat) : Nat := 2 ^ 40 * (pass + 1) + n

/-- Banks of an owner return to CACHE and its mapping entries are freed (R50, R25); a bank still draining goes on to (R50). -/
def freeBanks (s : State) (owner : Nat) : State :=
  { s with
    gaths := s.gaths.map fun g =>
      { g with
        banks := g.banks.map fun b =>
          match b with
          | .drain o f => if o = owner then .drain noOwner f else b
          | .scratch o => if o = owner then .cache else b
          | .fifo o => if o = owner then .cache else b
          | .cache => .cache
        maps := g.maps.filter fun m => m.folio != owner } }

/-- A node leaves the executor (R206, R216), and the tiles that its pass still has in flight give their banks back (R421). -/
def dropNode (s0 : State) (n : Node) : State :=
  let s := (s0.passes.filter fun p => p.node == n.id).foldl (fun s p => p.tiles.foldl (fun s t => freeBanks s (tileOwner p.id t.n)) s) s0
  let s1 := { s with
    nodes := s.nodes.filter fun x => x.id != n.id
    passes := s.passes.filter fun p => p.node != n.id
    spawnUsed := if n.index.isNone then s.spawnUsed.filter fun e => !(e.1 == n.ctx && e.2 == n.slot) else s.spawnUsed }
  s1.setCtx n.ctx fun x => { x with wdogStart := s.cycle }

/-- The decrements that a finishing node still has to make, in SUCC order (R207 step 4): whether one waits for a page. -/
def decrementRest (n : Node) : List Nat → State → State × Bool
  | [], s => (s, false)
  | a :: as, s =>
    match anyParked s n.ctx [a + 76] with
    | (s1, true) => (s1, true)
    | (s1, false) => decrementRest n as ((decrementSlot s1 n.ctx a).setNode n.id fun x => { x with fin := x.fin + 1 })

/-- Steps 2 and 3 of a node's finish, and before them the STATUS of a pass (R207, R444): whether that waits for a page. -/
def finishWrites (s : State) (n : Node) : State × Bool :=
  if n.fin ≠ 0 then (s, false)
  else
    let done (s : State) : State := s.setNode n.id fun x => { x with fin := 1 }
    let settle (s : State) : State := if n.failed.isSome then s else expireContext (performWrites s) n.ctx
    match n.pass.bind s.pass with
    | some p =>
      match anyParked s n.ctx [p.addr + 144] with
      | (s1, true) => (s1, true)
      | (s1, false) => (done (settle (writePassStatus s1 n.ctx p.addr p.status)), false)
    | none => (done (settle s), false)

/-- A finished or failed node (R207, R202, R444): a pass's STATUS, the writes, the leases, the successors, STATUS. Where a page is
not valid, the steps before it have been made, and the rest waits. -/
def finishNode (s : State) (n : Node) : State :=
  match finishWrites s n with
  | (s1, true) => s1
  | (s1, false) =>
    let fin := max 1 n.fin
    match (if n.failed.isSome then (s1, false) else decrementRest n ((succSlots n).drop (fin - 1)) s1) with
    | (s2, true) => s2
    | (s2, false) =>
      match anyParked s2 n.ctx [n.addr + 78] with
      | (s3, true) => s3
      | (s3, false) =>
        match n.failed with
        | some e => dropNode (failSlot s3 n.ctx n.addr e) n
        | none =>
          match graphWrite s3 n.ctx (n.addr + 78) [2] with
          | (s4, none) => dropNode s4 n
          | (s4, some _) => dropNode (failSlot s4 n.ctx n.addr 0x0D) n

/-- NODE_FINISH (R207). -/
def execNodeFinish (n : Nat) (s : State) : Host.Outcome State Fault Refusal :=
  match s.node n with
  | none => .next s
  | some x => .next (if nodeDone s x ∧ (s.ctx x.ctx).dead = false then finishNode s x else s)

end Sys2Proof.Machine
end

