-- ==== Sys2Proof/Machine/Try.lean ====
section
/-! DEFINITION. Try regions: TRY, COMMIT, ABORT and TSTAT (R183 to R191, R323 to R326), and how a region ends. -/

namespace Sys2Proof.Machine

/-- Write a thread's private bytes in 16-byte pieces (R27, R184), each performed at its access (R106): the fault of the first
that fails. -/
def privWrite (s : State) (q : Quire) (t o : Nat) (bs : List Byte) : State × Option (Nat × Nat) :=
  (List.range ((bs.length + 15) / 16)).foldl
    (fun r i =>
      match r.2 with
      | some _ => r
      | none =>
        let piece := (bs.drop (16 * i)).take 16
        let off := o + 16 * i
        let g := gathOf q.slot.core
        if rcPriv (r.1.rcdOf q.slot) < off + piece.length then (r.1, some (off, 7))
        else if off < 64 then (r.1.setQuire q.slot fun x => sliceWrite x t off piece, none)
        else
          let va := backingAddr (r.1.rcdOf q.slot) q.slot q.w t off
          match xlate r.1 { core := some q.slot.core, gath := some g } q.ctx va .write with
          | (s1, .error e) => (s1, some (va, e))
          | (s1, .ok p) =>
            (if p.nc then ncWrite s1 g p.key p.loc piece { ctx := q.ctx, route := 0, who := some (q.folio, q.qid, [t]), add := none }
             else (spanLines p.loc piece.length).foldl (fun s l => performLine s g l)
               (enterBytes s1 g (some q.slot) q.ctx p.key p.loc piece), none))
    (s, none)

/-- Read a thread's private bytes in 16-byte pieces. -/
def privRead (s : State) (q : Quire) (t o : Nat) : Nat → State × Except (Nat × Nat) (List Byte)
  | 0 => (s, .ok [])
  | n + 1 =>
    let va := backingAddr (s.rcdOf q.slot) q.slot q.w t o
    let here : State × Except Nat (List Byte) :=
      if o < 64 then (s, .ok (sliceRead q t o 16))
      else agentRead s { core := some q.slot.core, gath := some (gathOf q.slot.core) } q.ctx va 16
    match here with
    | (s1, .error e) => (s1, .error (va, e))
    | (s1, .ok bs) =>
      match privRead s1 q t (o + 16) n with
      | (s2, .error e) => (s2, .error e)
      | (s2, .ok l) => (s2, .ok (bs ++ l))

/-- A checkpoint's bytes (R184). -/
def checkpointBytes (th : Thread) (live : List Nat) : List Byte :=
  bytesOf 8 (mrBits th.mr) ++ bytesOf 2 (th.pr ||| 1).toNat ++ bytesOf 1 th.depth ++ bytesOf 1 0
    ++ bytesOf 4 live.length ++ live.flatMap fun r => bytesOf 4 (th.v.getD r 0).toNat

/-- Whether the word at a PC is a safe point of a usable header (R271, R272). -/
def safePoint (s : State) (slot : Slot) (c pc : Nat) : State × Except Nat Bool :=
  match fciHeader s slot c pc with
  | (s1, .error r) => (s1, .error r)
  | (s1, .ok none) => (s1, .ok false)
  | (s1, .ok (some f)) =>
    match readTable s1 slot c (f.h + f.safeOff) 4 f.safeN with
    | (s2, .error 0) => (s2, .error 0)
    | (s2, .error _) => (s2, .ok false)
    | (s2, .ok l) => (s2, .ok (l.any fun e => e % 2 ^ 21 == (pc - f.h) / 8))

/-- The word waits until a page is made valid, and is tried again (R42, R272). -/
def waitPage (s : State) (cur : Cur) : State :=
  (againCur s cur).setQuire cur.slot fun q => { q with wait := q.wait.map fun w => { w with why := .fetch } }

/-- Write the checkpoints of the active threads in order: traps, or none when a page is not valid (R323). -/
def writeCheckpoints (q : Quire) (live : List Nat) : List Nat → State → State × Option (List Trapped)
  | [], s => (s, some [])
  | t :: ts, s =>
    let rcd := s.rcdOf q.slot
    match q.th[t]? with
    | none => writeCheckpoints q live ts s
    | some th =>
      match privWrite s q t (rcPriv rcd - rcCkpt rcd) (checkpointBytes th live) with
      | (s1, some (va, e)) =>
        let s2 := faultRecord s1 q.ctx (whoSlot q.slot) va e (if e = 7 then privAkind 0x121 va else 3) 0 (e == 0)
        if e = 0 then (s2, none)
        else
          match writeCheckpoints q live ts s2 with
          | (s3, some l) => (s3, some (⟨t, reasonTrap e, e, va⟩ :: l))
          | x => x
      | (s1, none) => writeCheckpoints q live ts s1

/-- Open a region for the active threads that did not trap (R183, R323). -/
def openRegion (s : State) (cur : Cur) (f : Direct) (live : List Nat) : State :=
  s.setQuire cur.slot fun q =>
    if cur.act = [] then q
    else
      let q1 : Quire :=
        { q with
          region := some
            { members := cur.act, reads := [], writes := [], buf := [], entries := [], scope := 0, start := 0
              begun := s.cycle, collecting := none, conflict := none } }
      cur.act.foldl (fun q t => q.setTh t fun th =>
        { th with
          td := 1
          tryTh := some { handler := targetOf cur.pc f.off, codereg := f.d.toNat, depth0 := th.depth, live := live
                          regs := th.v, chk := [], since := q.seq, abort := none, seen := th.v, wrote := [] } }) q1

/-- An older access of thread t is to a byte of its checkpoint, which is stored behind it (R114, R183, R406). -/
def checkpointBehind (q : Quire) (rcd t : Nat) : Bool :=
  let o := rcPriv rcd - rcCkpt rcd
  let va := backingAddr rcd q.slot q.w t (max 64 o)
  q.log.any fun e => e.acc.any fun a => a.st != .done && (e.uni || a.t == t) &&
    (accUnknown a || (accSpans a).any (fun p => overlaps p.1 p.2.2 va (rcPriv rcd - max 64 o))
      || (opSpace e.op == .priv && decide (o < 64) && decide (sliceLoc o < a.loc + a.len) && decide (a.loc < sliceLoc 64)))

/-- TRY that opens a region (R183, R323): `bad` are the threads that trap at it, which take no part. -/
def tryOpen (f : Direct) (s : State) (cur0 : Cur) (bad : List Trapped) (q : Quire) : State :=
  let cur : Cur := { cur0 with act := cur0.act.filter fun t => !(bad.any fun e => e.t == t) }
  let unsafe_ (s : State) : State := (dropTraps s cur0 (bad ++ cur.act.map fun t => ⟨t, 0x28, 0, 0⟩)).1
  let hold (s : State) : State := let d := dropTraps s cur0 bad; waitPage d.1 d.2
  match safePoint s cur.slot q.ctx cur.pc.toNat with
  | (s1, .error _) => hold s1
  | (s1, .ok false) => unsafe_ s1
  | (s1, .ok true) =>
    match liveMask s1 cur.slot q.ctx cur.pc.toNat with
    | (s2, .error _) => hold s2
    | (s2, .ok none) => unsafe_ s2
    | (s2, .ok (some m)) =>
      let live := (List.range q.regs).filter fun r => m.testBit r
      if rcCkpt (s2.rcdOf cur.slot) < 16 + 4 * live.length then unsafe_ s2
      else if cur.act.any (checkpointBehind q (s2.rcdOf cur.slot)) then
        let d := dropTraps (serveQuire s2 cur.slot) cur0 bad
        againCur d.1 d.2
      else
        match writeCheckpoints q live cur.act s2 with
        | (s3, none) => hold s3
        | (s3, some l) => let d := dropTraps s3 cur0 (bad ++ l); openRegion d.1 d.2 f live

/-- TRY (R323, R190, R191, R433). Where a TRY_NEST trap takes the last member out, the region has ended (R187), and the other
active threads open one. -/
def execTryBegin (_ : Hdr) (f : Direct) (s : State) : Host.Outcome State Fault Refusal :=
  match s.active with
  | none => .next s
  | some cur =>
    match s.quire cur.slot with
    | none => .next s
    | some q =>
      let bad := cur.act.filterMap fun t =>
        if sectionOpen s q t then some (⟨t, 0x23, 0, 0⟩ : Trapped)
        else if q.member t && thGet q t false (fun th => th.td == 7) then some ⟨t, 0x29, 0, 0⟩
        else none
      let d := dropTraps s cur bad
      if d.2.act = [] then .next d.1
      else if q.region.isNone then .next (tryOpen f s cur bad q)
      else
      match d.1.quire cur.slot with
      | none => .next d.1
      | some q1 =>
        if q1.region.isNone then .next (tryOpen f d.1 d.2 [] q1)
        else
          .next (forThreads d.1 d.2 d.2.act fun q0 t q => q.setTh t fun th =>
            if q0.member t then { th with td := th.td + 1 } else { th with p := true, npc := some cur.pc })

/-- A trap of TRY_NEST, or of SCOPE_ILLEGAL before it (R324, R325). -/
def nestCheck (scope7 : Bool) (q : Quire) (t : Nat) : Option Trapped :=
  if scope7 then some ⟨t, 0x09, 0, 0⟩ else if thGet q t true fun th => th.td == 0 then some ⟨t, 0x29, 0, 0⟩ else none

/-- COMMIT.scope (R324, R190). A member whose abort is due is not held (R187). -/
def execCommit (_ : Hdr) (f : Full) (s : State) : Host.Outcome State Fault Refusal :=
  match s.active with
  | none => .next s
  | some cur =>
    match s.quire cur.slot with
    | none => .next s
    | some q =>
      let d := dropTraps s cur (cur.act.filterMap (nestCheck (f.cls.toNat % 8 = 7) q))
      let outer := d.2.act.filter fun t => thGet q t 0 (·.td) == 1
      .next ((forThreads d.1 d.2 d.2.act fun q0 t q => q.setTh t fun th =>
          if th.td = 1 then { th with c := !abortDue q0 t } else { th with td := th.td - 1 }).setQuire cur.slot fun q =>
        if outer = [] then q
        else startCollect { q with region := q.region.map fun r => { r with scope := f.cls.toNat % 8 } } s.cycle)

/-- ABORT (R325). -/
def execAbortTry (_ : Hdr) (f : Full) (s : State) : Host.Outcome State Fault Refusal :=
  match s.active with
  | none => .next s
  | some cur =>
    match s.quire cur.slot with
    | none => .next s
    | some q =>
      let d := dropTraps s cur (cur.act.filterMap (nestCheck false q))
      .next (forThreads d.1 d.2 d.2.act fun q0 t q =>
        abortThread q t 1
          ((if f.cls.toNat.testBit 0 then block q0 d.2 f.sa t f.a.toNat 1 % 256 else f.b.toNat) * 256 + 1))

/-- TSTAT (R326). -/
def execTstat (_ : Hdr) (f : Full) (s : State) : Host.Outcome State Fault Refusal :=
  aluWord false f.d.toNat 1
    (fun q _ t =>
      let lines := (q.region.map fun r => (r.reads ++ r.writes).dedup.length).getD 0
      let ents := (q.region.map fun r => r.entries.length).getD 0
      lines * 65536 + ents * 256 + bit (q.member t) * 16 + bit q.region.isSome * 8 + thGet q t 0 (·.td)) s

/-- The code and value of a member's abort: a quire abort takes precedence (R187, R189). -/
def abortValue (q : Quire) (t : Nat) : Option Nat :=
  match q.region.bind (·.conflict) with
  | some (k, _) => if q.member t then some k else none
  | none => ((q.th[t]?).bind (·.tryTh)).bind fun y => y.abort.map (·.2)

/-- One of the values of a list, chosen under a name; the last where none before it is (R188, log 2). -/
def pickVal (seed : List Nat) : Nat → Word → List Word → Word
  | _, v, [] => v
  | n, v, w :: ws => if Config.named (n :: seed) then v else pickVal seed (n + 1) w ws

/-- Registers after an abort: live ones from the checkpoint; another has its value at the TRY or one of those that the thread
wrote to it in the region (R188). -/
def restoreRegs (y : TryTh) (now : List Word) (saved : List Byte) (seed : List Nat) : List Word :=
  now.zipIdx.map fun e =>
    if y.live.contains e.2 then BitVec.ofNat 32 (bytesVal ((saved.drop (16 + 4 * y.live.idxOf e.2)).take 4))
    else pickVal (e.2 :: seed) 0 (y.regs.getD e.2 0) (((y.wrote.filter fun w => w.1 == e.2).map (·.2)) ++ [e.1])

/-- What names the choices of a restore: in a deterministic launch only what is the same in every run (R192). -/
def restoreSeed (s : State) (q : Quire) (t : Nat) : List Nat :=
  if rcDet (s.rcdOf q.slot) then [((s.folio q.folio).map (·.fid)).getD 0, q.qid, q.rallies, t, 0] else [s.fresh, 0]

/-- TRY_ABORT_RESTORE: an aborting member returns to its handler at the rally boundary (R188), once what it issued in the region has
completed. The rule does not say what a fault met while the checkpoint is read back does: as for any private read, a page that is
not valid is waited for, its record written, and any other fault traps the thread, which is halted at its pc (DESIGN CHOICE, log
112). -/
def execTryAbortRestore (slot : Slot) (t : Nat) (s : State) : Host.Outcome State Fault Refusal :=
  match s.quire slot with
  | none => .next s
  | some q =>
    match (q.th[t]?).bind (·.tryTh), abortValue q t with
    | some y, some val =>
      if q.rally.isSome || busySince q t y.since then .next s
      else
        let rcd := s.rcdOf slot
        match privRead s q t (rcPriv rcd - rcCkpt rcd) ((16 + 4 * y.live.length + 15) / 16) with
        | (s1, .error (va, r)) =>
          let s2 := faultRecord s1 q.ctx (whoSlot slot) va r 3 0 (r == 0)
          .next (if r = 0 then s2
            else takeTrap s2 slot (thGet q t 0 (·.pc)) (reasonTrap r) [t] 0 r va)
        | (s1, .ok bs) =>
          let m := bytesVal (bs.take 8)
          .next
            { (s1.setQuire slot fun q =>
                leaveRegion (q.setTh t fun th =>
                  { th with
                    v := (restoreRegs y th.v bs (restoreSeed s1 q t)).set y.codereg (BitVec.ofNat 32 val)
                    pr := BitVec.ofNat 16 (bytesVal ((bs.drop 8).take 2)) ||| 1
                    mr := if m = 2 ^ 64 - 1 then none else some (BitVec.ofNat 64 m)
                    depth := bytesVal ((bs.drop 10).take 1)
                    td := 0, y := false, c := false, pc := y.handler, npc := none, xfer := true, tryTh := none }) t s1.cycle) with
              fresh := s1.fresh + 1 }
    | _, _ => .next s

/-- A region's buffered bytes in the order of publication: ascending thread, then age (R87, R129). -/
def regionOrder (r : Region) (w : Nat) : List (Nat × Nat × Loc × Byte × Key) :=
  (List.range w).flatMap fun t => r.buf.filter fun e => e.1 == t

/-- Collection has gone on for more than 4,096 cycles and tokens of the write set are missing (R87). -/
def collectLate (s : State) (g : Nat) (r : Region) : Bool :=
  (r.collecting.map fun c => decide (4096 < s.cycle - c)).getD false && r.writes.any fun l => (heldOf s g l).tok != 64

/-- One byte of a published region, in a line held in M (R87, R72). -/
def publishByte (s : State) (g : Nat) (e : Nat × Nat × Loc × Byte × Key) : State :=
  writeM (settleFor s e.2.2.2.2 (lineOf e.2.2.1) (some g)) g e.2.2.2.2 e.2.2.1 e.2.2.2.1

/-- COMMIT_COLLECTION: the write set's tokens are collected in ascending order and the region is published, unless the
collection has gone on for too long (R87, R129, R131, R190). -/
def execCommitCollection (slot : Slot) (s : State) : Host.Outcome State Fault Refusal :=
  match s.quire slot with
  | none => .next s
  | some q =>
    match q.region with
    | none => .next s
    | some r =>
      let g := gathOf slot.core
      if q.rally.isSome || !allHeld q || r.conflict.isSome || busyThreads q r.members then .next s
      else if collectLate s g r then .next (s.setQuire slot fun q => strikeRegion q 6)
      else
        let s1 := drainClass s slot r.members (waitClass (s.folioOf slot) r.scope)
        let s2 := (r.writes.mergeSort (· ≤ ·)).foldl (fun s l => collect (lineStrikes (performLine s g l) l (some slot)) g l) s1
        let s3 := (regionOrder r q.w).foldl (fun s e => publishByte s g e) s2
        .next (s3.setQuire slot fun q =>
          { q with
            region := none
            th := q.th.map fun th =>
              if th.tryTh.isSome then { th with c := false, td := 0, tryTh := none, p := false } else { th with p := false } })

/-- COMMIT_COLLECT_TIMEOUT: collection over 4,096 cycles with tokens missing aborts the region with COLLECT (R87). -/
def execCommitCollectTimeout (slot : Slot) (s : State) : Host.Outcome State Fault Refusal :=
  .next (s.setQuire slot fun q =>
    match q.region with
    | some r => if allHeld q ∧ collectLate s (gathOf slot.core) r = true then strikeRegion q 6 else q
    | none => q)

end Sys2Proof.Machine
end

