-- ==== Sys2Proof/Machine/Engine.lean ====
section
/-! DEFINITION. RNG, SPAWN, GSIG and RECLD (R393 to R396, R240, R241, R206). -/

namespace Sys2Proof.Machine

/-- A fault of a record's fill for a word that acts through one record (R42, R393, R396): members abort; for the other threads a page
that is not valid parks the read, with the operands that `args` gives for a thread, and any other fault traps. -/
def recordFault (op : Nat) (f : Full) (args : Nat → List Nat) (s : State) (cur : Cur) (q : Quire) (a : Nat) (e : Nat × Nat) : State :=
  let others := cur.act.filter fun t => !q.member t
  let s1 := faultRecord (abortFault s cur.slot cur.act e.2) q.ctx (whoSlot cur.slot) e.1 e.2 0 0 (e.2 == 0 && others != [])
  if e.2 = 0 then
    logAccs s1 { cur with act := others } op f f.u
      ((if f.u then others.take 1 else others).map fun t =>
        { t := t, piece := 0, va := a, loc := parkedLoc a, len := 64, spans := [], inTry := false, got := none, vals := []
          key := .opened, nc := false, st := .parked, data := 0, args := args t })
  else (dropTraps s1 cur (others.map fun t => ⟨t, reasonTrap e.2, e.2, e.1⟩)).1

/-- A word that reads one record for its quire: older acquires of its threads take their values first (R115 condition 4). -/
def recordWord (body : State → Cur → Quire → State) (s : State) : Host.Outcome State Fault Refusal :=
  match s.active with
  | none => .next s
  | some cur =>
    match bindAcquires false s cur with
    | (s1, true) => .next (againCur s1 cur)
    | (s1, false) =>
      match s1.quire cur.slot with
      | none => .next s1
      | some q => .next (body s1 cur q)

/-- RNG (R393). -/
def execRng (_ : Hdr) (f : Full) (s : State) : Host.Outcome State Fault Refusal :=
  recordWord
    (fun s cur q =>
      let n := f.cls.toNat % 8
      let a := block q cur true (cur.act.headD 0) f.a.toNat 2
      let bad (s : State) : State := (dropTraps s cur (cur.act.map fun t => ⟨t, 0x1A, 0, 0⟩)).1
      let args (q0 : Quire) (t : Nat) : List Nat :=
        ((List.range n).map fun i => (if f.sb then sReg q0 cur t (f.b.toNat + i) else vReg q0 cur t (f.b.toNat + i)).toNat)
          ++ [block q0 cur f.sc t f.c.toNat 1]
      if a % 64 ≠ 0 then bad s
      else
        match recordUse s (gathOf cur.slot.core) q.ctx a with
        | (s1, .error e) => recordFault 0x1B0 f (args q) s1 cur q a e
        | (s1, .ok r) =>
          if shapeOk a r = false ∨ shRank r ≠ n then bad s1
          else
            let w := 2 ^ (f.cls.toNat / 8)
            forThreads s1 cur (actors cur f.u) fun q0 t q =>
              q.putD f.u t f.d.toNat w (rngDraw (rcSeed (s1.rcdOf cur.slot)) w r (args q0 t))) s

/-- RECLD (R396). -/
def execRecld (_ : Hdr) (f : Full) (s : State) : Host.Outcome State Fault Refusal :=
  recordWord
    (fun s cur q =>
      let a := block q cur true (cur.act.headD 0) f.a.toNat 2
      let put (s : State) (x : Nat) : State := s.setQuire cur.slot fun q => q.putS f.d.toNat 1 x
      if a % 64 ≠ 0 then put s 0
      else
        match recordUse s (gathOf cur.slot.core) q.ctx a with
        | (s1, .error e) => recordFault 0x1B3 f (fun _ => []) s1 cur q a e
        | (s1, .ok r) => put s1 (recordReport a r)) s

/-- The number of spawn slots of a context (R199). -/
def spawnCount (s : State) (c : Nat) : Nat := if (s.ctx c).tgQsize = 0 then 0 else 2 ^ (s.ctx c).tgQsize

/-- The lowest free spawn slot, as a slot number (R206). -/
def freeSpawn (s : State) (c : Nat) : Option Nat :=
  ((List.range (spawnCount s c)).find? fun k => !s.spawnUsed.contains (c, 2 ^ (s.ctx c).tgHsize + k)).map
    (2 ^ (s.ctx c).tgHsize + ·)

/-- One thread's spawn (R394): the slot number and the predicate. -/
def spawnOne (s : State) (c : Nat) (bs : List Byte) : State × Nat × Bool :=
  match freeSpawn s c with
  | none => (s.setCtx c fun x => { x with qfull := true }, 0xFFFF, false)
  | some k =>
    let s1 := { s with spawnUsed := (c, k) :: s.spawnUsed }
    match graphWrite s1 c (slotAddr s c k) bs with
    | (s2, none) => (consumeSpawn s2 c k, k, true)
    | (s2, some _) => ({ (failSlot s2 c (slotAddr s c k) 0x0D) with spawnUsed := s.spawnUsed }, k, true)

/-- The lowest free spawn slots, up to `n`. -/
def freeSpawns (s : State) (c n : Nat) : List Nat :=
  (((List.range (spawnCount s c)).map (2 ^ (s.ctx c).tgHsize + ·)).filter fun k => !s.spawnUsed.contains (c, k)).take n

/-- The results of one thread's spawn (R394). -/
def putSpawn (f : Full) (t : Nat) (y : Nat × Bool) (q : Quire) : Quire :=
  (q.putD f.u t f.d.toNat 1 y.1).putPred f.u t (f.c.toNat % 16) y.2

/-- Templates of the threads in order: the first page that is not valid, the traps of the others, or the bytes. -/
def readImages (slot : Slot) (c n : Nat) : List (Nat × Nat) → State → State × Bool × List (Nat × List Byte) × List Trapped
  | [], s => (s, false, [], [])
  | (t, a) :: rest, s =>
    match agentRead s { core := some slot.core, gath := some (gathOf slot.core) } c a n with
    | (s1, .error r) =>
      let s2 := faultRecord s1 c (whoSlot slot) a r 0 0 (r == 0)
      if r = 0 then (s2, true, [], [])
      else let x := readImages slot c n rest s2; (x.1, x.2.1, x.2.2.1, ⟨t, reasonTrap r, r, a⟩ :: x.2.2.2)
    | (s1, .ok bs) => let x := readImages slot c n rest s1; (x.1, x.2.1, (t, bs) :: x.2.2.1, x.2.2.2)

/-- SPAWN (R394, R193, R186). -/
def execSpawn (_ : Hdr) (f : Full) (s : State) : Host.Outcome State Fault Refusal :=
  match s.active with
  | none => .next s
  | some cur =>
    match s.quire cur.slot with
    | none => .next s
    | some q =>
      let code (t : Nat) : Option Nat :=
        if rcDet (s.rcdOf cur.slot) then some 0x20 else if q.member t then some 0x28 else none
      let addr (t : Nat) : Nat := block q cur f.sa t f.a.toNat 2
      let bad0 := cur.act.filterMap fun t => (code t).map fun k => (⟨t, k, 0, 0⟩ : Trapped)
      let act0 := cur.act.filter fun t => !(bad0.any fun e => e.t == t)
      let odd := (if f.u then act0.take 1 else act0).filter fun t => addr t % 128 ≠ 0
      -- the traps of the word are taken together, the lower code first (R399)
      let bad := bad0 ++ (if f.u ∧ odd ≠ [] then act0 else odd).map fun t => (⟨t, 0x08, 0, addr t⟩ : Trapped)
      let act := act0.filter fun t => !(bad.any fun e => e.t == t)
      if act = [] then .next (dropTraps s cur bad).1
      else
        let s1 := serveQuire s cur.slot
        let again (s : State) : State := let d := dropTraps s cur bad; againCur d.1 d.2
        if ((s1.quire cur.slot).map fun q => busyThreads q act).getD false then .next (again s1)
        else
          let ts := if f.u then act.take 1 else act
          let r := readImages cur.slot q.ctx 128 (ts.map fun t => (t, addr t)) s1
          let wait := anyParked r.1 q.ctx ((freeSpawns r.1 q.ctx r.2.2.1.length).map (slotAddr r.1 q.ctx))
          if wait.2 then .next (again wait.1)
          else
            let met := r.2.2.2.flatMap fun e => (if f.u then act else [e.t]).map fun t => { e with t := t }
            let x := dropTraps r.1 cur (bad ++ met)
            let s2 := drainClass x.1 cur.slot act 1
            let s3 := r.2.2.1.foldl (fun s e => let y := spawnOne s q.ctx e.2; y.1.setQuire cur.slot (putSpawn f e.1 y.2)) s2
            -- the thread whose template's page is not valid, and those after it, wait in the log (R42, R405)
            let rest := ts.filter fun t => r.2.1 && !(r.2.2.1.any fun e => e.1 == t) && !(r.2.2.2.any fun e => e.t == t)
            .next (logAccs s3 { cur with act := if f.u then act else rest } 0x1B1 f f.u
              (rest.map fun t =>
                { t := t, piece := 0, va := addr t, loc := parkedLoc (addr t), len := 128, spans := [], inTry := false, got := none
                  vals := [], key := .opened, nc := false, st := .parked, data := 0, args := [] }))

/-- The parked accesses of one SPAWN are replayed in ascending thread order, up to one whose page is still not valid (R41, R394). -/
def replaySpawn (slot : Slot) (e : LogEntry) : List Acc → State → State
  | [], s => s
  | a :: rest, s =>
    match s.quire slot with
    | none => s
    | some q =>
      match agentRead s { core := some slot.core, gath := some (gathOf slot.core) } q.ctx a.va 128 with
      | (s1, .error r) =>
        let s2 := faultRecord s1 q.ctx (whoSlot slot) a.va r 0 0 (r == 0)
        if r = 0 then s2
        else replaySpawn slot e rest (settlePlaced s2 slot e a { acc := none, trap := some (reasonTrap r, r), va := a.va })
      | (s1, .ok bs) =>
        match anyParked s1 q.ctx ((freeSpawns s1 q.ctx 1).map (slotAddr s1 q.ctx)) with
        | (s2, true) => s2
        | (s2, false) =>
          let s3 := drainClass s2 slot (accThreads e a) 1
          let gone : Bool := !e.uni && thGet q a.t true (·.x)
          let y := spawnOne s3 q.ctx bs
          replaySpawn slot e rest (landIn y.1 slot e.seq fun q =>
            let q1 : Quire := { q with log := logPut e.seq a (fun y => { y with st := .done }) q.log }
            if gone then q1 else putSpawn e.f a.t y.2 q1)

/-- A quire's parked spawns are replayed (R41). -/
def replaySpawns (s : State) (slot : Slot) : State :=
  match s.quire slot with
  | none => s
  | some q =>
    ((q.log.filter fun e => e.op == 0x1B1).foldl (fun s e => replaySpawn slot e (e.acc.filter fun a => a.st == .parked) s) s).setQuire slot
      sweepLog

/-- GSIG (R395, R205). -/
def execGsig (_ : Hdr) (f : Full) (s : State) : Host.Outcome State Fault Refusal :=
  match s.active with
  | none => .next s
  | some cur =>
    match s.quire cur.slot with
    | none => .next s
    | some q =>
      let d := dropTraps s cur ((cur.act.filter q.member).map fun t => (⟨t, 0x28, 0, 0⟩ : Trapped))
      if d.2.act = [] then .next d.1
      else
        let s1 := serveQuire d.1 cur.slot
        if ((s1.quire cur.slot).map fun q => busyThreads q d.2.act).getD false then .next (againCur s1 d.2)
        else
          let slots := (actors d.2 f.u).filterMap fun t =>
            let k := block q cur f.sa t f.a.toNat 1 % 65536
            if k ≠ 0xFFFF ∧ k < 2 ^ (s1.ctx q.ctx).tgHsize + spawnCount s1 q.ctx then some (slotAddr s1 q.ctx k) else none
          match anyParked s1 q.ctx (slots.map (· + 76)) with
          | (s2, true) => .next (againCur s2 d.2)
          | (s2, false) =>
            .next (slots.foldl (fun s a => decrementSlot s q.ctx a) (drainClass s2 cur.slot d.2.act 1))

end Sys2Proof.Machine
end

