-- ==== Sys2Proof/Machine/Raster.lean ====
section
/-! DEFINITION. Exact geometry: rational values of floating-point numbers and their rounding, the clipping, projection
and coverage of primitives (R426 to R428), and the interpolation of attributes (R429). -/

namespace Sys2Proof.Machine

/-- 2^e as a rational. -/
def ratPow2 (e : Int) : Rat := if e < 0 then mkRat 1 (2 ^ (-e).toNat) else ((2 ^ e.toNat : Nat) : Rat)

/-- A finite value as a rational; zero for the others. -/
def fpvRat : Fpv → Rat
  | .fin n m e => (if n then -1 else 1) * (m : Rat) * ratPow2 e
  | _ => 0

/-- Whether a pattern is finite. -/
def fpFinite (f : Fmt) (x : Nat) : Bool :=
  match fpRead f x with
  | .fin .. => true
  | _ => false

/-- An FP32 pattern as a rational. -/
def ratF32 (x : Nat) : Rat := fpvRat (fpRead fp32 x)
def ratF16 (x : Nat) : Rat := fpvRat (fpRead fp16 x)

/-- Round a rational to a format (R224). -/
def roundRat (f : Fmt) (rm : Nat) (x : Rat) : Nat :=
  let k := 320 + Nat.log2 x.den
  let n := x.num.natAbs * 2 ^ k
  signed f (decide (x < 0)) (roundMag f rm (decide (x < 0)) (n / x.den) (-(k : Int)) (n % x.den != 0))

/-- The nearest whole number, ties to even. -/
def ratRne (x : Rat) : Int :=
  let f := x.floor
  let r := x - f
  if r < 1 / 2 then f else if 1 / 2 < r then f + 1 else if f % 2 = 0 then f else f + 1

/-- A homogeneous vertex. -/
structure HVert where
  x : Rat
  y : Rat
  z : Rat
  w : Rat
  deriving DecidableEq, Repr

/-- The six clip planes: a vertex is inside where the value is not negative (R427). -/
def planeVal (k : Nat) (v : HVert) : Rat :=
  match k with
  | 0 => v.w + v.x
  | 1 => v.w - v.x
  | 2 => v.w + v.y
  | 3 => v.w - v.y
  | 4 => v.z
  | _ => v.w - v.z

/-- The point of a segment on a plane. -/
def planeCut (k : Nat) (a b : HVert) : HVert :=
  let t := planeVal k a / (planeVal k a - planeVal k b)
  let f (p q : Rat) : Rat := p + t * (q - p)
  { x := f a.x b.x, y := f a.y b.y, z := f a.z b.z, w := f a.w b.w }

/-- Clip a polygon against one plane. -/
def clipPlane (k : Nat) (l : List HVert) : List HVert :=
  (l.zip (l.drop 1 ++ l.take 1)).flatMap fun e =>
    let ia : Bool := decide (0 ≤ planeVal k e.1)
    let ib : Bool := decide (0 ≤ planeVal k e.2)
    (if ia then [e.1] else []) ++ (if ia != ib then [planeCut k e.1 e.2] else [])

/-- Clip a primitive to the view volume (R427). -/
def clipPrim (l : List HVert) : List HVert := (List.range 6).foldl (fun p k => clipPlane k p) l

/-- A vertex's clip-space position: slots 0 to 3 of its record (R422). -/
def vertPos (v : List Word) : HVert :=
  let g (i : Nat) : Rat := ratF32 (v.getD i 0).toNat
  { x := g 0, y := g 1, z := g 2, w := g 3 }

/-- Whether every component of a primitive's positions is finite. -/
def primFinite (p : Prim) : Bool :=
  [p.v0, p.v1, p.v2].all fun v => (List.range 4).all fun i => fpFinite fp32 (v.getD i 0).toNat

/-- A clipped primitive in units of 2^-8 pixel, equal neighbours dropped (R427). -/
def projectPoly (wm hm : Nat) (l : List HVert) : List (Int × Int) :=
  let ps := l.map fun v =>
    (ratRne ((v.x / v.w + 1) * ((wm + 1 : Nat) : Rat) / 2 * 256), ratRne ((v.y / v.w + 1) * ((hm + 1 : Nat) : Rat) / 2 * 256))
  (ps.zip (ps.drop 1 ++ ps.take 1)).filterMap fun e => if e.1 = e.2 then none else some e.1

/-- Twice the signed area, Σ (X_i Y_(i+1) − X_(i+1) Y_i) (R427). -/
def polyArea (ps : List (Int × Int)) : Int :=
  (ps.zip (ps.drop 1 ++ ps.take 1)).foldl (fun a e => a + (e.1.1 * e.2.2 - e.2.1 * e.1.2)) 0

/-- A sample position in pixels: the centre plus the jitter, each clamped, NaN read as zero (R426). -/
def jitter (x : Nat) : Rat :=
  match fpRead fp16 x with
  | .nan => 0
  | .inf n => if n then -1 / 2 else 1 / 2
  | v => max (-1 / 2) (min (1 / 2) (fpvRat v))

/-- The point a thread's pixel is sampled at (R426, R428): the sample, or the centre for a helper. -/
def samplePoint (jx jy : Nat) (x y : Nat) (helper : Bool) : Rat × Rat :=
  let c (n : Nat) : Rat := (n : Rat) + 1 / 2
  if helper then (c x, c y) else (c x + jitter jx, c y + jitter jy)

/-- Whether a polygon of positive orientation covers a point: strictly inside every edge, or on a top or left edge. -/
def polyCovers (ps : List (Int × Int)) (px py : Rat) : Bool :=
  (ps.zip (ps.drop 1 ++ ps.take 1)).all fun e =>
    let dx : Int := e.2.1 - e.1.1
    let dy : Int := e.2.2 - e.1.2
    let c : Rat := (dx : Rat) * (py * 256 - (e.1.2 : Rat)) - (dy : Rat) * (px * 256 - (e.1.1 : Rat))
    decide (0 < c) || (decide (c = 0) && (decide (dy < 0) || (dy == 0 && decide (0 < dx))))

/-- A primitive made ready for coverage (R427): none when clipped, culled or of no area. -/
def primPoly (wm hm cull : Nat) (p : Prim) : Option (List (Int × Int)) :=
  let c := clipPrim ([p.v0, p.v1, p.v2].map vertPos)
  let ps := projectPoly wm hm c
  let a := polyArea ps
  if ps.length < 3 ∨ a = 0 ∨ (cull = 1 ∧ a < 0) ∨ (cull = 2 ∧ 0 < a) then none
  else some (if a < 0 then ps.reverse else ps)

/-- Whether the rule gives a primitive's coverage: finite positions and no clipped vertex at w = 0 (R427). -/
def primStated (p : Prim) : Bool :=
  primFinite p && (clipPrim ([p.v0, p.v1, p.v2].map vertPos)).all fun v => v.w != 0

/-- Perspective-correct weights of a primitive's vertices at a point of the frame, none when it has none (R429). -/
def primWeights (wm hm : Nat) (p : Prim) (px py : Rat) : Option (Rat × Rat × Rat) :=
  let nx := 2 * px / ((wm + 1 : Nat) : Rat) - 1
  let ny := 2 * py / ((hm + 1 : Nat) : Rat) - 1
  let u (v : List Word) : Rat := (vertPos v).x - nx * (vertPos v).w
  let t (v : List Word) : Rat := (vertPos v).y - ny * (vertPos v).w
  let a := u p.v1 * t p.v2 - u p.v2 * t p.v1
  let b := u p.v2 * t p.v0 - u p.v0 * t p.v2
  let c := u p.v0 * t p.v1 - u p.v1 * t p.v0
  if primFinite p = false ∨ a + b + c = 0 then none else some (a / (a + b + c), b / (a + b + c), c / (a + b + c))

/-- z/w at a point, rounded once (R428); where the rule gives none, a free value (log 16). -/
def primDepth (wm hm : Nat) (p : Prim) (px py : Rat) : Nat :=
  let v (l : List Word) := vertPos l
  match primWeights wm hm p px py with
  | none => (Config.openFp p.order).toNat
  | some (a, b, c) =>
    let w := a * (v p.v0).w + b * (v p.v1).w + c * (v p.v2).w
    if w = 0 then (Config.openFp p.order).toNat
    else roundRat fp32 0 ((a * (v p.v0).z + b * (v p.v1).z + c * (v p.v2).z) / w)

/-- Attribute k of a primitive interpolated at a point (R429): NaN values give the canonical NaN; where the rule gives
no value, a free one (log 16). -/
def primAttr (wm hm : Nat) (p : Prim) (k : Nat) (px py : Rat) : Nat :=
  let g (v : List Word) : Nat := (v.getD (4 + k) 0).toNat
  let isNan (x : Nat) : Bool :=
    match fpRead fp32 x with
    | .nan => true
    | _ => false
  if isNan (g p.v0) ∨ isNan (g p.v1) ∨ isNan (g p.v2) then fp32.nan
  else
    match primWeights wm hm p px py with
    | none => (Config.openFp p.order).toNat
    | some (a, b, c) =>
      if fpFinite fp32 (g p.v0) && fpFinite fp32 (g p.v1) && fpFinite fp32 (g p.v2) then
        roundRat fp32 0 (a * ratF32 (g p.v0) + b * ratF32 (g p.v1) + c * ratF32 (g p.v2))
      else (Config.openFp p.order).toNat

/-- Whether a primitive covers a sampled pixel (R427). -/
def primCovers (wm hm cull jx jy : Nat) (p : Prim) (x y : Nat) : Bool :=
  if primStated p then
    match primPoly wm hm cull p with
    | none => false
    | some ps => let c := samplePoint jx jy x y false; polyCovers ps c.1 c.2
  else Config.openCover p.order (x + 65536 * y)

/-- The ranks of a 4 × 4 block's pixels in the order table (R426). -/
def rankOrder : List (Nat × Nat) :=
  [(0, 0), (2, 2), (2, 0), (0, 2), (1, 1), (3, 3), (3, 1), (1, 3)]
    ++ [(1, 0), (3, 2), (3, 0), (1, 2), (0, 1), (2, 3), (2, 1), (0, 3)]

/-- The samples of a density code (R426). -/
def densitySamples (code : Nat) : Nat := ([0, 1, 2, 4, 8, 16] : List Nat).getD code 16

/-- Whether a primitive has any fragment in a pixel quad, by its pixels in thread order (R428). -/
def quadPixels (qx qy : Nat) : List (Nat × Nat) :=
  [(2 * qx, 2 * qy), (2 * qx + 1, 2 * qy), (2 * qx, 2 * qy + 1), (2 * qx + 1, 2 * qy + 1)]

/-- The quads of a primitive in a tile that hold a fragment, in raster order, with their pixels' coverage (R428). -/
def tileQuads (samples : List (Nat × Nat)) (cover : Nat → Nat → Bool) (tx ty : Nat) :
    List (List (Nat × Nat × Bool)) :=
  (List.range 32).flatMap fun j =>
    (List.range 32).filterMap fun i =>
      let px := quadPixels (32 * tx + i) (32 * ty + j)
      let c := px.map fun e => (e.1, e.2, samples.contains e && cover e.1 e.2)
      if c.any fun e => e.2.2 then some c else none

/-- A quad would put a second fragment at a pixel where a quire already holds one. -/
def quadClash (thr : List (Nat × Nat × Nat × Nat × Bool)) (q : List (Nat × Nat × Bool)) : Bool :=
  q.any fun e => e.2.2 && thr.any fun t => t.2.2.2.2 && t.1 == e.1 && t.2.1 == e.2.1

/-- Quads of primitives packed into quires of width w (R428): pairs of an order and a quad. -/
def packQuads (tile w : Nat) : List (Nat × List (Nat × Nat × Bool)) → List (Nat × Nat × Nat × Nat × Bool) → List FragQuire
  | [], [] => []
  | [], cur => [{ tile := tile, thr := cur, again := false }]
  | (o, q) :: rest, cur =>
    let t := q.map fun e => (e.1, e.2.1, o, o, e.2.2)
    if cur.length + 4 ≤ w ∧ quadClash cur q = false then packQuads tile w rest (cur ++ t)
    else { tile := tile, thr := cur, again := false } :: packQuads tile w rest t

end Sys2Proof.Machine
end

