-- ==== Sys2Proof/Machine/Place.lean ====
section
/-! DEFINITION. The distributor (R208 to R211, R194): which folio comes next, whether its cores, lanes, tags, banks and
mapping entries can be reserved together, and its placement (R50 to R52, R170). -/

namespace Sys2Proof.Machine

/-- A folio to be placed: its node, effective record, number, stage and what its threads start with. -/
structure Plan where
  node : Nat
  ctx : Nat
  rcd : Nat
  fid : Nat
  stage : Stage
  pass : Nat
  tile : Nat
  recAddr : Nat
  recSlot : Nat
  start : List (List Nat)
  /-- the gathering it must stand on, if one is given -/
  gath : Option Nat
  deriving DecidableEq, Repr

/-- The pass's template k (R419). -/
def passTmpl (p : Pass) (k : Nat) : Nat := p.tmpl.getD k 0

/-- A folio of a pass's stage. -/
def stagePlan (n : Node) (p : Pass) (k fid : Nat) (st : Stage) (tile : Nat) (start : List (List Nat)) (g : Option Nat) : Plan :=
  { node := n.id, ctx := n.ctx, rcd := passTmpl p k, fid := fid, stage := st, pass := p.id, tile := tile
    recAddr := n.addr, recSlot := n.slot, start := start, gath := g }

/-- A tile in flight whose fragment work has ended (R420, R421): rasterised, no quire left, no folio, no ray of its
folios, no append. -/
def tileQuiet (s : State) (p : Pass) (t : Tile) : Bool :=
  t.rastered && !(p.quires.any fun q => q.tile == t.n)
    && !(s.folios.any fun f => f.pass == p.id && f.node == p.node && f.tile == t.n)
    && !(p.appends.any fun a => decide (a.x / 64 + a.y / 64 * tilesX p.desc = t.n))

/-- What each thread of a fragment quire starts with: x, y, order, depth, fragment (R428). -/
def fragStart (p : Pass) (q : FragQuire) : List (List Nat) :=
  q.thr.map fun e =>
    let c := samplePoint (pdJx p.desc) (pdJy p.desc) e.1 e.2.1 (!e.2.2.2.2)
    let d := ((p.prims.find? fun x => x.order == e.2.2.1).map fun x => primDepth (pdWm p.desc) (pdHm p.desc) x c.1 c.2).getD 0
    [e.1, e.2.1, e.2.2.1, d, bit e.2.2.2.2]

/-- The next folio of a pass (R419 to R421, R428, R441): discarded ones before those that have not been placed (R208). -/
def passPlan (s : State) (n : Node) (p : Pass) : Option Plan :=
  let d := p.desc
  let next (k : Nat) (st : Stage) (count : Nat) : Option Plan :=
    match n.requeued with
    | f :: _ => some (stagePlan n p k f st f [] none)
    | [] => if p.nextFid < count then some (stagePlan n p k p.nextFid st p.nextFid [] none) else none
  if p.fail.isSome then none
  else
    match p.st with
    | .mesh => next 0 .mesh (pdMeshEx d)
    | .raster =>
      let frag (q : FragQuire) : Plan :=
        stagePlan n p 1 0 .fragment q.tile (fragStart p q)
          (if p.imm then none else (p.tiles.find? fun t => t.n == q.tile).map (·.gath))
      let resolve (t : Tile) : Plan := stagePlan n p 2 t.n .resolve t.n [] (some t.gath)
      -- in IMMEDIATE mode shading begins once every tile is rasterised (R420)
      if p.imm ∧ p.nextTile < tileCount d then none
      else
        match p.quires.find? (·.again), (n.requeued.head?).bind fun k => p.tiles.find? fun t => t.n == k, p.quires with
        | some q, _, _ => some (frag q)
        | none, some t, _ => some (resolve t)
        | none, none, q :: _ => some (frag q)
        | none, none, [] =>
          if p.imm ∨ passTmpl p 2 = 0 then none
          else (p.tiles.find? fun t => tileQuiet s p t && !t.resolved).map resolve
    | .resolve => if passTmpl p 2 = 0 then none else next 2 .resolve (tileCount d)
    | .recon => if passTmpl p 3 = 0 then none else next 3 .recon (tileCount d)
    | .post => if passTmpl p 4 = 0 then none else next 4 .post (tileCount d)
    | _ => none

/-- The next folio of a node (R208, R194): requeued ones first, then ascending fid. -/
def nodePlan (s : State) (n : Node) : Option Plan :=
  let x := s.ctx n.ctx
  -- its slot is read at placement (R502): a page that is not valid holds it back
  if n.ready.isNone ∨ n.failed.isSome ∨ x.dead ∨ x.tgEn = false ∨ x.execWait.contains (n.addr / 65536) then none
  else if rcKind n.rcd = 1 then (n.pass.bind s.pass).bind (passPlan s n)
  else if rcKind n.rcd = 0 then
    let fid := match n.requeued with
               | f :: _ => some f
               | [] => if n.nextFid < editionFolios n.rcd then some n.nextFid else none
    fid.bind fun f =>
      let sn := rcNlog n.rcd / folioCores n.rcd
      if rcDet n.rcd ∧ sn ≤ f ∧ (n.requeued.contains (f - sn) ∨
          s.folios.any fun y => y.node == n.id && y.fid == f - sn && y.st != .running) then none
      else
        some
          { node := n.id, ctx := n.ctx, rcd := n.rcd, fid := f, stage := .compute, pass := 0, tile := 0
            recAddr := n.addr, recSlot := n.slot, start := [], gath := none }
  else none

/-- Thread-slot cycles of an interval within the window of 2^24 cycles (R208). -/
def usageIn (now w a b : Nat) : Nat := w * (min b now - max a (now - 2 ^ 24))

/-- The thread-slot cycles a context's resident quires have held over the window (R208). -/
def ctxUsage (s : State) (c : Nat) : Nat :=
  (s.ctx c).used.foldl (fun n e => n + usageIn s.cycle e.1 e.2.1 e.2.2) 0
    + (s.quires.filter fun q => q.ctx == c).foldl (fun n q => n + usageIn s.cycle q.w q.born s.cycle) 0

/-- A routine's template may run in a context whose task graph has these sizes (R463, R202). -/
def routineOk (hsize qsize r : Nat) : Bool :=
  graphFieldsOk hsize qsize r && rcKind r == 0 && rcQw r == 0 && rcFcores r == 0 && 9 ≤ rcRegs r && (launchFail r true).isNone && (placeFail r false).isNone

/-- The queued rays of a gathering that its next routine folio takes: up to 16 with one key, in suspension order (R463). A queue with
a ray whose write waits is suspended (R466), and a context whose EN is 0 has no folio placed (R199). -/
def routineRays (s : State) (g : Nat) : List Ray :=
  let l := s.rays.filter fun r => r.gath == g && r.at_ == .routineQ && !(s.ctx r.ctx).dead && (s.ctx r.ctx).tgEn
  let q := (l.filter fun r => !(l.any fun x => x.wpend && x.ctx == r.ctx && x.rout == r.rout)).mergeSort
    fun a b => a.order ≤ b.order
  match q with
  | [] => []
  | r0 :: _ => (q.filter fun r => r.ctx == r0.ctx && r.rout == r0.rout).take 16

/-- A ray's record address (R448). -/
def rayAddr (s : State) (c h : Nat) : Nat := bitsOf (s.ctx c).rayBase.toNat 56 12 * 4096 + 128 * h

/-- The template as the engine runs it (R463). -/
def routineRcd (raw n : Nat) : Nat := setField (setField (setField (setField raw 159 128 1) 175 160 1) 191 176 1) 208 192 n

/-- The routine folio of queued rays under a template (R463, R464). -/
def routinePlan (s : State) (g : Nat) (l : List Ray) (raw : Nat) : Option Plan :=
  l.head?.map fun r0 =>
    { node := r0.node, ctx := r0.ctx, rcd := routineRcd raw l.length, fid := 0, stage := .routine, tile := r0.tile
      -- its quires are quires of a PASS node when some of its rays are such a node's (R438)
      pass := (l.findSome? fun x => (s.node x.node).bind (·.pass)).getD 0
      recAddr := r0.rout, recSlot := 0xFFFF, gath := some g
      start := l.map fun x =>
        [x.handle, x.skind, x.ct, x.cbary, x.cprim, rayAddr s x.ctx x.handle, x.user]
          ++ [bitsOf x.rcd 340 336, bitsOf x.rcd 927 896, bitsOf x.rcd 959 928, bit x.anyhit, x.node, x.tile] }

/-- The routine folio that a gathering's engine waits for, where its template can be read and may run. -/
def routineNext (s : State) (g : Nat) : Option Plan :=
  match routineRays s g with
  | [] => none
  | r0 :: rest =>
      match (agentRead s { core := none, gath := some g } r0.ctx r0.rout 64).2,
          (agentRead s { core := none, gath := some g } r0.ctx (r0.rout + 64) 64).2 with
      | .ok b0, .ok b1 =>
        if routineOk (s.ctx r0.ctx).tgHsize (s.ctx r0.ctx).tgQsize (routineRcd (bytesVal (b0 ++ b1)) (r0 :: rest).length) then routinePlan s g (r0 :: rest) (bytesVal (b0 ++ b1)) else none
      | _, _ => none

/-- Merges of a pass that have no routine thread yet. -/
def waitingMerges (s : State) (p : Pass) : List Append :=
  p.appends.filter fun a => a.merging && a.result.isNone &&
    !(s.folios.any fun f => f.stage = .merge && f.start.any fun r => r.headD 0 == a.id)

/-- The merge folio that a pass waits for: up to 16 merges of one list engine (R439). -/
def mergeNext (s : State) (p : Pass) : Option Plan :=
  if (s.ctx p.ctx).dead ∨ (s.ctx p.ctx).tgEn = false then none
  else
    match waitingMerges s p with
    | [] => none
    | a :: as =>
      let l := (a :: as.filter fun b => b.gath == a.gath).take 16
      let words (x : Nat) : List Nat := (List.range 4).map fun k => bitsOf x (32 * k + 31) (32 * k)
      some
        { node := p.node, ctx := p.ctx, rcd := passTmpl p 5, fid := 0, stage := .merge, pass := p.id, tile := a.tile
          recAddr := ((s.node p.node).map (·.addr)).getD 0, recSlot := ((s.node p.node).map (·.slot)).getD 0, gath := some a.gath
          start := l.map fun b =>
            let pr := b.pair.getD (0, 0)
            b.id :: words pr.1 ++ words pr.2 }

/-- Merge and routine folios that wait (R439, R463): merges come ahead of their pass's fragment quires. -/
def enginePlans (s : State) : List Plan :=
  s.passes.filterMap (mergeNext s)
    ++ (((s.rays.filter fun r => r.at_ == .routineQ).map (·.gath)).dedup).filterMap (routineNext s)

/-- Whether folio a ranks before folio b, or equal (R208). A merge or routine folio has its template's PRIO, and the ready moment
and slot of its node (DESIGN CHOICE, log 98). -/
def planBefore (s : State) (a b : Plan) : Bool :=
  let ua := ctxUsage s a.ctx * max 1 (s.ctx b.ctx).tgWeight
  let ub := ctxUsage s b.ctx * max 1 (s.ctx a.ctx).tgWeight
  let at_ (p : Plan) : Nat := ((s.node p.node).bind (·.ready)).getD 0
  let slot (p : Plan) : Nat := ((s.node p.node).map (·.slot)).getD 0
  if rcPrio a.rcd ≠ rcPrio b.rcd then rcPrio b.rcd < rcPrio a.rcd
  else if ua ≠ ub then ua < ub
  else if at_ a ≠ at_ b then at_ a < at_ b
  else if a.ctx ≠ b.ctx then a.ctx < b.ctx
  else slot a ≤ slot b

/-- Folios to be placed in rank order (R208). -/
def rankedPlans (s : State) : List Plan := (enginePlans s ++ s.nodes.filterMap (nodePlan s)).mergeSort (planBefore s)

/-- A lane slot in use: lane, slot number, width, registers a thread. -/
structure Seat where
  lane : Nat
  q : Nat
  w : Nat
  regs : Nat
  deriving DecidableEq, Repr

/-- Slots in use on a core, by resident quires and by folios in placement. -/
def coreSeats (s : State) (core : Nat) : List Seat :=
  ((s.quires.filter fun q => q.slot.core == core).map fun q =>
      { lane := q.slot.lane, q := q.slot.q, w := q.w, regs := regGranule q.regs })
    ++ (s.folios.filter fun f => f.st != .running).flatMap fun f =>
      (f.seats.filter fun x => x.1.core == core && (s.quire x.1).isNone).map fun x =>
        { lane := x.1.lane, q := x.1.q, w := quireWidth f.rcd, regs := regGranule (rcRegs f.rcd) }

/-- The lowest free slot of a lane for a quire of width w (R171, R209): its thread slots are free, and no other quire
of the lane has its number (log 17). -/
def laneSlot (occ : List Seat) (lane w regs : Nat) : Option Nat :=
  let here := occ.filter fun x => x.lane == lane
  if 4096 < here.foldl (fun n x => n + x.w * x.regs) (w * regs) then none
  else (List.range (64 / w)).find? fun q =>
    here.all fun x => x.q != q && (decide ((q + 1) * w ≤ x.q * x.w) || decide ((x.q + 1) * x.w ≤ q * w))

/-- Thread slots in use on a lane. -/
def laneThreads (occ : List Seat) (lane : Nat) : Nat :=
  (occ.filter fun x => x.lane == lane).foldl (fun n x => n + x.w) 0

/-- The lane and slot a quire takes: the lane with room that holds the fewest thread slots, the lowest on ties. -/
def seatOne (occ : List Seat) (w regs : Nat) : Option (Nat × Nat) :=
  ((List.range 64).filterMap fun l => (laneSlot occ l w regs).map fun q => (laneThreads occ l, l, q)).foldl
    (fun (b : Option (Nat × Nat × Nat)) x => match b with
      | none => some x
      | some y => if x.1 < y.1 then some x else b) none |>.map (·.2)

/-- Seats of `n` quires on a core, one at a time (R209). -/
def seatMany (w regs : Nat) : Nat → List Seat → Option (List (Nat × Nat))
  | 0, _ => some []
  | n + 1, occ =>
    match seatOne occ w regs with
    | none => none
    | some (l, q) => (seatMany w regs n ({ lane := l, q := q, w := w, regs := regs } :: occ)).map ((l, q) :: ·)

/-- Seats of a deterministic launch: lane k div (64/W), slot k mod (64/W) (R194), with their register space (R44). -/
def seatFixed (occ : List Seat) (w regs n : Nat) : Option (List (Nat × Nat)) :=
  let l := (List.range n).map fun k => (k / (64 / w), k % (64 / w))
  let held (lane : Nat) : Nat :=
    (occ.filter fun x => x.lane == lane).foldl (fun k x => k + x.w * x.regs) ((l.filter fun e => e.1 == lane).length * (w * regs))
  if l.all fun e => e.1 < 64 && held e.1 ≤ 4096 && (occ.filter fun x => x.lane == e.1).all fun x =>
      x.q != e.2 && (decide ((e.2 + 1) * w ≤ x.q * x.w) || decide ((x.q + 1) * x.w ≤ e.2 * w)) then some l
  else none

/-- The share of a folio on one core: its quires' seats, if its lanes, registers and tags are free. -/
def coreShare (s : State) (r core : Nat) : Option (List (Nat × Nat)) :=
  let tags := (s.folios.filter fun f => f.cores.contains core).foldl (fun n f => n + folioTags f.rcd) (folioTags r)
  let n := folioQuires r / folioCores r
  if 64 < tags then none
  else if rcDet r then seatFixed (coreSeats s core) (quireWidth r) (regGranule (rcRegs r)) n
  else seatMany (quireWidth r) (regGranule (rcRegs r)) n (coreSeats s core)

/-- Banks of a gathering in CACHE. -/
def cacheBanks (s : State) (g : Nat) : Nat := ((s.gath g).banks.filter fun b => b = .cache).length

/-- A folio has a window portion on each of its gatherings (R19, R26). -/
def hasPortion (r : Nat) : Bool := rcMapped r && scratchBytes r != 0

/-- A gathering has the banks and the mapping entry for folio-relative gathering j (R51, R52, R26). -/
def gathShare (s : State) (r : Nat) (mesh : Bool) (j g : Nat) : Bool :=
  let n := folioBanks r mesh j
  (n == 0 || 8 + n ≤ cacheBanks s g) && (!hasPortion r || (s.gath g).maps.length < 32)

/-- Gatherings that a deterministic launch holds, other than node n's (R211). -/
def gangGaths (s : State) (n : Nat) : List Nat := (s.nodes.filter fun x => x.id != n).flatMap (·.gang)

/-- The cores of gatherings, in order. -/
def gathCores (gs : List Nat) : List Nat := gs.flatMap fun g => (List.range 4).map (4 * g + ·)

/-- The seats of a folio on given cores, with its quire numbers (R169). -/
def seatCores (s : State) (r : Nat) (cores : List Nat) : Option (List (Slot × Nat)) :=
  let n := folioQuires r / folioCores r
  (cores.zipIdx).foldl
    (fun acc e =>
      match acc, coreShare s r e.1 with
      | some l, some x => some (l ++ x.zipIdx.map fun y => (({ core := e.1, lane := y.1.1, q := y.1.2 } : Slot), e.2 * n + y.2))
      | _, _ => none) (some [])

/-- Whether an arrangement can take the folio now. -/
def canTake (s : State) (p : Plan) (cores : List Nat) : Bool :=
  (seatCores s p.rcd cores).isSome
    && ((cores.map gathOf).dedup.zipIdx.all fun e => gathShare s p.rcd (p.stage = .mesh) e.2 e.1)

/-- Missing resources of an arrangement (R209). -/
def missingOf (s : State) (p : Plan) (cores : List Nat) : Nat :=
  (cores.filter fun c => (coreShare s p.rcd c).isNone).length
    + ((cores.map gathOf).dedup.zipIdx.filter fun e => !gathShare s p.rcd (p.stage = .mesh) e.2 e.1).length

/-- The gatherings a folio may stand on: none that another node's deterministic launch holds (R211). -/
def openGaths (s : State) (p : Plan) : List Nat :=
  (match p.gath with
    | some g => [g]
    | none => List.range 48).filter fun g => !(gangGaths s p.node).contains g

/-- The arrangements of R170 for a folio of up to two cores; for larger ones the gatherings are chosen one by one. -/
def smallArrangements (s : State) (p : Plan) : List (List Nat) :=
  (openGaths s p).flatMap fun g =>
    if folioCores p.rcd = 1 then (List.range 4).map fun k => [4 * g + k] else [[4 * g, 4 * g + 1], [4 * g + 2, 4 * g + 3]]

/-- The logical gathering's cores of a deterministic folio (R194). -/
def gangCores (s : State) (p : Plan) : List Nat :=
  let c := folioCores p.rcd
  let base := c * (p.fid % (rcNlog p.rcd / c))
  let gang := ((s.node p.node).map (·.gang)).getD []
  (List.range c).map fun k => gang.getD ((base + k) / 4) 0 * 4 + (base + k) % 4

/-- The first arrangement that can take the folio, avoiding `avoid` (R209). Of a folio of 8 or 16 cores R170 and R209 name only the
first gathering: the others are the lowest-numbered ones above it (DESIGN CHOICE, log 97). -/
def findRoom (s : State) (p : Plan) (avoid : List Nat) : Option (List Nat) :=
  let free (cs : List Nat) : Bool := cs.all fun c => !avoid.contains c
  if rcDet p.rcd then
    let cs := gangCores s p
    if canTake s p cs && free cs then some cs else none
  else if folioCores p.rcd ≤ 2 then (smallArrangements s p).find? fun cs => free cs && canTake s p cs
  else
    let k := folioCores p.rcd / 4
    -- the lowest-numbered gathering that can be folio-relative 0 comes first, then the others
    let ok (j g : Nat) : Bool := free (gathCores [g]) && (gathCores [g]).all (fun c => (coreShare s p.rcd c).isSome)
      && gathShare s p.rcd (p.stage = .mesh) j g
    match (openGaths s p).find? (ok 0) with
    | none => none
    | some g0 =>
      let rest := ((openGaths s p).filter fun g => g0 < g && ok 1 g).take (k - 1)
      if rest.length + 1 = k then some (gathCores (g0 :: rest)) else none

/-- The target set of a waiting head: the arrangement with the fewest missing resources (R209). R209 counts the missing resources of an
arrangement of cores; for a deterministic launch that has no gang yet the gatherings with the fewest folios stand for it (DESIGN
CHOICE, log 113). -/
def targetSet (s : State) (p : Plan) : List Nat :=
  let best (l : List (List Nat)) : List Nat :=
    (l.foldl (fun (b : Option (Nat × List Nat)) cs =>
      let m := missingOf s p cs
      match b with
      | none => some (m, cs)
      | some y => if m < y.1 then some (m, cs) else b) none).elim [] (·.2)
  if rcDet p.rcd then
    -- log 113
    if ((s.node p.node).map fun n => n.gang != []).getD false then gangCores s p
    else
      let n (g : Nat) : Nat := (s.folios.filter fun f => (f.cores.map gathOf).contains g).length
      gathCores (((openGaths s p).mergeSort fun a b => decide (n a < n b) || (n a == n b && decide (a ≤ b))).take (rcNlog p.rcd / 4))
  else if folioCores p.rcd ≤ 2 then best (smallArrangements s p)
  else
    -- the FIFO banks and record banks of folio-relative gathering 0 count at the first gathering alone
    let k := folioCores p.rcd / 4
    let mesh : Bool := p.stage = .mesh
    let cost (j g : Nat) : Nat :=
      ((gathCores [g]).filter fun c => (coreShare s p.rcd c).isNone).length + bit (!gathShare s p.rcd mesh j g)
    let whole := (openGaths s p).filterMap fun g0 =>
      let rest := (((openGaths s p).filter fun g => decide (g0 < g)).mergeSort fun a b =>
        decide (cost 1 a < cost 1 b) || (cost 1 a == cost 1 b && decide (a ≤ b))).take (k - 1)
      if rest.length + 1 = k then some (rest.foldl (fun n g => n + cost 1 g) (cost 0 g0), g0 :: rest.mergeSort (· ≤ ·)) else none
    gathCores ((whole.foldl (fun (b : Option (Nat × List Nat)) x => match b with
      | none => some x
      | some y => if x.1 < y.1 then some x else b) none).elim [] (·.2))

/-- Mark the first `n` CACHE banks of a list as draining for an owner (R50). -/
def takeBanks (owner : Nat) (fifo : Bool) : Nat → List BankSt → List BankSt
  | 0, l => l
  | _, [] => []
  | n + 1, b :: bs => if b = .cache then .drain owner fifo :: takeBanks owner fifo n bs else b :: takeBanks owner fifo (n + 1) bs

/-- Banks selected on the gatherings of a folio (R51, R52). -/
def drainBanks (s : State) (owner r : Nat) (mesh : Bool) (gs : List Nat) : State :=
  gs.zipIdx.foldl (fun s e =>
    s.setGath e.1 fun g =>
      let fifos := if e.2 = 0 then rcFifos r else 0
      { g with
        sleep := .awake
        banks := takeBanks owner true fifos (takeBanks owner false (folioBanks r mesh e.2 - fifos) g.banks) }) s

/-- The number of a free mapping-table entry: the lowest (R26 does not say which entry a portion takes: DESIGN CHOICE, log 96). -/
def freeEntry (l : List MapEntry) : Nat := ((List.range 32).find? fun i => l.all fun e => e.ix != i).getD 0

/-- Mapping entries of a folio's portions (R26). -/
def mapEntries (s : State) (id : Nat) (p : Plan) (gs : List Nat) : State :=
  if hasPortion p.rcd then
    gs.zipIdx.foldl (fun s e =>
      let off := e.2 * (scratchBytes p.rcd / gs.length)
      s.setGath e.1 fun g =>
        { g with maps := g.maps ++ [{ ix := freeEntry g.maps, folio := id, wbase := rcWbase p.rcd + off, portOff := off, ctx := p.ctx
                                      banks := scratchBytes p.rcd / gs.length / 32768 }] }) s
  else s

/-- The plan leaves its node or pass. -/
def takePlan (s : State) (p : Plan) : State :=
  let s1 := s.setNode p.node fun n =>
    if n.requeued ≠ [] ∧ p.stage ∉ [.fragment, .merge, .routine] ∧ (n.requeued.head? == some p.fid) then
      { n with requeued := n.requeued.drop 1 }
    else if p.stage = .compute then { n with nextFid := n.nextFid + 1 }
    else n
  let again := ((s.node p.node).map fun n => n.requeued.head? == some p.fid).getD false
  match p.stage with
  | .compute => s1
  | .routine => p.start.foldl (fun s x => s.setRay p.ctx (x.headD 0) fun y => { y with at_ := .inRoutine }) s
  | .merge => s
  | .fragment =>
    -- the quire passPlan named: the first discarded one, else the first
    s1.setPass p.pass fun x => { x with quires := x.quires.eraseIdx ((x.quires.findIdx? (·.again)).getD 0) }
  | .resolve =>
    s1.setPass p.pass fun x =>
      if x.imm then (if again then x else { x with nextFid := x.nextFid + 1 })
      else { x with tiles := updWhere (fun t => t.n == p.tile) (fun t => { t with resolved := true }) x.tiles }
  | _ => s1.setPass p.pass fun x => if again then x else { x with nextFid := x.nextFid + 1 }

/-- A folio is placed on cores (R209): everything is reserved, its banks begin to drain. -/
def placeOn (s : State) (p : Plan) (cores : List Nat) : State :=
  let gs := (cores.map gathOf).dedup
  let id := s.nextId
  let f : Folio :=
    { id := id, node := p.node, ctx := p.ctx, rcd := p.rcd, recAddr := p.recAddr, recSlot := p.recSlot, fid := p.fid
      stage := p.stage, pass := p.pass, tile := p.tile, st := .draining, cores := cores
      seats := (seatCores s p.rcd cores).getD [], scr := [], win := []
      fifos := List.replicate (rcFifos p.rcd) { ring := [] }, bars := [], tags := [], ringN := 0, fbar := [], mverts := []
      mprims := [], vc := 0, pc := 0, start := p.start, preempt := false }
  let s1 := mapEntries (drainBanks s id p.rcd (p.stage = .mesh) gs) id p gs
  { s1 with folios := s1.folios ++ [f], nextId := id + 1 }

/-- A folio is being placed (R209: one at a time). -/
def placing (s : State) : Bool := s.folios.any fun f => f.st = .draining || f.st = .filling

/-- A placement failure of a plan's node or pass (R202): no further folio of it is placed. -/
def failPlan (s : State) (p : Plan) (e : Nat) : State :=
  (s.setNode p.node fun n => { n with failed := some e, requeued := [] }).later [.event (.nodeFinish p.node)]

/-- A deterministic launch's gang (R211): the lowest-numbered whole gatherings that hold no folio, no tile in flight and no gang, and
no core to be kept off (R209). -/
def reserveGang (s : State) (avoid : List Nat) (p : Plan) : State × Bool :=
  if rcDet p.rcd = false ∨ ((s.node p.node).map fun n => n.gang != []).getD true then (s, true)
  else
    let free := (List.range 48).filter fun g =>
      !(gangGaths s p.node).contains g && (gathCores [g]).all (fun c => !avoid.contains c) && !(s.folios.any fun f => (f.cores.map gathOf).contains g)
        && !(s.passes.any fun x => x.tiles.any fun t => t.gath == g)
    let k := rcNlog p.rcd / 4
    if k ≤ free.length then (s.setNode p.node fun n => { n with gang := free.take k }, true) else (s, false)

/-- What the distributor can do with a folio now, keeping off some cores: place it on cores, fail it, or nothing. -/
def planTurn (s : State) (avoid : List Nat) (p : Plan) : Option (State × Except Nat (List Nat)) :=
  match placeFail p.rcd (p.stage = .mesh) with
  | some e => some (s, .error e)
  | none =>
    let g := reserveGang s avoid p
    if g.2 then (findRoom g.1 p avoid).map fun cs => (g.1, .ok cs) else none

/-- The first of some folios that the distributor can do something with. -/
def restTurn (s : State) (avoid : List Nat) (l : List Plan) : Option (Plan × State × Except Nat (List Nat)) :=
  l.findSome? fun p => (planTurn s avoid p).map fun x => (p, x)

/-- A folio is placed, or its node fails. The slot of a compute node is read again at placement (R502); its record is used as it
was consumed (log 94). -/
def carryOut (s : State) (p : Plan) : Except Nat (List Nat) → State
  | .error e => failPlan s p e
  | .ok cs =>
    let r := if p.stage = .compute then graphReadMany s p.ctx p.recAddr 2 else (s, .ok [])
    match r.2 with
    | .error 0 => r.1
    | .error _ => failPlan r.1 p 0x0D
    | .ok _ => placeOn (takePlan r.1 p) p cs

/-- The waiting head and its target set (R209): an old target set is kept while the head stays the same. -/
def headOf (s : State) (p : Plan) : WaitHead :=
  let new : WaitHead := { node := p.node, fid := p.fid, stage := p.stage, tile := p.tile, gath := p.gath, target := targetSet s p }
  match s.waitHead with
  | some h => if { new with target := h.target } = h then h else new
  | none => new

/-- The distributor's turn (R208 to R211): the folio that ranks first, or, while it waits, the next that fits off its target set.
An event carries it out if the folio is one of those it places; else it is another event's turn. -/
def distribute (s : State) (mine : Plan → Bool) : State :=
  if placing s ∨ s.ready = false then s
  else
    match rankedPlans s with
    | [] => { s with waitHead := none }
    | p :: rest =>
      match planTurn s [] p with
      | some x => if mine p then carryOut { x.1 with waitHead := none } p x.2 else s
      | none =>
        let h := headOf s p
        let s1 := { s with waitHead := some h }
        match restTurn s1 h.target rest with
        | some x => if mine x.1 then carryOut x.2.1 x.1 x.2.2 else s1
        | none => s1

/-- FOLIO_PLACEMENT: the distributor places a node's folio, or a folio of a pass's stage (R208 to R211). -/
def execFolioPlacement (s : State) : Host.Outcome State Fault Refusal :=
  .next (distribute s fun p => p.stage != .routine && p.stage != .merge)

end Sys2Proof.Machine
end

