-- ==== Sys2Proof/Machine/List.lean ====
section
/-! DEFINITION. Fragment lists (R434 to R439): where a tile's heads, page words and nodes lie, appends, merges, and
LAPPEND, LFIRST and LNEXT. -/

namespace Sys2Proof.Machine

/-- A place in a tile's list banks or in generic memory. -/
inductive LAddr where
  | bank (off : Nat)
  | mem (va : Nat)
  deriving DecidableEq, Repr

/-- The tile of a pixel. -/
def pixelTile (d x y : Nat) : Nat := y / 64 * tilesX d + x / 64

/-- A pixel's number in its tile, in raster order. -/
def pixelIndex (x y : Nat) : Nat := y % 64 * 64 + x % 64

/-- Nodes held in a tile's banks (R434). -/
def bankNodes (p : Pass) : Nat := if p.imm then 0 else (pdLbanks p.desc * 32768 - 17408) / 16

/-- A tile of a pass that is in flight, or, in IMMEDIATE mode, any tile. -/
def listTile (p : Pass) (n : Nat) : Option Tile :=
  match p.tiles.find? fun t => t.n == n with
  | some t => some t
  | none =>
    if p.imm then
      some { n := n, gath := 0, bytes := [], pages := [], free := [], next := 0, rastered := false, resolved := false }
    else none

/-- A byte offset in a tile's first 17,408 bytes (R434). -/
def headPlace (p : Pass) (n off : Nat) : LAddr := if p.imm then .mem (pdHead p.desc + 17408 * n + off) else .bank off

/-- The list engine's access to a page: a fault writes a record of kind 8; one on a page that is not valid waits for the
replay (R435, R42). -/
def listFault (s : State) (g c va r akind : Nat) : State :=
  let s1 := faultRecord s c (whoEngine g) va r akind 0 (r == 0)
  if r = 0 then s1.setCtx c fun x => { x with execWait := va / 65536 :: x.execWait } else s1

/-- Read `n` bytes of a list: through its gathering's TLB (R33), at the home of the line (the spec names no route for it: log 101). -/
def listRead (s : State) (g c : Nat) (t : Tile) (a : LAddr) (n : Nat) : State × Except Nat Nat :=
  match a with
  | .bank off => (s, .ok (bytesVal (memGetN t.bytes off n)))
  | .mem va =>
    if (s.ctx c).execWait.contains (va / 65536) then (s, .error 0)
    else
      match readVia s { core := none, gath := some g } none c va n with
      | (s1, .error r) => (listFault s1 g c va r 8, .error r)
      | (s1, .ok bs) => (s1, .ok (bytesVal bs))

/-- Whether some write of a list would fault: the reason. -/
def listProbe (s : State) (g c : Nat) : List (LAddr × Nat × Nat) → State × Option Nat
  | [] => (s, none)
  | (.bank _, _, _) :: rest => listProbe s g c rest
  | (.mem va, _, _) :: rest =>
    if (s.ctx c).execWait.contains (va / 65536) then (s, some 0)
    else
      match xlate s { core := none, gath := some g } c va .write with
      | (s1, .error r) => (listFault s1 g c va r 8, some r)
      | (s1, .ok _) => listProbe s1 g c rest

/-- Make the writes of a list: place, bytes, value. -/
def listWrite (s : State) (g c pass n : Nat) (l : List (LAddr × Nat × Nat)) : State :=
  l.foldl (fun s e =>
    match e.1 with
    | .bank off =>
      s.setPass pass fun p =>
        { p with tiles := updWhere (fun t => t.n == n) (fun t => { t with bytes := memSetN t.bytes off (bytesOf e.2.1 e.2.2) }) p.tiles }
    | .mem va => (writeVia s { core := none, gath := some g } none c va (bytesOf e.2.1 e.2.2)).1) s

/-- Where node i of a tile lies: none when its page word names no page. -/
def nodePlace (s : State) (g : Nat) (p : Pass) (t : Tile) (i : Nat) : State × Except Nat (Option LAddr) :=
  let b := bankNodes p
  if i < b then (s, .ok (some (.bank (17408 + 16 * i))))
  else
    match listRead s g p.ctx t (headPlace p t.n (16384 + 4 * ((i - b) / 256))) 4 with
    | (s1, .error r) => (s1, .error r)
    | (s1, .ok pg) =>
      (s1, .ok (if pg = 2 ^ 32 - 1 then none else some (.mem (pdPool p.desc + 4096 * pg + 16 * ((i - b) % 256)))))

/-- The empty node (R438). -/
def emptyNode : Nat := 0x7F800000 + 2 ^ 96 * 0xFFFF

/-- Read node i of a tile. -/
def nodeRead (s : State) (g : Nat) (p : Pass) (t : Tile) (i : Nat) : State × Except Nat Nat :=
  match nodePlace s g p t i with
  | (s1, .error r) => (s1, .error r)
  | (s1, .ok none) => (s1, .ok emptyNode)
  | (s1, .ok (some a)) => listRead s1 g p.ctx t a 16

def nodeDepth (x : Nat) : Nat := bitsOf x 31 0
def nodeNext (x : Nat) : Nat := bitsOf x 111 96
def nodeColour (x k : Nat) : Nat := bitsOf x (47 + 16 * k) (32 + 16 * k)

/-- The nodes of a list from an index: (index, node). -/
def walkList (s : State) (g : Nat) (p : Pass) (t : Tile) : Nat → Nat → State × Except Nat (List (Nat × Nat))
  | 0, _ => (s, .ok [])
  | n + 1, i =>
    if i = 0xFFFF then (s, .ok [])
    else
      match nodeRead s g p t i with
      | (s1, .error r) => (s1, .error r)
      | (s1, .ok x) =>
        match walkList s1 g p t n (nodeNext x) with
        | (s2, .error r) => (s2, .error r)
        | (s2, .ok l) => (s2, .ok ((i, x) :: l))

/-- `FCMP.le` on depths. -/
def depthLe (a b : Nat) : Bool :=
  match fpRead fp32 a, fpRead fp32 b with
  | .nan, _ => false
  | _, .nan => false
  | x, y => !fpLt y x

/-- A NaN depth. -/
def depthNan (x : Nat) : Bool :=
  match fpRead fp32 x with
  | .nan => true
  | _ => false

/-- Insert after every node with DEPTH at most the new one's; a NaN goes to the tail (R435). -/
def insertNode (l : List (Option Nat × Nat)) (x : Nat) (i : Option Nat) : List (Option Nat × Nat) :=
  let k := if depthNan (nodeDepth x) then l.length
           else ((l.zipIdx.filter fun e => depthLe (nodeDepth e.1.2) (nodeDepth x)).getLast?.map (·.2 + 1)).getD 0
  l.take k ++ (i, x) :: l.drop k

/-- One colour channel merged (R436). -/
def mergeChannel (rule near far alpha : Nat) : Nat :=
  let v (x : Nat) : Fpv := fpRead fp16 x
  match rule with
  | 0 => fpRound fp16 0 (fpAdd 0 (v near) (fpMul (fpAdd 0 (.fin false 1 0) (fpNeg (v alpha))) (v far)))
  | 1 => fpRound fp16 0 (fpAdd 0 (v near) (v far))
  | _ =>
    match v near with
    | .nan => fp16.nan
    | _ => near

/-- Merge (R436): near's DEPTH and TAG, merged colours. -/
def mergeNodes (rule near far : Nat) : Nat :=
  (List.range 4).foldl (fun x k =>
    setField x (47 + 16 * k) (32 + 16 * k) (mergeChannel rule (nodeColour near k) (nodeColour far k) (nodeColour near 3))) near

/-- A node is allocated (R435): the index, the tile and the pass afterwards, and the page word it writes. -/
def allocNode (p : Pass) (t : Tile) : Option (Nat × Tile × Pass × Option (Nat × Nat)) :=
  match t.free with
  | i :: is => some (i, { t with free := is }, p, none)
  | [] =>
    if 65534 < t.next then none
    else if t.next < bankNodes p + 256 * t.pages.length then some (t.next, { t with next := t.next + 1 }, p, none)
    else if 256 ≤ t.pages.length then none
    else
      match p.poolFree with
      | pg :: pgs =>
        some (t.next, { t with next := t.next + 1, pages := t.pages ++ [pg] }, { p with poolFree := pgs }, some (t.pages.length, pg))
      | [] =>
        if p.poolNext < pdPoolPages p.desc then
          some (t.next, { t with next := t.next + 1, pages := t.pages ++ [p.poolNext] }, { p with poolNext := p.poolNext + 1 },
            some (t.pages.length, p.poolNext))
        else none

/-- Set a STATUS bit of a pass (R418). -/
def passBit (s : State) (p k : Nat) : State := s.setPass p fun x => { x with status := x.status ||| 2 ^ k }

/-- Store a tile's and a pass's allocation. -/
def putTile (s : State) (p : Pass) (t : Tile) : State :=
  s.setPass p.id fun x =>
    { x with
      poolFree := p.poolFree, poolNext := p.poolNext
      tiles := if x.tiles.any fun y => y.n == t.n then
                 updWhere (fun y => y.n == t.n) (fun y => { y with free := t.free, next := t.next, pages := t.pages }) x.tiles
               else x.tiles ++ [t] }

/-- Write a list whose nodes have their indices: the whole chain, the head word and a page word (R434, R435). -/
def putList (s : State) (g : Nat) (p : Pass) (t : Tile) (x y : Nat) (l : List (Nat × Nat)) (pg : Option (Nat × Nat)) :
    State × Option Nat :=
  -- the page word of a new page is not written yet: its place is computed from the allocation
  let b := bankNodes p
  let place (i : Nat) : Option LAddr :=
    if i < b then some (.bank (17408 + 16 * i))
    else (t.pages[(i - b) / 256]?).map fun k => .mem (pdPool p.desc + 4096 * k + 16 * ((i - b) % 256))
  let nodes := l.zipIdx.filterMap fun e =>
    (place e.1.1).map fun a => (a, 16, setField e.1.2 111 96 (((l[e.2 + 1]?).map (·.1)).getD 0xFFFF))
  let head := ((l.head?.map (·.1)).getD 0xFFFF) + 65536 * l.length
  let ws := (pg.map fun k => (headPlace p t.n (16384 + 4 * k.1), 4, k.2)).toList ++ nodes
    ++ [(headPlace p t.n (4 * pixelIndex x y), 4, head)]
  match listProbe s g p.ctx ws with
  | (s1, some r) => (s1, some r)
  | (s1, none) => (listWrite (putTile s1 p t) g p.ctx p.id t.n ws, none)

/-- Whether every fragment of a pixel below an order has retired and its appends have been applied (R437). -/
def lowerDone (s : State) (p : Pass) (x y o : Nat) : Bool :=
  (p.frags.all fun f => !(f.x == x && f.y == y && decide (f.order < o)) || f.retired)
    && (p.appends.all fun a => match a.frag with
        | some (fx, fy, fo) => !(fx == x && fy == y && decide (fo < o))
        | none => true)
    && (s.rays.all fun r => r.node != p.node || r.at_ = .complete || r.at_ = .ending || !r.rcd.testBit 332
        || !(bitsOf r.rcd 927 896 == x + 65536 * y && decide (bitsOf r.rcd 959 928 < o)))

/-- An ordered append has one before it in its fragment's program order that has not been applied: another append, or a ray of the
same thread that may still make one (R437). A ray stands where its trace does. -/
def earlierAppend (s : State) (p : Pass) (a : Append) : Bool :=
  a.ord.isSome && a.frag.isSome &&
    ((p.appends.any fun b => b.ord.isSome && b.frag == a.frag && b.src == a.src && decide (b.prog < a.prog))
      || s.rays.any fun r => r.node == p.node && r.at_ != .complete && r.at_ != .ending && r.rcd.testBit 332 && decide (r.born < a.prog)
          && a.src == (r.folio, r.slot, r.tidx)
          && a.frag == some (bitsOf r.rcd 911 896, bitsOf r.rcd 927 912, bitsOf r.rcd 959 928))

/-- An append may be applied now (R435, R437): one at a time at a pixel, in a thread's order, an ordered one after the fragments below
it and after what its own fragment appends before it. -/
def appendReady (s : State) (p : Pass) (a : Append) : Bool :=
  !(p.appends.any fun b => b.id != a.id && b.x == a.x && b.y == a.y && b.merging)
    && !(p.appends.any fun b => decide (b.id < a.id) && (match a.slot, b.slot with
          | some u, some v => u.1 == v.1 && u.2.2 == v.2.2
          | _, _ => false))
    && !earlierAppend s p a
    && (match a.ord with
        | some o => lowerDone s p a.x a.y o
        | none => true)

/-- Change one append of a pass. -/
def setAppend (s : State) (p id : Nat) (f : Append → Append) : State :=
  s.setPass p fun x => { x with appends := updWhere (fun a => a.id == id) f x.appends }

/-- Apply an append (R435): its status, or none while it waits. -/
def applyAppend (s : State) (p : Pass) (a : Append) : State × Option Nat :=
  let n := pixelTile p.desc a.x a.y
  let failed (s : State) (r : Nat) : State × Option Nat := if r = 0 then (s, none) else (passBit s p.id 2, some 3)
  if pdWm p.desc < a.x ∨ pdHm p.desc < a.y ∨ (p.imm = false ∧ n ≠ a.tile) then (passBit s p.id 4, some 4)
  else
    match listTile p n with
    | none => (passBit s p.id 4, some 4)
    | some t =>
      match listRead s a.gath p.ctx t (headPlace p n (4 * pixelIndex a.x a.y)) 4 with
      | (s1, .error r) => failed s1 r
      | (s1, .ok h) =>
        match walkList s1 a.gath p t (bitsOf h 20 16) (h % 65536) with
        | (s2, .error r) => failed s2 r
        | (s2, .ok l) =>
          let ls := l.map fun e => (some e.1, e.2)
          if l.length < pdBudget p.desc then
            match allocNode p t with
            | none => (passBit s2 p.id 0, some 2)
            | some (i, t1, p1, pg) =>
              let l1 := (insertNode ls a.node (some i)).map fun e => (e.1.getD i, e.2)
              match putList s2 a.gath p1 t1 a.x a.y l1 pg with
              | (s3, some r) => failed s3 r
              | (s3, none) => (s3, some 0)
          else
            let l1 := insertNode ls a.node none
            let near := l1.getD (l1.length - 2) (none, 0)
            let far := l1.getD (l1.length - 1) (none, 0)
            if pdMerge p.desc = 3 ∧ a.result = none then
              (setAppend s2 p.id a.id fun b => { b with merging := true, pair := some (near.2, far.2) }, none)
            else
              let m := a.result.getD (mergeNodes (pdMerge p.desc) near.2 far.2)
              let spare := (far.1.orElse fun _ => near.1).getD 0
              let l2 := (l1.take (l1.length - 2) ++ [(near.1, m)]).map fun e => (e.1.getD spare, e.2)
              match putList s2 a.gath p t a.x a.y l2 none with
              | (s3, some r) => failed s3 r
              | (s3, none) => (passBit s3 p.id 1, some 1)

/-- An append that has been applied answers its thread (R438). -/
def answerAppend (s : State) (p : Nat) (a : Append) (st : Nat) : State :=
  let s1 := s.setPass p fun x => { x with appends := x.appends.filter fun b => b.id != a.id }
  match a.slot with
  | none => s1
  | some (q, seq, t) =>
    let more := ((s1.pass p).map fun x => x.appends.any fun b =>
      match b.slot with
      | some y => y.1 == q && y.2.1 == seq
      | none => false).getD false
    (landIn s1 q seq fun x => putResult x false t a.d 1 st).setQuire q fun x1 =>
      if more then x1
      else varDone (match a.ctr with
                    | some k => ctrDown x1 k
                    | none => x1) seq

/-- The fragment a thread holds, if it is one. -/
def threadFrag (q : Quire) (t : Nat) : Option (Nat × Nat × Nat) :=
  ((q.th[t]?).bind (·.frag)).bind fun f => if f.helper then none else some (f.x, f.y, f.order)

/-- The pass whose lists a thread's list words name, and the tile in progress for it (R435, R438): its folio's, or, of a routine thread,
those of the ray it works for; none where that ray's node is not a PASS. -/
def listHome (s : State) (fo : Folio) (q : Quire) (t : Nat) : Option (Nat × Nat) :=
  if fo.stage = .routine then
    ((q.th[t]?).bind (·.ray)).bind fun x => ((s.node x.node).bind (·.pass)).map fun p => (p, x.tile)
  else some (fo.pass, fo.tile)

/-- LAPPEND (R438): the appends of the active threads go to the list engine. -/
def execLappend (_ : Hdr) (f : Full) (s : State) : Host.Outcome State Fault Refusal :=
  match s.active with
  | none => .next s
  | some cur =>
    match s.quire cur.slot, s.folioOf cur.slot with
    | some q, some fo =>
      let d := dropTraps s cur ((cur.act.filter q.member).map fun t => (⟨t, 0x28, 0, 0⟩ : Trapped))
      let ord := f.cls.toNat.testBit 0
      let k := if f.cen then some f.csel.toNat else none
      let mk (t tile i : Nat) : Append :=
        let pos := block q cur f.sa t f.a.toNat 1
        let own := (threadFrag q t).getD (0, 0, 0)
        let nd := block q cur f.sb t f.b.toNat 4
        { id := s.nextId + i, x := if ord then own.1 else pos % 65536, y := if ord then own.2.1 else pos / 65536
          node := setField nd 111 96 0xFFFF, ord := if ord then some own.2.2 else none, frag := threadFrag q t
          prog := s.nextId + i, src := (fo.id, cur.slot, t), tile := tile, gath := gathOf cur.slot.core, slot := some (cur.slot, q.seq, t), d := f.d.toNat, ctr := k
          ray := none, merging := false, pair := none, result := none }
      let homes := d.2.act.filterMap fun t => (listHome s fo q t).map fun h => (t, h)
      let as : List (Nat × Append) := homes.zipIdx.map fun e => (e.1.2.1, mk e.1.1 e.1.2.2 e.2)
      -- a thread without lists has its append answered as a ray of such a node has (R459; DEDUCED, log 124)
      let s0 := d.1.setQuire cur.slot fun q => (d.2.act.filter fun t => (listHome s fo q t).isNone).foldl (fun q t => q.putV t f.d.toNat 1 4) q
      if as = [] then .next s0
      else
        let s1 := (as.foldl (fun s e => s.setPass e.1 fun p => { p with appends := p.appends ++ [e.2] }) s0).setQuire cur.slot fun q =>
          match k with
          | some c => ctrUp q c
          | none => q
        .next ({ s1 with nextId := s1.nextId + as.length }.later
          (as.map fun (e : Nat × Append) => Move.event (.listAppendApply e.1 e.2.id)))
    | _, _ => .next s

/-- A list read of one thread (R437, R438): the node quad; none while a page is not valid. A fault other than that leaves
a value the manual does not state, a free one (log 18); a tile that is not in flight has no list, so the read gives the empty
node (DEDUCED, log 31). -/
def listQuad (s : State) (g : Nat) (p : Pass) (x y : Nat) (i : Option Nat) : State × Option Nat :=
  let free (s : State) : State × Option Nat :=
    ({ s with fresh := s.fresh + 4 }, some (wordsVal ((List.range 4).map fun k => Config.openFp (s.fresh + k))))
  if pdWm p.desc < x ∨ pdHm p.desc < y ∨ i = some 0xFFFF then (s, some emptyNode)
  else
    let n := pixelTile p.desc x y
    match listTile p n with
    | none => (s, some emptyNode)
    | some t =>
      let first : State × Except Nat Nat :=
        match i with
        | some k => (s, .ok k)
        | none =>
          match listRead s g p.ctx t (headPlace p n (4 * pixelIndex x y)) 4 with
          | (s1, .error r) => (s1, .error r)
          | (s1, .ok h) => (s1, .ok (h % 65536))
      match first with
      | (s1, .error r) => if r = 0 then (s1, none) else free s1
      | (s1, .ok k) =>
        if k = 0xFFFF then (s1, some emptyNode)
        else
          match nodeRead s1 g p t k with
          | (s2, .error r) => if r = 0 then (s2, none) else free s2
          | (s2, .ok v) => (s2, some v)

/-- The quads of threads in order, none when one waits; a thread without lists has the empty one. -/
def listQuads (g : Nat) (home : Nat → Option Pass) : List (Nat × Nat × Option Nat) → State → State × Option (List (Nat × Nat))
  | [], s => (s, some [])
  | (t, pos, i) :: rest, s =>
    match (match home t with
           | some p => listQuad s g p (pos % 65536) (pos / 65536) i
           | none => (s, some emptyNode)) with
    | (s1, none) => (s1, none)
    | (s1, some v) =>
      match listQuads g home rest s1 with
      | (s2, none) => (s2, none)
      | (s2, some l) => (s2, some ((t, v) :: l))

/-- LFIRST and LNEXT: a read of a list that has every earlier append of its own thread (R437, R438). -/
def listWord (f : Full) (index : Quire → Cur → Nat → Option Nat) (s : State) : Host.Outcome State Fault Refusal :=
  match s.active with
  | none => .next s
  | some cur =>
    match s.quire cur.slot, s.folioOf cur.slot with
    | some q, some fo =>
      let home (t : Nat) : Option Pass := (listHome s fo q t).bind fun h => s.pass h.1
      let own := (cur.act.filterMap home).any fun p => p.appends.any fun a => match a.slot with
        | some x => x.1 == cur.slot && cur.act.contains x.2.2
        | none => false
      if own then .next (againCur s cur)
      else
        match listQuads (gathOf cur.slot.core) home
            (cur.act.map fun t => (t, block q cur f.sa t f.a.toNat 1, index q cur t)) s with
        | (s1, none) => .next (againCur s1 cur)
        | (s1, some l) => .next (s1.setQuire cur.slot fun q => l.foldl (fun q e => q.putV e.1 f.d.toNat 4 e.2) q)
    | _, _ => .next s

/-- LFIRST (R438). -/
def execLfirst (_ : Hdr) (f : Full) (s : State) : Host.Outcome State Fault Refusal := listWord f (fun _ _ _ => none) s

/-- LNEXT (R438). -/
def execLnext (_ : Hdr) (f : Full) (s : State) : Host.Outcome State Fault Refusal :=
  listWord f (fun q cur t => some (block q cur f.sb t f.b.toNat 1 % 65536)) s

/-- MERGE_ROUTINE_LAUNCH: up to 16 merges of one list engine in a quire of MERGE_T's kernel, at the distributor's turn (R208,
R439). -/
def execMergeRoutineLaunch (n : Nat) (s : State) : Host.Outcome State Fault Refusal :=
  .next (distribute s fun p => p.stage == .merge && p.pass == n)

/-- Merge threads that have exited or halted give their results (R439). -/
def takeMerges (s : State) : State :=
  s.quires.foldl (fun s q =>
    match s.folio q.folio with
    | none => s
    | some f =>
      if f.stage != .merge then s
      else
        (f.start.zipIdx).foldl (fun s e =>
          match q.th[e.2]?, e.1 with
          | some th, id :: ws =>
            let near := wordsVal ((ws.take 4).map (BitVec.ofNat 32))
            let near := mergeNodes 2 near near
            if th.x then
              setAppend s f.pass id fun a => if a.result.isNone then { a with result := some (wordsVal (th.v.take 4)) } else a
            else if th.halt.isSome then
              setAppend (passBit s f.pass 2) f.pass id fun a => if a.result.isNone then { a with result := some near } else a
            else s
          | _, _ => s) s) s

end Sys2Proof.Machine
end

