-- ==== Sys2Proof/Machine/Graphics.lean ====
section
/-! DEFINITION. The words of the graphics stages: INTERP and DISCARD (R429, R430), ordered sections (R431 to R433),
MESHOUT (R422, R425). -/

namespace Sys2Proof.Machine

/-- The primitive a fragment-stage thread holds. -/
def threadPrim (p : Pass) (fr : FragTh) : Prim :=
  (p.prims.find? fun x => x.order == fr.prim).getD { order := fr.prim, page := 0, v0 := [], v1 := [], v2 := [] }

/-- The reads of the primitive buffer that threads make (R429): the first page that is not valid, or the traps. -/
def primReads (slot : Slot) (c base : Nat) : List (Nat × Nat) → State → State × Bool × List Trapped
  | [], s => (s, false, [])
  | (t, pg) :: rest, s =>
    let va := base + 4096 * pg
    match xlate s { core := some slot.core, gath := some (gathOf slot.core) } c va .read with
    | (s1, .ok _) => primReads slot c base rest s1
    | (s1, .error r) =>
      if ((s1.quire slot).map fun q => q.member t).getD false then
        let x := primReads slot c base rest
          (faultRecord (abortFault s1 slot [t] r) c (whoSlot slot) va r 0 0 false)
        (x.1, x.2.1, ⟨t, 0, r, va⟩ :: x.2.2)
      else
        let s2 := faultRecord s1 c (whoSlot slot) va r 0 0 (r == 0)
        if r = 0 then (s2, true, [])
        else let x := primReads slot c base rest s2; (x.1, x.2.1, ⟨t, reasonTrap r, r, va⟩ :: x.2.2)

/-- An interpolation: D of each active thread from its primitive and pixel (R429). -/
def interpWord (f : Full) (value : Quire → Cur → Nat → Pass → FragTh → Nat) (s : State) :
    Host.Outcome State Fault Refusal :=
  match s.active with
  | none => .next s
  | some cur =>
    match s.quire cur.slot with
    | none => .next s
    | some q =>
      let frs := cur.act.filterMap fun t => ((q.th[t]?).bind (·.frag)).bind fun fr => (s.pass fr.pass).map fun p => (t, fr, p)
      let base := ((frs.head?).map fun e => bitsOf e.2.2.desc 447 384).getD 0
      let r := primReads cur.slot q.ctx base (frs.map fun e => (e.1, (threadPrim e.2.2 e.2.1).page)) s
      let off := r.2.2.map (·.t)
      let d := dropTraps r.1 cur (r.2.2.filter fun e => e.code != 0)
      if r.2.1 then .next (waitPage d.1 d.2)
      else
        .next (d.1.setQuire cur.slot fun q1 =>
          frs.foldl (fun q1 e =>
            if off.contains e.1 then q1 else q1.putV e.1 f.d.toNat 1 (value q cur e.1 e.2.2 e.2.1)) q1)

/-- INTERP (R429). -/
def execInterp (_ : Hdr) (f : Full) (s : State) : Host.Outcome State Fault Refusal :=
  interpWord f
    (fun _ _ _ p fr =>
      let c := samplePoint (pdJx p.desc) (pdJy p.desc) fr.x fr.y fr.helper
      primAttr (pdWm p.desc) (pdHm p.desc) (threadPrim p fr) f.b.toNat c.1 c.2) s

/-- INTERP.o (R429). -/
def execInterpO (_ : Hdr) (f : Full) (s : State) : Host.Outcome State Fault Refusal :=
  interpWord f
    (fun q cur t p fr =>
      let o := block q cur f.sa t f.a.toNat 1
      let c := samplePoint (o % 65536) (o / 65536) fr.x fr.y false
      primAttr (pdWm p.desc) (pdHm p.desc) (threadPrim p fr) f.b.toNat c.1 c.2) s

/-- INTERP.f (R429). -/
def execInterpF (_ : Hdr) (f : Full) (s : State) : Host.Outcome State Fault Refusal :=
  interpWord f (fun _ _ _ p fr => ((threadPrim p fr).v0.getD (4 + f.b.toNat) 0).toNat) s

/-- What lets threads of a quire leave their sections: none while an append of theirs waits; in IMMEDIATE mode the gathering's
writes are performed first (R431, R432, R437). -/
def sectionRelease (s : State) (slot : Slot) (ts : List Nat) : Option State :=
  let p := (s.folioOf slot).bind fun x => s.pass x.pass
  let own := (p.map fun x => x.appends.any fun a => match a.slot with
    | some y => y.1 == slot && ts.contains y.2.2
    | none => false).getD false
  if own then none else some (if (p.map (·.imm)).getD false then drainClass s slot ts 1 else s)

/-- DISCARD and DISCARD.h (R430): a fragment retires and its thread becomes a helper; the open section of a thread that goes on as a
helper is released as OSEXIT releases it, after the thread's own accesses. -/
def discardWord (keep : Bool) (s : State) : Host.Outcome State Fault Refusal :=
  match s.active with
  | none => .next s
  | some cur =>
    match s.quire cur.slot with
    | none => .next s
    | some q =>
      let d := dropTraps s cur (cur.act.filterMap fun t =>
        if q.member t then some (⟨t, 0x28, 0, 0⟩ : Trapped)
        else if keep = false ∧ sectionOpen s q t then some ⟨t, 0x22, 0, 0⟩ else none)
      let ts := d.2.act.filter fun t => (threadFrag q t).isSome
      let inside := ts.filter (sectionOpen d.1 q)
      let retire (s : State) : State :=
        ((ts.filterMap fun t => (q.th[t]?).bind (·.frag)).foldl retireFrag s).setQuire cur.slot fun q =>
          ts.foldl (fun q t => q.setTh t fun th =>
            { th with frag := th.frag.map fun x => { x with helper := true }, exiting := th.exiting || !keep }) q
      if inside = [] then .next (retire d.1)
      else
        let s1 := serveQuire d.1 cur.slot
        if ((s1.quire cur.slot).map fun q => busyThreads q inside).getD false then .next (againCur s1 d.2)
        else
          match sectionRelease s1 cur.slot inside with
          | none => .next (againCur s1 d.2)
          | some s2 => .next (retire s2)

/-- DISCARD (R430). -/
def execDiscard (_ : Hdr) (_ : Full) (s : State) : Host.Outcome State Fault Refusal := discardWord false s
/-- DISCARD.h (R430). -/
def execDiscardH (_ : Hdr) (_ : Full) (s : State) : Host.Outcome State Fault Refusal := discardWord true s

/-- A fragment is released (R431). -/
def fragReleased (f : Frag) : Bool := f.st = .done || (f.retired && f.st != .opened && f.st != .leaving)

/-- The section state of a thread's fragment. -/
def sectionState (s : State) (q : Quire) (t : Nat) : Section :=
  match (q.th[t]?).bind (·.frag) with
  | none => .none
  | some fr =>
    (((s.pass fr.pass).bind fun p =>
      p.frags.find? fun x => x.tile == fr.tile && x.x == fr.x && x.y == fr.y && x.order == fr.order).map (·.st)).getD .none

/-- Set the section state of a thread's fragment. -/
def setSection (s : State) (q : Quire) (t : Nat) (st : Section) : State :=
  match (q.th[t]?).bind (·.frag) with
  | none => s
  | some fr =>
    s.setPass fr.pass fun p =>
      { p with
        frags := updWhere (fun x => x.tile == fr.tile && x.x == fr.x && x.y == fr.y && x.order == fr.order)
          (fun x => { x with st := st }) p.frags }

/-- Sections of a pass whose threads have halted in them are released as OSEXIT releases them, each once its thread's accesses and
appends have completed (R408, R431). -/
def releaseHalted (s : State) (pass : Nat) : State :=
  if ((s.pass pass).map fun p => p.frags.any fun f => f.st == .leaving).getD false = false then s
  else
    s.quires.foldl (fun s q0 =>
      match (List.range q0.th.length).filter fun t => sectionState s q0 t == .leaving with
      | [] => s
      | ts =>
        let s1 := serveQuire s q0.slot
        match s1.quire q0.slot with
        | none => s1
        | some q => ts.foldl (fun s t =>
            if busyThreads q [t] then s
            else ((sectionRelease s q.slot [t]).map fun s => setSection s q t .done).getD s) s1) s

/-- Every fragment at a thread's pixel with a lower order has been released (R431). -/
def mayEnter (s : State) (q : Quire) (t : Nat) : Bool :=
  match (q.th[t]?).bind (·.frag) with
  | none => true
  | some fr =>
    ((s.pass fr.pass).map fun p =>
      p.frags.all fun x => !(x.x == fr.x && x.y == fr.y && decide (x.order < fr.order)) || fragReleased x).getD true

/-- The entry of the remaining threads, or the wait for it (R432), after their older acquires and parked accesses (R406). -/
def enterBody (op : Nat) (f : Full) (s0 : State) (cur : Cur) : State :=
  match bindAcquires true s0 cur with
  | (s, true) => againCur s cur
  | (s1, false) =>
  let threads (s : State) : List FragTh := ((s.quire cur.slot).map fun q => cur.act.filterMap fun t => (q.th[t]?).bind (·.frag)).getD []
  let s := (((threads s1).map (·.pass)).dedup).foldl releaseHalted s1
  match s.quire cur.slot with
  | none => s
  | some q =>
    if cur.act.all (mayEnter s q) then cur.act.foldl (fun s t => setSection s q t .opened) s
    else blockCur s cur .osenter op f

/-- OSENTER (R432). -/
def execOsenter (_ : Hdr) (f : Full) (s : State) : Host.Outcome State Fault Refusal :=
  match s.active with
  | none => .next s
  | some cur =>
    match s.quire cur.slot with
    | none => .next s
    | some q =>
      let d := dropTraps s cur (cur.act.filterMap fun t =>
        if q.member t then some (⟨t, 0x28, 0, 0⟩ : Trapped)
        else if sectionState s q t ≠ .none then some ⟨t, 0x21, 0, 0⟩ else none)
      .next (if d.2.act = [] then d.1 else enterBody 0x1C0 f d.1 d.2)

/-- OSENTER_GRANT (R432). -/
def execOsenterGrant (slot : Slot) (s : State) : Host.Outcome State Fault Refusal :=
  releaseWord slot .osenter (fun w s cur => enterBody w.op w.f s cur) s

/-- OSEXIT (R432, R437): a release at the section scope, then DONE. -/
def execOsexit (_ : Hdr) (_ : Full) (s : State) : Host.Outcome State Fault Refusal :=
  interlocked (fun _ q t => if q.member t then some 0x28 else none)
    (fun s cur q =>
      let ts := cur.act.filter fun t => sectionState s q t = .opened
      if ts = [] then s
      else
        match sectionRelease s cur.slot ts with
        | none => againCur s cur
        | some s1 => ts.foldl (fun s t => setSection s q t .done) s1) s

/-- A MESHOUT word acts on its folio's records; members of a region trap (R425). -/
def meshWord (once : Bool) (g : Quire → Cur → Nat → Folio → Folio) (s : State) : Host.Outcome State Fault Refusal :=
  match s.active with
  | none => .next s
  | some cur =>
    match s.quire cur.slot with
    | none => .next s
    | some q =>
      let d := dropTraps s cur ((cur.act.filter q.member).map fun t => (⟨t, 0x28, 0, 0⟩ : Trapped))
      .next (d.1.setFolio q.folio fun x => (actors d.2 once).foldl (fun x t => g q d.2 t x) x)

/-- MESHOUT.v (R425). -/
def execMeshoutV (_ : Hdr) (f : Full) (s : State) : Host.Outcome State Fault Refusal :=
  meshWord false
    (fun q cur t x =>
      let v := block q cur f.sa t f.a.toNat 1 % 256
      (List.range (f.cls.toNat % 8 + 1)).foldl (fun x i =>
        let k := f.c.toNat + i
        { x with mverts := (v, k, vReg q cur t (f.b.toNat + i)) :: x.mverts.filter fun e => !(e.1 == v && e.2.1 == k) }) x) s

/-- MESHOUT.p (R425). -/
def execMeshoutP (_ : Hdr) (f : Full) (s : State) : Host.Outcome State Fault Refusal :=
  meshWord false
    (fun q cur t x =>
      let k := block q cur f.sa t f.a.toNat 1 % 256
      { x with mprims := (k, block q cur f.sb t f.b.toNat 1 % 2 ^ 25) :: x.mprims.filter fun e => e.1 != k }) s

/-- MESHOUT.n (R425). -/
def execMeshoutN (_ : Hdr) (f : Full) (s : State) : Host.Outcome State Fault Refusal :=
  meshWord true
    (fun q cur t x =>
      { x with vc := min (block q cur true t f.a.toNat 1) 256, pc := min (block q cur true t f.b.toNat 1) 256 }) s

end Sys2Proof.Machine
end

