-- ==== Sys2Proof/Machine/Ray.lean ====
section
/-! DEFINITION. Rays: the pool (R447, R448), records (R449), box and triangle tests (R455), acceptance (R456), the steps
of a traversal (R457), completion (R459), huddles (R460), and suspension (R463, R465). -/

namespace Sys2Proof.Machine

def ryTmin (r : Nat) : Nat := bitsOf r 127 96
def ryTmax (r : Nat) : Nat := bitsOf r 255 224
def ryO (r k : Nat) : Nat := bitsOf r (32 * k + 31) (32 * k)
def ryD (r k : Nat) : Nat := bitsOf r (159 + 32 * k) (128 + 32 * k)
def ryScene (r : Nat) : Nat := bitsOf r 319 256
def ryRmask (r : Nat) : Nat := bitsOf r 327 320
def ryFlag (r k : Nat) : Bool := r.testBit (328 + k)
def ryDepth (r : Nat) : Nat := bitsOf r 340 336
def ryStatus (r : Nat) : Nat := bitsOf r 343 341
def ryPu (r : Nat) : Nat := bitsOf r 348 344
def ryHk (r : Nat) : Nat := bitsOf r 351 349
def rySubt (r : Nat) : Nat := bitsOf r 463 448
def ryIdx (r : Nat) : Nat := bitsOf r 473 464
def ryRem (r : Nat) : Nat := bitsOf r 477 474
def ryMode (r : Nat) : Nat := bitsOf r 479 478
def rySp (r : Nat) : Nat := bitsOf r 483 480
def ryMask (r : Nat) : Nat := bitsOf r 489 484
def ryStk (r k : Nat) : Nat := bitsOf r (543 + 32 * k) (512 + 32 * k)
def ryPrim (r : Nat) : Nat := bitsOf r 799 768
def ryPix (r : Nat) : Nat := bitsOf r 927 896
def ryOrd (r : Nat) : Nat := bitsOf r 959 928

/-- Set MODE and IDX of a record; each step sets beside them what R457 names, and leaves the other fields. -/
def rySeat (r mode idx : Nat) : Nat := setField (setField r 479 478 mode) 473 464 idx

/-- Blocks of a ray with a payload of u units (R448). -/
def rayBlockCount (u : Nat) : Nat := 2 + (u + 7) / 8

/-- Whether blocks h to h + b − 1 are free. -/
def blocksFree (used : List (Nat × Nat)) (h b : Nat) : Bool := used.all fun e => e.1 + e.2 ≤ h || h + b ≤ e.1

/-- Allocate b blocks within one page: the lowest page, then the lowest run (R448). -/
def rayAlloc (s : State) (c b : Nat) : Option Nat :=
  let x := s.ctx c
  (List.range x.rayPages).findSome? fun p =>
    ((List.range 32).find? fun k => k + b ≤ 32 && blocksFree x.rayBlocks (32 * p + k) b).map (32 * p + ·)

/-- The handle after another in a chain, 0xFFFF_FFFF at its end or off it (R449). -/
def nextIn : List Nat → Nat → Nat
  | [], _ => 2 ^ 32 - 1
  | [_], _ => 2 ^ 32 - 1
  | a :: b :: l, h => if a = h then b else nextIn (b :: l) h

/-- The engine's read of bytes (R462, R466): a fault writes a record of kind 6; one on a page that is not valid waits. -/
def engineRead (s : State) (g c va n : Nat) : State × Except Nat (List Byte) :=
  if (s.ctx c).execWait.contains (va / 65536) then (s, .error 0)
  else
    match agentRead s { core := none, gath := some g } c va n with
    | (s1, .error r) => (listFault s1 g c va r 6, .error r)
    | x => x

/-- The engine's write of bytes, as a store of its gathering. -/
def engineWrite (s : State) (g c va : Nat) (bs : List Byte) : State × Option Nat :=
  if (s.ctx c).execWait.contains (va / 65536) then (s, some 0)
  else
    match agentWrite s { core := none, gath := some g } c va bs with
    | (s1, some r) => (listFault s1 g c va r 6, some r)
    | x => x

/-- LINK of a ray's record is written (R449, R460). A fault of that write is one of the engine's record writes (R466): it is made again once
its page is valid, or the ray is struck (log 42). -/
def linkRay (s : State) (g c h v : Nat) : State :=
  if (s.ctx c).dead then s
  else
    let s1 := s.setRay c h fun r => { r with rcd := setField r.rcd 383 352 v }
    let w := engineWrite s1 g c (rayAddr s c h + 44) (bytesOf 4 v)
    w.1.setRay c h fun r => { r with link := w.2 }

/-- The records of a huddle are chained in its new order (R460). -/
def relink (s : State) (g c : Nat) (old new : List Nat) : State :=
  new.foldl (fun s h => if nextIn old h = nextIn new h then s else linkRay s g c h (nextIn new h)) s

/-- Take a ray out of its huddle, or out of the service that has admitted it; a huddle that empties frees its head (R460). -/
def leaveHuddle (s : State) (c h : Nat) : State :=
  let mine (u : Huddle) : Bool := u.ctx == c && u.rays.contains h
  let s1 := (s.huddles.filter mine).foldl (fun s u => relink s u.gath c u.rays (u.rays.filter (· != h))) s
  { s1 with
    huddles := (updWhere mine (fun u => { u with rays := u.rays.filter (· != h) }) s1.huddles).filter fun u => u.rays != []
    serving := updWhere (fun v => v.huddle.ctx == c) (fun v => { v with adm := v.adm.filter (· != h) }) s1.serving }

/-- A ray's blocks are freed and it is forgotten, an append of it that has not been applied too (R446, R448). -/
def freeRay (s : State) (c h : Nat) : State :=
  let s0 := leaveHuddle s c h
  let s1 : State :=
    { s0 with
      passes := s0.passes.map fun p =>
        { p with appends := p.appends.filter fun a => !(p.ctx == c && a.ray == some h) } }
  { (s1.setCtx c fun x => { x with rayBlocks := x.rayBlocks.filter fun e => e.1 != h }) with
    rays := s1.rays.filter fun r => !(r.ctx == c && r.handle == h) }

/-- A ray's record when a write of it, or an access of its engine, has met a fault (R459, R466). -/
def failRecord (rcd e : Nat) : Nat := setField (setField (setField rcd 839 832 (e % 128)) 895 864 0) 343 341 4

/-- FLAGS 7:5 are read as zero (R450). -/
def cleanFlags (x : Nat) : Nat := setField x 335 333 0

/-- The engine writes a ray's record (R449). -/
def writeRay (s : State) (r : Ray) : State × Option Nat :=
  engineWrite s r.gath r.ctx (rayAddr s r.ctx r.handle) (bytesOf 128 r.rcd)

/-- The tracing thread has exited or is gone (R459, R467). -/
def tracerGone (s : State) (r : Ray) : Bool :=
  match s.quire r.slot with
  | none => true
  | some q => q.folio != r.folio || thGet q r.tidx true (·.x)

/-- A ray is complete (R459 step 4): its blocks are freed at once if its tracing thread has exited. -/
def rayDone (s : State) (r : Ray) : State :=
  let s1 := s.setRay r.ctx r.handle fun x =>
    { x with rcd := r.rcd, appStat := r.appStat, at_ := .complete, wpend := false, stale := false, link := none }
  if tracerGone s r then freeRay s1 r.ctx r.handle else s1

/-- A ray that completes while it is in no slot: its record as it stands in memory, with what the completion sets (R449, R459, R462). -/
def freshRecord (s : State) (r : Ray) : State × Except Nat Ray :=
  if r.stale = false then (s, .ok r)
  else
    match engineRead s r.gath r.ctx (rayAddr s r.ctx r.handle) 128 with
    | (s1, .error e) => (s1, .error e)
    | (s1, .ok bs) =>
      let x := setField (setField (cleanFlags (bytesVal bs)) 343 341 (ryStatus r.rcd)) 383 352 (2 ^ 32 - 1)
      (s1, .ok { r with
        stale := false
        rcd := if ryStatus r.rcd = 4 then setField (setField x 839 832 (bitsOf r.rcd 839 832)) 895 864 0 else x })

/-- The record of a completed ray is written, or waits for its page; a fault changes the status once (R459, R466). -/
def endRay (s : State) (r : Ray) : State :=
  let waits (s : State) : State := s.setRay r.ctx r.handle fun _ => { r with at_ := .ending, wpend := true }
  match freshRecord s r with
  | (s1, .error 0) => waits s1
  | (s1, .error e) => rayDone s1 { r with rcd := failRecord r.rcd e }
  | (s1, .ok x) =>
    match writeRay s1 x with
    | (s2, none) => rayDone s2 x
    | (s2, some 0) => waits s2
    | (s2, some e) => rayDone s2 { x with rcd := failRecord x.rcd e }

/-- The append a completing hit makes (R459): its node, or none. -/
def hitNode (r : Ray) : Nat :=
  let col := if r.attr then bitsOf r.rcd 895 832 else bitsOf r.rcd 1023 960
  ryTmax r.rcd + 2 ^ 32 * col + 2 ^ 96 * 0xFFFF + 2 ^ 112 * (ryPrim r.rcd % 65536)

/-- Complete(r, s, reason) (R459). -/
def completeRay (s : State) (r0 : Ray) (st reason : Nat) : State :=
  let s0 := leaveHuddle s r0.ctx r0.handle
  let rc := if st = 4 then failRecord r0.rcd reason else r0.rcd
  let r : Ray := { r0 with rcd := setField (setField rc 343 341 st) 383 352 (2 ^ 32 - 1) }
  if st = 0 ∧ ryFlag r.rcd 4 then
    match (s0.node r.node).bind fun n => n.pass.bind s0.pass with
    | none => endRay s0 { r with appStat := 4 }
    | some p =>
      if ryPix r.rcd = 2 ^ 32 - 1 then endRay (passBit s0 p.id 4) { r with appStat := 4 }
      else
        let a : Append :=
          { id := s0.nextId, x := ryPix r.rcd % 65536, y := ryPix r.rcd / 65536, node := hitNode r
            ord := some (ryOrd r.rcd), frag := some (ryPix r.rcd % 65536, ryPix r.rcd / 65536, ryOrd r.rcd)
            prog := r.born, src := (r.folio, r.slot, r.tidx), tile := r.tile, gath := r.gath, slot := none, d := 0, ctr := none
            ray := some r.handle, merging := false, pair := none, result := none }
        let s1 := { s0 with nextId := s0.nextId + 1 }
        ((s1.setRay r.ctx r.handle fun _ => { r with at_ := .append }).setPass p.id fun x =>
          { x with appends := x.appends ++ [a] }).later [.event (.listAppendApply p.id a.id)]
  else endRay s0 r

/-- A ray joins the tail of a huddle (R460): its own if it has a head or one is free, else its context's overflow
huddle. -/
def joinHuddle (s : State) (r : Ray) : State :=
  let addr := ryScene r.rcd + 65536 * rySubt r.rcd
  let here (u : Huddle) : Bool := u.gath == r.gath && u.ctx == r.ctx && u.addr == some addr
  let spill (u : Huddle) : Bool := u.gath == r.gath && u.ctx == r.ctx && u.addr == none
  let s1 := s.setRay r.ctx r.handle fun _ => { r with at_ := .huddle, joined := s.cycle }
  let add (p : Huddle → Bool) (a : Option Nat) : State :=
    match s1.huddles.find? p with
    | some u =>
      let s2 := relink s1 r.gath r.ctx u.rays (u.rays ++ [r.handle])
      { s2 with huddles := updWhere p (fun u => { u with rays := u.rays ++ [r.handle] }) s2.huddles }
    | none =>
      { s1 with huddles := s1.huddles ++ [{ gath := r.gath, ctx := r.ctx, addr := a, rays := [r.handle], susp := false }] }
  if s1.huddles.any here ∨ (s1.huddles.filter fun u => u.gath == r.gath && u.addr.isSome).length < 4096 then add here (some addr)
  else add spill none

/-- A ray leaves the engine for a huddle (R449): its record is written; a write that waits suspends it, another fault
completes it (R466). -/
def moveRay (s : State) (r0 : Ray) : State :=
  let r := { r0 with rcd := setField r0.rcd 383 352 (2 ^ 32 - 1) }
  match writeRay s r with
  | (s1, none) => joinHuddle s1 { r with wpend := false }
  | (s1, some 0) => joinHuddle s1 { r with wpend := true }
  | (s1, some e) =>
    rayDone s1 { r with rcd := failRecord r.rcd e }

/-- A bound of a ray's interval: none when infinite on its own side. -/
def rayBound (x : Nat) : Option Rat :=
  match fpRead fp32 x with
  | .fin n m e => some (fpvRat (.fin n m e))
  | _ => none

/-- Whether TMIN = +∞ or TMAX = −∞: the interval holds no finite t (R455). -/
def rayEmpty (r : Nat) : Bool :=
  (match fpRead fp32 (ryTmin r) with
    | .inf false => true
    | _ => false)
  || (match fpRead fp32 (ryTmax r) with
      | .inf true => true
      | _ => false)

/-- Whether a ray completes as MISS without a test (R455). -/
def rayInvalid (r : Nat) : Bool :=
  let nan (x : Nat) : Bool :=
    match fpRead fp32 x with
    | .nan => true
    | _ => false
  let os := (List.range 3).map (ryO r) ++ (List.range 3).map (ryD r)
  (os.any fun x => !fpFinite fp32 x) || nan (ryTmin r) || nan (ryTmax r)
    || fpLt (fpRead fp32 (ryTmax r)) (fpRead fp32 (ryTmin r)) || (List.range 3).all fun k => ratF32 (ryD r k) = 0

/-- The latest of lower bounds and the earliest of upper bounds. -/
def maxLow (a b : Option Rat) : Option Rat :=
  match a, b with
  | none, x => x
  | x, none => x
  | some x, some y => some (max x y)
def minHigh (a b : Option Rat) : Option Rat :=
  match a, b with
  | none, x => x
  | x, none => x
  | some x, some y => some (min x y)

/-- Narrow a segment to a slab: none when they do not meet. -/
def slab (o d lo hi : Rat) (i : Option (Option Rat × Option Rat)) : Option (Option Rat × Option Rat) :=
  match i with
  | none => none
  | some (a, b) =>
    if d = 0 then (if lo ≤ o ∧ o ≤ hi then some (a, b) else none)
    else
      let t0 := (lo - o) / d
      let t1 := (hi - o) / d
      some (maxLow a (some (min t0 t1)), minHigh b (some (max t0 t1)))

/-- Box (R455): the entry distance rounded toward −∞, or none when the box is not entered. -/
def boxEnter (r : Nat) (lo hi : Nat → Rat) : Option Nat :=
  if rayEmpty r then none
  else
    let i0 := some (rayBound (ryTmin r), rayBound (ryTmax r))
    let i := (List.range 3).foldl (fun i k => slab (ratF32 (ryO r k)) (ratF32 (ryD r k)) (lo k) (hi k) i) i0
    match i with
    | some (some a, some b) => if a ≤ b then some (roundRat fp32 3 a) else none
    | _ => none

/-- Cross and dot products. -/
def cross (a b : Rat × Rat × Rat) : Rat × Rat × Rat :=
  (a.2.1 * b.2.2 - a.2.2 * b.2.1, a.2.2 * b.1 - a.1 * b.2.2, a.1 * b.2.1 - a.2.1 * b.1)
def dot (a b : Rat × Rat × Rat) : Rat := a.1 * b.1 + a.2.1 * b.2.1 + a.2.2 * b.2.2
def vsub (a b : Rat × Rat × Rat) : Rat × Rat × Rat := (a.1 - b.1, a.2.1 - b.2.1, a.2.2 - b.2.2)

/-- Triangle (R455): t, barycentrics and front, or none. `e` is the leaf entry. -/
def triHit (r e : Nat) : Option (Nat × Nat × Bool) :=
  let w (k : Nat) : Rat := ratF32 (bitsOf e (32 * k + 31) (32 * k))
  let v (k : Nat) : Rat × Rat × Rat := (w (3 * k), w (3 * k + 1), w (3 * k + 2))
  let o : Rat × Rat × Rat := (ratF32 (ryO r 0), ratF32 (ryO r 1), ratF32 (ryO r 2))
  let d : Rat × Rat × Rat := (ratF32 (ryD r 0), ratF32 (ryD r 1), ratF32 (ryD r 2))
  let e1 := vsub (v 1) (v 0)
  let e2 := vsub (v 2) (v 0)
  let n := cross e1 e2
  let det := dot n d
  if det = 0 then none
  else
    let t := dot n (vsub (v 0) o) / det
    let p := vsub (o.1 + t * d.1, o.2.1 + t * d.2.1, o.2.2 + t * d.2.2) (v 0)
    let u := dot (cross p e2) n / dot n n
    let x := dot (cross e1 p) n / dot n n
    if 0 ≤ u ∧ 0 ≤ x ∧ u + x ≤ 1 then
      some (roundRat fp32 0 t, roundRat fp16 0 u + 65536 * roundRat fp16 0 x, decide (det < 0))
    else none

/-- A candidate is accepted against TMIN, TMAX, HK and HPRIM (R456). -/
def acceptable (tmin tmax hk hprim t p : Nat) : Bool :=
  match fpRead fp32 t with
  | .nan => false
  | x =>
    !fpLt x (fpRead fp32 tmin) &&
      (fpLt x (fpRead fp32 tmax) || (!fpLt (fpRead fp32 tmax) x && hk != 0 && decide (p < hprim)))

/-- Acceptance into a record (R456). -/
def acceptHit (r : Ray) (t p bary kind : Nat) (attr : Option (Nat × Nat)) : Ray :=
  let a := attr.getD (0, 0)
  { r with
    rcd := setField (setField (setField (setField (setField r.rcd 255 224 t) 799 768 p) 831 800 bary) 351 349 kind) 895 832
      (a.1 + 2 ^ 32 * a.2)
    attr := attr.isSome }

/-- How a ray's steps end. -/
inductive RayOut where
  | go
  /-- moves to the huddle of its SUBT -/
  | move
  /-- suspends with this kind -/
  | suspend
  | done (st reason : Nat)
  /-- waits for a page at its position -/
  | wait
  deriving DecidableEq, Repr

/-- The subtree being streamed: its number, blocks as 512-bit numbers, LEAFBASE. -/
structure Subtree where
  n : Nat
  nodes : Nat
  blocks : List Nat
  leaf : Nat
  deriving DecidableEq, Repr

/-- Pop (R457). -/
def rayPop (t : Subtree) (r : Ray) : Ray × RayOut :=
  let x := r.rcd
  if rySp x = 0 then (r, .done (if ryHk x != 0 then 0 else 1) 0)
  else
    let e := ryStk x (rySp x - 1)
    let x1 := setField (setField (setField (rySeat x 1 (e % 1024)) 489 484 (e / 1024 % 64)) 483 480 (rySp x - 1)) 463 448 (e / 65536)
    ({ r with rcd := x1 }, if e / 65536 = t.n then .go else .move)

/-- A child word's fields and box of a node block (R452). -/
def childWord (b c : Nat) : Nat := bitsOf b (128 + 16 * c + 15) (128 + 16 * c)
def childType (b c : Nat) : Nat := childWord b c / 2 ^ 14
def childN (b c : Nat) : Nat := childWord b c / 2 ^ 10 % 16
def childIdx (b c : Nat) : Nat := childWord b c % 2 ^ 10
def childByte (b c k : Nat) : Nat := bitsOf b (8 * (0x1C + 6 * c + k) + 7) (8 * (0x1C + 6 * c + k))
def nodeOrigin (b k : Nat) : Nat := bitsOf b (32 * k + 31) (32 * k)
def nodeStep (b k : Nat) : Rat := ratPow2 (sInt 8 (bitsOf b (96 + 8 * k + 7) (96 + 8 * k)))
def childLo (b c k : Nat) : Rat := ratF32 (nodeOrigin b k) + (childByte b c k : Rat) * nodeStep b k
def childHi (b c k : Nat) : Rat := ratF32 (nodeOrigin b k) + (childByte b c (k + 3) : Rat) * nodeStep b k

/-- A node block is well formed but for its links' words (R454). -/
def nodeOk (t : Subtree) (b : Nat) : Bool :=
  bitsOf b 127 120 == 0 && (List.range 3).all (fun k => fpFinite fp32 (nodeOrigin b k)) &&
    (List.range 6).all fun c =>
      let n := childN b c
      let i := childIdx b c
      let boxOk := (List.range 3).all fun k => childByte b c k ≤ childByte b c (k + 3)
      match childType b c with
      | 0 => n == 0 && i == 0
      | 1 => n == 0 && i != 0 && decide (i < t.nodes) && boxOk
      | 2 => n != 0 && decide (i + n ≤ 1024) && boxOk
      | _ => decide (i < t.nodes) && (List.range 16).all (fun k => decide (t.blocks.getD i 0 / 2 ^ (32 * k) % 2 ^ 32 < 65536)) && boxOk

/-- Blocks that are nodes: reached from the root through node children (R454 names every node; link blocks are none). -/
def reachNodes (t : Subtree) : Nat → List Nat → List Nat → List Nat
  | 0, _, seen => seen
  | _, [], seen => seen
  | f + 1, i :: todo, seen =>
    if seen.contains i then reachNodes t f todo seen
    else
      let b := t.blocks.getD i 0
      reachNodes t f ((List.range 6).filterMap (fun c => if childType b c = 1 then some (childIdx b c) else none) ++ todo) (i :: seen)

/-- A streamed subtree is well formed (R452, R454). -/
def subtreeOk (t : Subtree) : Bool :=
  let h := t.blocks.getD 0 0
  h % 2 ^ 32 == 0x31544253 && 2 ≤ t.nodes && t.nodes ≤ 1024 && bitsOf h 63 48 == 0 && bitsOf h 511 128 == 0
    && t.leaf % 64 == 0 && (reachNodes t 8192 [1] []).all fun i => nodeOk t (t.blocks.getD i 0)

/-- A leaf entry is well formed (R453, R454). -/
def entryOk (e : Nat) : Bool :=
  let efl := bitsOf e 351 320
  let proc := efl.testBit 0
  let fin (n : Nat) : Bool := (List.range n).all fun k => fpFinite fp32 (bitsOf e (32 * k + 31) (32 * k))
  bitsOf e 383 352 == 0 && efl / 65536 == 0 &&
    if proc then
      efl % 256 == 1 && fin 6 && bitsOf e 287 192 == 0 && bitsOf e 447 384 != 0 &&
        (List.range 3).all fun k => !fpLt (fpRead fp32 (bitsOf e (32 * k + 127) (32 * k + 96))) (fpRead fp32 (bitsOf e (32 * k + 31) (32 * k)))
    else
      efl % 256 / 4 == 0 && fin 9 && bitsOf e 511 448 == 0 && (if efl.testBit 1 then bitsOf e 447 384 != 0 else bitsOf e 447 384 == 0)

/-- After an entry: the next one, or a pop (R457). -/
def nextEntry (t : Subtree) (r : Ray) : Ray × RayOut :=
  let r1 : Ray := { r with rcd := setField (setField r.rcd 473 464 ((ryIdx r.rcd + 1) % 1024)) 477 474 (ryRem r.rcd - 1) }
  if ryRem r.rcd ≤ 1 then rayPop t r1 else (r1, .go)

/-- TestEntry on a fetched entry (R456, R457): suspended rays stay at the entry. -/
def testEntry (t : Subtree) (r : Ray) (e : Nat) : Ray × RayOut :=
  let efl := bitsOf e 351 320
  let prim := bitsOf e 319 288
  if entryOk e = false then (r, .done 4 0x40)
  else if (bitsOf efl 15 8 &&& ryRmask r.rcd) = 0 then nextEntry t r
  else if efl.testBit 0 then
    let lo (k : Nat) : Rat := ratF32 (bitsOf e (32 * k + 31) (32 * k))
    let hi (k : Nat) : Rat := ratF32 (bitsOf e (32 * k + 127) (32 * k + 96))
    match boxEnter r.rcd lo hi with
    | none => nextEntry t r
    | some d =>
      ({ r with skind := 1, ct := d, cbary := 0, cprim := prim, face := 3, rout := bitsOf e 447 384, user := bitsOf e 511 448 },
        .suspend)
  else
    match triHit r.rcd e with
    | none => nextEntry t r
    | some (x, bary, front) =>
      let kind := if front then 1 else 2
      if (ryFlag r.rcd 0 && !front) || (ryFlag r.rcd 1 && front) || rayEmpty r.rcd
          || !acceptable (ryTmin r.rcd) (ryTmax r.rcd) (ryHk r.rcd) (ryPrim r.rcd) x prim then nextEntry t r
      else if efl.testBit 1 && ryFlag r.rcd 3 && r.anyhit then
        ({ r with skind := 2, ct := x, cbary := bary, cprim := prim, face := kind, rout := bitsOf e 447 384, user := 0 }, .suspend)
      else
        let r1 := acceptHit r x prim bary kind none
        if ryFlag r1.rcd 2 then (r1, .done 0 0) else nextEntry t r1

/-- A node's entered children that a ray may visit, by entry distance and then number (R457). -/
def entered (r : Ray) (b : Nat) : List Nat :=
  let l := (List.range 6).filterMap fun c =>
    if childType b c != 0 && (ryMode r.rcd == 0 || (ryMask r.rcd).testBit c) then
      (boxEnter r.rcd (childLo b c) (childHi b c)).map fun d => (d, c)
    else none
  (l.mergeSort fun x y => !fpLt (fpRead fp32 y.1) (fpRead fp32 x.1)).map (·.2)

/-- Step on a node (R457). -/
def stepNode (t : Subtree) (r : Ray) : Ray × RayOut :=
  let i := ryIdx r.rcd
  if i = 0 ∨ t.nodes ≤ i ∨ 2 < ryMode r.rcd ∨ nodeOk t (t.blocks.getD i 0) = false then (r, .done 4 0x40)
  else
    let b := t.blocks.getD i 0
    match entered r b with
    | [] => rayPop t r
    | h :: rest =>
      if rest != [] && rySp r.rcd == 8 then (r, .done 4 0x41)
      else
        let x := r.rcd
        let x1 :=
          if rest = [] then x
          else
            let sp := rySp x
            setField (setField x (543 + 32 * sp) (512 + 32 * sp) (t.n * 65536 + bitMask rest * 1024 + i)) 483 480 (sp + 1)
        match childType b h with
        | 1 => ({ r with rcd := rySeat x1 0 (childIdx b h) }, .go)
        | 2 => ({ r with rcd := setField (rySeat x1 2 (childIdx b h)) 477 474 (childN b h) }, .go)
        | _ =>
          let word := t.blocks.getD (childIdx b h) 0 / 2 ^ (32 * childN b h) % 65536
          ({ r with rcd := setField (rySeat x1 0 1) 463 448 word }, .move)

/-- Step a ray until it leaves, `fuel` steps at most (R461, log 19). -/
def rayRun (t : Subtree) : Nat → State → Ray → State × Ray × RayOut
  | 0, s, r => (s, r, .go)
  | n + 1, s, r =>
    if r.cancel then (s, r, .done 5 0)
    else if ryMode r.rcd = 2 then
      if ryRem r.rcd = 0 ∨ 1024 < ryIdx r.rcd + ryRem r.rcd then (s, r, .done 4 0x40)
      else
        match engineRead s r.gath r.ctx ((t.leaf + 64 * ryIdx r.rcd) % 2 ^ 64) 64 with
        | (s1, .error 0) => (s1, r, .wait)
        | (s1, .error e) => (s1, r, .done 4 e)
        | (s1, .ok bs) =>
          match testEntry t r (bytesVal bs) with
          | (r1, .go) => rayRun t n s1 r1
          | (r1, o) => (s1, r1, o)
    else
      match stepNode t r with
      | (r1, .go) => rayRun t n s r1
      | (r1, o) => (s, r1, o)

/-- The state block of a suspension (R451). -/
def stateBlock (r : Ray) : Nat :=
  bitsOf r.rcd 255 0 + 2 ^ 256 * r.handle + 2 ^ 288 * bitsOf r.rcd 479 448 + 2 ^ 320 * bitsOf r.rcd 511 480
    + 2 ^ 352 * bitsOf r.rcd 351 320 + 2 ^ 384 * r.cprim + 2 ^ 416 * r.ct + 2 ^ 448 * r.cbary + 2 ^ 480 * r.skind

/-- A ray suspends (R463): its state block and record are written, and it waits in the routine queue, with its place by the moment it
suspended; a write that waits for a page leaves it there (R466). -/
def suspendRay (s0 : State) (r0 : Ray) : State :=
  let again : Bool := r0.at_ == .routineQ
  let r : Ray := if again then r0 else { r0 with order := s0.nextId, rcd := setField r0.rcd 383 352 (2 ^ 32 - 1) }
  let s : State := if again then s0 else { s0 with nextId := s0.nextId + 1 }
  let queue (s : State) (waits : Bool) : State := s.setRay r.ctx r.handle fun _ => { r with at_ := .routineQ, wpend := waits }
  match engineWrite s r.gath r.ctx (rayAddr s r.ctx (r.handle + 1)) (bytesOf 64 (stateBlock r)) with
  | (s1, some 0) => queue s1 true
  | (s1, some e) => completeRay s1 r 4 e
  | (s1, none) =>
    match writeRay s1 r with
    | (s2, some 0) => queue s2 true
    | (s2, some e) => rayDone s2 { r with rcd := failRecord r.rcd e }
    | (s2, none) => queue s2 false

/-- A state that a block may be reloaded with: every field in the range and with a code of R449, a leaf entry within its array
(R451, R449, R454). -/
def reloadOk (x : Nat) : Bool :=
  ryMode x ≤ 2 && rySp x ≤ 8 && (ryMode x != 2 || (ryRem x != 0 && ryIdx x + ryRem x ≤ 1024)) && bitsOf x 511 490 == 0
    && ryHk x ≤ 3 && ryStatus x != 6 && 1 ≤ ryDepth x

/-- What a resumed ray is reloaded from: its state block, and its record as it stands in memory, whose stack pops read (R451). -/
def resumeRead (s : State) (r : Ray) : State × Except Nat (Nat × Nat) :=
  match engineRead s r.gath r.ctx (rayAddr s r.ctx (r.handle + 1)) 64 with
  | (s1, .error e) => (s1, .error e)
  | (s1, .ok b) =>
    match engineRead s1 r.gath r.ctx (rayAddr s1 r.ctx r.handle) 128 with
    | (s2, .error e) => (s2, .error e)
    | (s2, .ok x) => (s2, .ok (bytesVal b, bytesVal x))

/-- A resumed ray goes on (R465): its block is reloaded, its pending hit accepted, and it rejoins its huddle. None while
a page is not valid. -/
def resumeRay (s : State) (r0 : Ray) (pend : Option Hit) : Option State × State :=
  match resumeRead s r0 with
  | (s1, .error 0) => (none, s1)
  | (s1, .error e) => let s2 := completeRay s1 { r0 with stale := true } 4 e; (some s2, s2)
  | (s1, .ok (b, m)) =>
    let x := cleanFlags (setField (setField (setField (setField m 255 0 (bitsOf b 255 0)) 479 448 (bitsOf b 319 288)) 511 480
      (bitsOf b 351 320)) 351 320 (bitsOf b 383 352))
    let r : Ray := { r0 with rcd := x, stale := false }
    let out (s : State) : Option State × State := (some s, s)
    if r0.cancel then out (completeRay s1 r 5 0)
    else if reloadOk x = false then out (completeRay s1 r 4 0x40)
    else
      let ok : Bool := match pend with
        | some h => acceptable (ryTmin x) (ryTmax x) (ryHk x) (ryPrim x) h.t h.prim
        | none => false
      let r1 := match pend with
        | some h => if ok then acceptHit r h.t h.prim h.bary h.kind h.attr else r
        | none => r
      if ok && ryFlag r1.rcd 2 then out (completeRay s1 r1 0 0)
      else if ryMode r1.rcd = 2 then
        match nextEntry { n := rySubt r1.rcd, nodes := 0, blocks := [], leaf := 0 } r1 with
        | (r2, .done st e) => out (completeRay s1 r2 st e)
        | (r2, _) => out (moveRay s1 r2)
      else out (moveRay s1 r1)

/-- Routine threads that have exited while they hold their rays resume them, once their own accesses are done, as the release of an
IRESUME asks (R465, R473). -/
def resumeExited (s : State) (g : Nat) : State :=
  s.quires.foldl (fun s0 q0 =>
    if gathOf q0.slot.core != g || !(q0.th.any fun th => th.x && (th.ray.map (·.held)).getD false) then s0
    else
      let s := serveQuire s0 q0.slot
      let q := (s.quire q0.slot).getD q0
      (q.th.zipIdx).foldl (fun s e =>
        match e.1.ray with
        | some x =>
          if e.1.x && x.held && !busyThreads q [e.2] then
            match s.ray q.ctx x.handle with
            | none => s.setQuire q.slot fun y => y.setTh e.2 fun th => { th with ray := some { x with held := false } }
            | some r =>
              match resumeRay s r x.pend with
              | (some s1, _) => s1.setQuire q.slot fun y => y.setTh e.2 fun th => { th with ray := some { x with held := false } }
              | (none, s1) => s1
          else s
        | none => s) s) s

/-- Record writes that waited are made again, those of LINK alone among them; a ray whose LINK met another fault completes (R466). -/
def redoWrites (s0 : State) (g : Nat) : State :=
  let s := (s0.rays.filter fun r => r.gath == g && r.link.isSome).foldl (fun s r =>
    match r.link with
    | some 0 => if r.wpend || r.at_ != .huddle then s else linkRay s g r.ctx r.handle (bitsOf r.rcd 383 352)
    | some e => if r.at_ != .huddle then s else rayDone (leaveHuddle s r.ctx r.handle) { r with rcd := failRecord r.rcd e }
    | none => s) s0
  (s.rays.filter fun r => r.gath == g && r.wpend).foldl (fun s r =>
    match r.at_ with
    | .ending => endRay s r
    | .routineQ => suspendRay s r
    | _ =>
      match writeRay s r with
      | (s1, none) => s1.setRay r.ctx r.handle fun x => { x with wpend := false, link := none }
      | (s1, some 0) => s1
      | (s1, some e) => rayDone (leaveHuddle s1 r.ctx r.handle) { r with rcd := failRecord r.rcd e }) s

/-- The arrival cycle of a huddle's oldest present ray (R214, R460). -/
def huddleSince (s : State) (u : Huddle) : Nat :=
  (u.rays.filterMap (s.ray u.ctx)).foldl (fun n r => min n r.joined) s.cycle

/-- The next huddle of an engine (R214): the oldest past 50,000 cycles, else the fullest. Of two whose oldest rays have waited equally
long R214 names none: the one listed first, which has had its head longer (DESIGN CHOICE, log 114). -/
def chooseHuddle (s : State) (g : Nat) : Option Huddle :=
  let l := s.huddles.filter fun u => u.gath == g && !u.susp && !(s.ctx u.ctx).dead
    && !(s.rays.any fun r => r.ctx == u.ctx && (r.wpend || r.link.isSome) && u.rays.contains r.handle)
  let old := l.filter fun u => huddleSince s u + 50000 ≤ s.cycle
  let first (better : Huddle → Huddle → Bool) (l : List Huddle) : Option Huddle :=
    l.foldl (fun (b : Option Huddle) u => match b with
      | none => some u
      | some x => if better u x then some u else some x) none
  if old ≠ [] then first (fun a b => huddleSince s a < huddleSince s b) old
  else
    let n (u : Huddle) : Nat := if u.addr.isNone then 0 else u.rays.length
    first (fun a b =>
      if n a ≠ n b then n b < n a else if a.ctx ≠ b.ctx then a.ctx < b.ctx else a.addr.getD 0 < b.addr.getD 0)
      (l.filter fun u => u.addr.isSome)

/-- Mark a huddle suspended until GO (R466). -/
def suspendHuddle (s : State) (u : Huddle) : State :=
  { s with huddles := updWhere (fun x => x.gath == u.gath && x.ctx == u.ctx && x.addr == u.addr) (fun x => { x with susp := true }) s.huddles }

/-- Block `i` of a subtree: as it has been streamed already, or read now (R461). -/
def readBlock (kept : List (Nat × List Byte)) (s : State) (g c a i : Nat) : State × Except Nat (List Byte) :=
  match kept.find? fun e => e.1 == i with
  | some e => (s, .ok e.2)
  | none => engineRead s g c (a + 64 * i) 64

/-- NODES of a header block (R452), where the magic number and the bounds of R454 hold. -/
def streamNodes (h : Nat) : Option Nat :=
  let nodes := bitsOf h 47 32
  if h % 2 ^ 32 ≠ 0x31544253 ∨ nodes < 2 ∨ 1024 < nodes then none else some nodes

/-- Stream what is left of a subtree (R461): its blocks, or the reason of a fault. -/
def streamSubtree (kept : List (Nat × List Byte)) (s : State) (g c a : Nat) : State × Except Nat Subtree :=
  match readBlock kept s g c a 0 with
  | (s1, .error r) => (s1, .error r)
  | (s1, .ok bs) =>
    let h := bytesVal bs
    let t : Subtree := { n := 0, nodes := bitsOf h 47 32, blocks := [h], leaf := bitsOf h 127 64 }
    match streamNodes h with
    | none => (s1, .ok t)
    | some nodes =>
      (List.range (nodes - 1)).foldl
        (fun x i =>
          match x.2 with
          | .error r => (x.1, .error r)
          | .ok y =>
            match readBlock kept x.1 g c a (i + 1) with
            | (s2, .error r) => (s2, .error r)
            | (s2, .ok b) => (s2, .ok { y with blocks := y.blocks ++ [bytesVal b] })) (s1, .ok t)

/-- More steps than any service takes (R461, log 19). -/
def rayFuel : Nat := 2 ^ 64

/-- Serve one admitted ray over a streamed subtree, which is the ray's subtree SUBT of its scene (R457); one that waits for a page stays
as it stands (R466). -/
def serveRay (u : Huddle) (t : Subtree) (s : State) (h : Nat) : State :=
  match s.ray u.ctx h with
  | none => s
  | some r0 =>
    if r0.at_ != .huddle then s
    else
      match engineRead s u.gath u.ctx (rayAddr s u.ctx h) 128 with
      | (s1, .error 0) => s1
      | (s1, .error e) => completeRay s1 { r0 with stale := true } 4 e
      | (s1, .ok bs) =>
        let r : Ray := { r0 with rcd := cleanFlags (bytesVal bs), stale := false }
        if r.cancel then completeRay s1 r 5 0
        else if rayInvalid r.rcd then completeRay s1 r 1 0
        else if reloadOk r.rcd = false then completeRay s1 r 4 0x40
        else
          match rayRun { t with n := rySubt r.rcd } rayFuel s1 r with
          | (s2, r1, .go) => moveRay s2 r1
          | (s2, r1, .move) => moveRay s2 r1
          | (s2, r1, .suspend) => suspendRay s2 r1
          | (s2, r1, .done st e) => completeRay s2 r1 st e
          | (s2, r1, .wait) =>
            let r2 : Ray := { r1 with rcd := setField r1.rcd 383 352 (nextIn u.rays h) }
            match writeRay s2 r2 with
            | (s3, none) => s3.setRay u.ctx h fun _ => r2
            | (s3, some 0) => s3.setRay u.ctx h fun _ => { r2 with wpend := true }
            | (s3, some e) => rayDone s3 { r2 with rcd := failRecord r2.rcd e }

/-- Admitted rays leave their huddle's chain, whose head is freed when it empties (R460, R461). -/
def admitRays (s : State) (u : Huddle) (adm : List Nat) : State :=
  { s with
    huddles := (updWhere (fun x => x.gath == u.gath && x.ctx == u.ctx && x.addr == u.addr)
      (fun x => { x with rays := x.rays.filter fun h => !adm.contains h }) s.huddles).filter fun x => x.rays != [] }

/-- Admitted rays that wait for a page return to the front of their huddle, in their order, and the huddle is suspended (R466). Where its
head has been freed and taken they join their context's overflow huddle (R460). -/
def returnRays (s : State) (u : Huddle) (adm : List Nat) : State :=
  let out (h : Nat) : Bool := ((s.ray u.ctx h).map fun r => r.at_ == .huddle).getD false
    && !(s.huddles.any fun x => x.ctx == u.ctx && x.rays.contains h)
  match adm.filter out with
  | [] => s
  | back =>
    let here (x : Huddle) : Bool := x.gath == u.gath && x.ctx == u.ctx && x.addr == u.addr
    let link (s : State) (new : List Nat) : State :=
      back.foldl (fun s h => if nextIn u.rays h = nextIn new h then s else linkRay s u.gath u.ctx h (nextIn new h)) s
    match s.huddles.find? here with
    | some x =>
      let s1 := link s (back ++ x.rays)
      suspendHuddle { s1 with huddles := updWhere here (fun x => { x with rays := back ++ x.rays }) s1.huddles } u
    | none =>
      if (s.huddles.filter fun x => x.gath == u.gath && x.addr.isSome).length < 4096 then
        let s1 := link s back
        { s1 with huddles := s1.huddles ++ [{ u with rays := back, susp := true }] }
      else back.foldl (fun s h => match s.ray u.ctx h with
        | some r => joinHuddle s r
        | none => s) s

/-- The rays of an overflow huddle are filed where heads are free (R460). -/
def fileRays (g : Nat) (u : Huddle) (s : State) : State :=
  u.rays.foldl (fun s h =>
    match s.ray u.ctx h with
    | some r =>
      if (s.huddles.filter fun x => x.gath == g && x.addr.isSome).length < 4096 then
        let s1 := leaveHuddle s r.ctx r.handle
        let s2 := if bitsOf r.rcd 383 352 = 2 ^ 32 - 1 then s1 else linkRay s1 g r.ctx r.handle (2 ^ 32 - 1)
        joinHuddle s2 ((s2.ray u.ctx h).getD r)
      else s
    | none => s) s

/-- Steps 3 and 4 of a service (R461): what is left of the subtree is streamed, and every admitted ray stepped. -/
def runService (v : Serving) (a : Nat) (s : State) : State :=
  let u := v.huddle
  let fail (s : State) (e : Nat) : State :=
    v.adm.foldl (fun s h => match s.ray u.ctx h with
      | some r => completeRay s { r with stale := true } 4 e
      | none => s) s
  match streamSubtree v.blocks s u.gath u.ctx a with
  | (s1, .error 0) => returnRays s1 u v.adm
  | (s1, .error e) => fail s1 e
  | (s1, .ok t) => if subtreeOk t then returnRays (v.adm.foldl (serveRay u t) s1) u v.adm else fail s1 0x40

/-- The service an engine has begun. -/
def serviceOf (s : State) (g : Nat) : Option Serving := s.serving.find? fun v => v.huddle.gath == g

/-- TRAVERSAL_SERVICE: one service of an engine, or the rest of the one that it has begun (R460, R461, R466). -/
def execTraversalService (g : Nat) (s : State) : Host.Outcome State Fault Refusal :=
  let s0 := redoWrites (resumeExited s g) g
  match serviceOf s0 g with
  | some v => .next (runService v (v.huddle.addr.getD 0) { s0 with serving := s0.serving.filter fun x => x.huddle.gath != g })
  | none =>
    match chooseHuddle s0 g with
    | none => .next s0
    | some u =>
      match u.addr with
      | none => .next (fileRays g u s0)
      | some a =>
        let adm := u.rays.take 2048
        .next (runService { huddle := u, adm := adm, blocks := [] } a (admitRays s0 u adm))

/-- Steps 1 and 2 of an engine's next service, where it has begun none (R461). -/
def beginService (s : State) (g : Nat) : State :=
  if (serviceOf s g).isSome then s
  else
    match (chooseHuddle s g).filter fun u => u.addr.isSome with
    | none => s
    | some u =>
      let adm := u.rays.take 2048
      let s1 := admitRays s u adm
      { s1 with serving := { huddle := u, adm := adm, blocks := [] } :: s1.serving }

/-- One block of the subtree of an engine's service is streamed, apart from the others (R107, R461). A block that cannot be read is
left to the service's end, which meets the fault. -/
def streamBlock (g i : Nat) (s : State) : State :=
  let s0 := beginService s g
  match serviceOf s0 g with
  | none => s0
  | some v =>
    let due : Bool := i == 0 || ((v.blocks.find? fun e => e.1 == 0).bind fun e => streamNodes (bytesVal e.2)).any fun n => decide (i < n)
    if !due || v.blocks.any (fun e => e.1 == i) then s0
    else
      match engineRead s0 g v.huddle.ctx (v.huddle.addr.getD 0 + 64 * i) 64 with
      | (_, .error _) => s0
      | (s1, .ok bs) =>
        { s1 with serving := updWhere (fun x => x.huddle.gath == g) (fun x => { x with blocks := (i, bs) :: x.blocks }) s1.serving }

/-- LIST_APPEND_APPLY: an append that may be applied is applied (R435, R437); a traversal append lets its ray complete
(R459). -/
def execListAppendApply (n k : Nat) (s : State) : Host.Outcome State Fault Refusal :=
  let s0 := takeMerges s
  match s0.pass n with
  | none => .next s0
  | some p =>
    match p.appends.find? fun a => a.id == k with
    | none => .next s0
    | some a =>
      if (a.merging && a.result.isNone) || !appendReady s0 p a then .next s0
      else
        match applyAppend s0 p a with
        | (s1, none) => .next s1
        | (s1, some st) =>
          let s2 := answerAppend s1 n a st
          .next (match a.ray.bind fun h => s2.ray p.ctx h with
            | some r => endRay s2 { r with appStat := st }
            | none => s2)

/-- ROUTINE_FOLIO_LAUNCH: up to 16 queued rays with one key run in a folio of their template, at the distributor's turn (R208,
R463, R464); a template that fails completes its rays. -/
def execRoutineFolioLaunch (g : Nat) (s : State) : Host.Outcome State Fault Refusal :=
  match routineRays s g with
  | [] => .next s
  | r0 :: rest =>
    let l := r0 :: rest
    let tmpl : State × Except Nat Nat :=
      match engineRead s g r0.ctx r0.rout 64 with
      | (s1, .error e) => (s1, .error e)
      | (s1, .ok b0) =>
        match engineRead s1 g r0.ctx (r0.rout + 64) 64 with
        | (s2, .error e) => (s2, .error e)
        | (s2, .ok b1) => (s2, .ok (bytesVal (b0 ++ b1)))
    match tmpl with
    | (s1, .error 0) => .next s1
    | (s1, .error e) => .next (l.foldl (fun s r => completeRay s { r with stale := true } 4 e) s1)
    | (s1, .ok raw) =>
      let x := s1.ctx r0.ctx
      if routineOk x.tgHsize x.tgQsize (routineRcd raw l.length) = false then
        .next (l.foldl (fun s r => completeRay s { r with stale := true } 4 0x42) s1)
      else .next (distribute s1 fun p => p.stage == .routine && p.gath == some g)

end Sys2Proof.Machine
end

