-- ==== Sys2Proof/Machine/RayWords.lean ====
section
/-! DEFINITION. The ray instructions (R468 to R474): TRACE, TWAIT, THIT, IREPORT, IRESUME and TCANCEL. -/

namespace Sys2Proof.Machine

/-- What a trace starts from (R469): the record's fields before allocation, and the payload. -/
structure RayImg where
  t : Nat
  u : Nat
  depth : Nat
  /-- record bits 335:0: geometry, SCENE, RMASK, FLAGS -/
  low : Nat
  pix : Nat
  ord : Nat
  col : Nat
  pay : List Byte
  deriving DecidableEq, Repr

/-- What a routine thread was started with, of the ray it works for: DEPTH, PIX, ORD, node (R464, R469). -/
def outerRay (q : Quire) (t : Nat) : Option RayTh := (q.th[t]?).bind (·.ray)

/-- Depth of a trace by a thread of a quire: one more than the routine's ray, or 1. -/
def traceDepth (q : Quire) (t : Nat) : Nat := ((outerRay q t).map (·.depth)).getD 0 + 1

/-- PIX and ORD of a trace (R469): the fragment's, the outer ray's, or the given ones. -/
def traceAt (q : Quire) (t : Nat) (given : Nat × Nat) : Nat × Nat :=
  match threadFrag q t with
  | some (x, y, o) => (x + 65536 * y, o)
  | none => ((outerRay q t).map fun r => (r.pix, r.ord)).getD given

/-- The record of a new ray (R449, R469). -/
def newRecord (slot : Slot) (c fid : Nat) (m : RayImg) : Nat :=
  let r0 := m.low % 2 ^ 336
  let sets : List (Nat × Nat × Nat) :=
    [(340, 336, m.depth), (343, 341, 7), (348, 344, m.u), (383, 352, 2 ^ 32 - 1), (389, 384, c)]
      ++ [(395, 390, gathOf slot.core), (397, 396, slot.core % 4), (403, 398, slot.lane), (405, 404, slot.q), (411, 406, m.t)]
      ++ [(447, 416, fid), (473, 464, 1), (799, 768, 2 ^ 32 - 1), (927, 896, m.pix), (959, 928, m.ord), (1023, 960, m.col)]
  sets.foldl (fun r e => setField r e.1 e.2.1 e.2.2) r0

/-- One thread's trace: the state, its handle, or none when it waits (true) for a page or (false) for the pool, or the
reason and address of a fault. -/
inductive TraceOut where
  | handle (h : Nat)
  | page
  | pool
  | fault (va r : Nat)
  deriving DecidableEq, Repr

/-- Allocate, write the record and the payload, and enqueue (R469). -/
def traceOne (s : State) (q : Quire) (m : RayImg) : State × TraceOut :=
  let det := rcDet (s.rcdOf q.slot)
  match rayAlloc s q.ctx (rayBlockCount m.u) with
  | none =>
    if det then (s, .pool) else (s.setCtx q.ctx fun x => { x with rayFull := true }, .handle 0xFFFFFFF3)
  | some h =>
    let a := rayAddr s q.ctx h
    let v : Via := { core := some q.slot.core, gath := some (gathOf q.slot.core) }
    match xlate s v q.ctx a .write with
    | (s1, .error r) =>
      let s2 := faultRecord s1 q.ctx (whoSlot q.slot) a r 1 0 (r == 0)
      (s2, if r = 0 then .page else .fault a r)
    | (s1, .ok _) =>
      let fid := ((s.folio q.folio).map (·.fid)).getD 0
      let rcd := newRecord q.slot q.ctx fid m
      let ray : Ray :=
        { handle := h, ctx := q.ctx, folio := q.folio, rcd := rcd
          node := ((outerRay q m.t).map (·.node)).getD (((s.folio q.folio).map (·.node)).getD 0)
          gath := gathOf q.slot.core, slot := q.slot, tidx := m.t
          anyhit := ((outerRay q m.t).map (·.anyhit)).getD (rcAnyhit (s.rcdOf q.slot))
          at_ := .huddle, skind := 0, ct := 0, cbary := 0, cprim := 0, face := 0, rout := 0, user := 0, cancel := false
          appStat := 7, attr := false, wpend := false, stale := false, link := none, born := s1.nextId
          tile := ((outerRay q m.t).map (·.tile)).getD (((s.folio q.folio).map (·.tile)).getD 0), order := 0, joined := 0 }
      let s2 := { ({ s1 with nextId := s1.nextId + 1 }.setCtx q.ctx fun x => { x with rayBlocks := (h, rayBlockCount m.u) :: x.rayBlocks }) with
        rays := s1.rays ++ [ray] }
      let put (s : State) (o : Nat) (bs : List Byte) : State :=
        (List.range ((bs.length + 15) / 16)).foldl (fun s i =>
          (agentWrite s v q.ctx (a + o + 16 * i) ((bs.drop (16 * i)).take 16)).1) s
      (joinHuddle (put (put s2 0 (bytesOf 128 rcd)) 256 m.pay) ray, .handle h)

/-- Traces of the threads in order: those done, and how it stopped if it did. -/
def traceAll (q : Quire) (d : Nat) : List RayImg → List (Nat × Nat) → State → State × List (Nat × Nat) × Option TraceOut × List Trapped
  | [], done, s => (s, done, none, [])
  | m :: rest, done, s =>
    match traceOne s q m with
    | (s1, .handle h) =>
      traceAll q d rest (done ++ [(m.t, 1)]) (s1.setQuire q.slot fun x => x.putV m.t d 1 h)
    | (s1, .fault va r) =>
      let x := traceAll q d rest done s1
      (x.1, x.2.1, x.2.2.1, ⟨m.t, reasonTrap r, r, va⟩ :: x.2.2.2)
    | (s1, o) => (s1, done, some o, [])

/-- The part of a trace after its images are known (R469): depth, allocation, release, records. `bad` are the traps met before; those
of the whole word are taken together, the lower code first (R399). -/
def traceBody (f : Full) (imgs : List RayImg) (bad : List Trapped) (s : State) (cur : Cur) (q : Quire) : State :=
  let r := s.rcdOf cur.slot
  let todo := imgs.filter fun m => !(cur.prog.any fun e => e.1 == m.t)
  let deep := todo.filter fun m => rcRdepth r < m.depth
  let s1 :=
    if rcDepthTrap r then s
    else s.setQuire cur.slot fun x => deep.foldl (fun x m => x.putV m.t f.d.toNat 1 0xFFFFFFF2) x
  let steep : List Trapped := if rcDepthTrap r then deep.map fun m => ⟨m.t, 0x25, 0, 0⟩ else []
  let go := todo.filter fun m => m.depth ≤ rcRdepth r
  let x := traceAll q f.d.toNat go cur.prog s1
  let d2 := dropTraps x.1 cur (bad ++ steep ++ x.2.2.2)
  match x.2.2.1 with
  | some .page => waitPage d2.1 { d2.2 with prog := x.2.1 }
  | some .pool => againCur d2.1 { d2.2 with prog := x.2.1 }
  | _ => d2.1

/-- A trace word's frame: a member of a region traps; the release at `.ga` waits for the threads' own accesses (R468,
R469). `imgs` gives the images of the other threads, or none where a page is waited for, and the traps met. -/
def traceWord (f : Full) (imgs : State → Cur → Quire → State × Option (List RayImg) × List Trapped) (s : State) :
    Host.Outcome State Fault Refusal :=
  match s.active with
  | none => .next s
  | some cur =>
    match s.quire cur.slot with
    | none => .next s
    | some q =>
      let bad := (cur.act.filter q.member).map fun t => (⟨t, 0x28, 0, 0⟩ : Trapped)
      let act := cur.act.filter fun t => !q.member t
      if act = [] then .next (dropTraps s cur bad).1
      else
        let s1 := serveQuire s cur.slot
        if ((s1.quire cur.slot).map fun q => busyThreads q act).getD false then
          let d := dropTraps s1 cur bad
          .next (againCur d.1 d.2)
        else
          match imgs s1 { cur with act := act } q with
          | (s2, none, l) => let d := dropTraps s2 cur (bad ++ l); .next (waitPage d.1 d.2)
          | (s2, some m, l) => .next (traceBody f m (bad ++ l) s2 cur q)

/-- TRACE (R469). -/
def execTrace (_ : Hdr) (f : Full) (s : State) : Host.Outcome State Fault Refusal :=
  traceWord f
    (fun s cur q =>
      let u := f.cls.toNat
      if rcPayload (s.rcdOf cur.slot) < u then
        (s, some [], cur.act.map fun t => ⟨t, 0x24, 0, 0⟩)
      else
        (s, some (cur.act.map fun t =>
          let ctl := block q cur true t (f.b.toNat + 2) 1
          let at_ := traceAt q t (2 ^ 32 - 1, 0)
          { t := t, u := u, depth := traceDepth q t
            low := block q cur f.sa t f.a.toNat 8 + 2 ^ 256 * block q cur true t f.b.toNat 2 + 2 ^ 320 * (ctl % 256)
              + 2 ^ 328 * (ctl / 256 % 32)
            pix := at_.1, ord := at_.2, col := 0
            pay := if u = 0 then [] else bytesOf (16 * u) (block q cur f.sc t f.c.toNat (4 * u)) }), [])) s

/-- `n` blocks of 16 bytes that a quire reads on route 0: the bytes, or the reason and the address of the first fault, its
record written (R42). -/
def readSpan (slot : Slot) (c : Nat) : Nat → Nat → State → State × Except (Nat × Nat) (List Byte)
  | 0, _, s => (s, .ok [])
  | n + 1, a, s =>
    match quireRead s slot c a 16 with
    | (s1, .error r) => (s1, .error (r, a))
    | (s1, .ok bs) =>
      match readSpan slot c n (a + 16) s1 with
      | (s2, .error e) => (s2, .error e)
      | (s2, .ok l) => (s2, .ok (bs ++ l))

/-- Record images with their payloads (R469): whether a page is not valid, the images read, the traps. -/
def readTraces (slot : Slot) (c : Nat) : List (Nat × Nat) → State → State × Bool × List (Nat × List Byte × List Byte) × List Trapped
  | [], s => (s, false, [], [])
  | (t, a) :: rest, s =>
    let img : State × Except (Nat × Nat) (List Byte × List Byte) :=
      match readSpan slot c 8 a s with
      | (s1, .error e) => (s1, .error e)
      | (s1, .ok bs) =>
        match readSpan slot c (ryPu (bytesVal bs)) (a + 128) s1 with
        | (s2, .error e) => (s2, .error e)
        | (s2, .ok l) => (s2, .ok (bs, l))
    match img with
    | (s1, .error (r, va)) =>
      if r = 0 then (s1, true, [], [])
      else let x := readTraces slot c rest s1; (x.1, x.2.1, x.2.2.1, ⟨t, reasonTrap r, r, va⟩ :: x.2.2.2)
    | (s1, .ok e) => let x := readTraces slot c rest s1; (x.1, x.2.1, (t, e.1, e.2) :: x.2.2.1, x.2.2.2)

/-- TRACE.rec (R469). -/
def execTraceRec (_ : Hdr) (f : Full) (s : State) : Host.Outcome State Fault Refusal :=
  traceWord f
    (fun s cur q =>
      let addr (t : Nat) : Nat := block q cur f.sa t f.a.toNat 2
      let odd := cur.act.filter fun t => addr t % 16 ≠ 0
      let p := readTraces cur.slot q.ctx ((cur.act.filter fun t => !odd.contains t).map fun t => (t, addr t)) s
      let bad : List Trapped := (odd.map fun t => ⟨t, 0x08, 0, addr t⟩) ++ p.2.2.2
      if p.2.1 then (p.1, none, bad)
      else
        let big := p.2.2.1.filter fun e => rcPayload (p.1.rcdOf cur.slot) < ryPu (bytesVal e.2.1)
        (p.1, some ((p.2.2.1.filter fun e => !(big.any fun b => b.1 == e.1)).map fun e =>
          let x := bytesVal e.2.1
          let at_ := traceAt q e.1 (ryPix x, ryOrd x)
          { t := e.1, u := ryPu x, depth := ryDepth x + 1, low := x % 2 ^ 333, pix := at_.1, ord := at_.2
            col := bitsOf x 1023 960, pay := e.2.2 }), bad ++ big.map fun e => ⟨e.1, 0x24, 0, 0⟩)) s

/-- The ray of a thread that a handle names: a live record whose place is the thread's (R468). -/
def namedRay (s : State) (q : Quire) (t h : Nat) : Option Ray :=
  (s.ray q.ctx h).bind fun r => if r.slot == q.slot && r.tidx == t then some r else none

/-- A ray is not complete. -/
def rayOpen (r : Ray) : Bool := r.at_ != .complete

/-- Read the records of complete rays that threads name (R470, R471, R466): the first page that is not valid, the traps, the
records. -/
def readRays (s : State) (cur : Cur) (q : Quire) (hs : List (Nat × Nat)) : State × Bool × List (Nat × List Byte) × List Trapped :=
  readImages cur.slot q.ctx 128
    (hs.filterMap fun e => (namedRay s q e.1 e.2).bind fun r =>
      if rayOpen r then none else some (e.1, rayAddr s q.ctx e.2)) s

/-- The status of a handle that names no record (R470). -/
def handleStatus (h : Nat) : Nat := if h = 0xFFFFFFF2 then 2 else if h = 0xFFFFFFF3 then 3 else 5

/-- TWAIT once the word has issued: its wait or its results (R470); `bad` are the threads that have trapped at it (R399). -/
def twaitBody (f : Full) (bad : List Trapped) (s : State) (cur0 : Cur) : State :=
  match s.quire cur0.slot with
  | none => s
  | some q =>
    let cur : Cur := { cur0 with act := cur0.act.filter fun t => !(bad.any fun e => e.t == t) }
    let hs := cur.act.map fun t => (t, block q cur f.sa t f.a.toNat 1)
    if hs.any fun e => ((namedRay s q e.1 e.2).map rayOpen).getD false then
      let d := dropTraps s cur0 bad
      blockCur d.1 d.2 .twait 0x1D2 f
    else
      let r := readRays s cur q hs
      let d := dropTraps r.1 cur0 (bad ++ r.2.2.2)
      if r.2.1 then waitPage d.1 d.2
      else
        d.1.setQuire cur.slot fun x =>
          hs.foldl (fun x e =>
            if !d.2.act.contains e.1 then x
            else
              x.putV e.1 f.d.toNat 1
                (match r.2.2.1.find? fun y => y.1 == e.1 with
                  | some y => ryStatus (bytesVal y.2)
                  | none => handleStatus e.2)) x

/-- The traps of both forms of TWAIT (R468, R470). -/
def twaitWord (body : List Trapped → State → Cur → State) (s : State) : Host.Outcome State Fault Refusal :=
  match s.active with
  | none => .next s
  | some cur =>
    match s.quire cur.slot with
    | none => .next s
    | some q =>
      let bad := cur.act.filterMap fun t =>
        if q.member t then some (⟨t, 0x28, 0, 0⟩ : Trapped) else if sectionOpen s q t then some ⟨t, 0x23, 0, 0⟩ else none
      .next (if cur.act.all fun t => bad.any fun e => e.t == t then (dropTraps s cur bad).1 else body bad s cur)

/-- TWAIT (R470). -/
def execTwait (_ : Hdr) (f : Full) (s : State) : Host.Outcome State Fault Refusal := twaitWord (twaitBody f) s

/-- TWAIT.all once the word has issued (R470). -/
def twaitAllBody (f : Full) (s : State) (cur : Cur) : State :=
  let q := s.quire cur.slot
  if s.rays.any fun r => rayOpen r && r.slot == cur.slot && some r.folio == q.map (·.folio) && cur.act.contains r.tidx then
    blockCur s cur .twait 0x1D3 f
  else s

/-- TWAIT.all (R470). -/
def execTwaitAll (_ : Hdr) (f : Full) (s : State) : Host.Outcome State Fault Refusal := twaitWord (fun bad s cur => let d := dropTraps s cur bad; twaitAllBody f d.1 d.2) s

/-- TWAIT_RELEASE (R470). -/
def execTwaitRelease (slot : Slot) (s : State) : Host.Outcome State Fault Refusal :=
  releaseWord slot .twait (fun w s cur => if w.op = 0x1D2 then twaitBody w.f [] s cur else twaitAllBody w.f s cur) s

/-- THIT (R471). -/
def execThit (_ : Hdr) (f : Full) (s : State) : Host.Outcome State Fault Refusal :=
  match s.active with
  | none => .next s
  | some cur =>
    match s.quire cur.slot with
    | none => .next s
    | some q =>
      let bad := (cur.act.filter q.member).map fun t => (⟨t, 0x28, 0, 0⟩ : Trapped)
      let hs := (cur.act.filter fun t => !q.member t).map fun t => (t, block q cur f.sa t f.a.toNat 1)
      let r := readRays s cur q hs
      let d := dropTraps r.1 cur (bad ++ r.2.2.2)
      if r.2.1 then .next (waitPage d.1 d.2)
      else
        .next (hs.foldl (fun s e =>
          if !d.2.act.contains e.1 then s
          else
            let put (n x : Nat) (s : State) : State := s.setQuire cur.slot fun y => y.putV e.1 f.d.toNat n x
            match namedRay s q e.1 e.2, r.2.2.1.find? fun y => y.1 == e.1 with
            | some ray, some y =>
              if rayOpen ray then put 1 0xFFFFFFFF s
              else
                let x := bytesVal y.2
                freeRay (put 6 (ryStatus x + 256 * ryHk x + 65536 * ray.appStat + 2 ^ 32 * ryTmax x + 2 ^ 64 * ryPrim x
                  + 2 ^ 96 * bitsOf x 831 800 + 2 ^ 128 * bitsOf x 895 832) s) q.ctx e.2
            | some _, none => put 1 0xFFFFFFFF s
            | none, _ => put 6 (handleStatus e.2) s) d.1)

/-- IREPORT: a candidate for the pending hit of each thread's ray (R472). -/
def reportWord (f : Full) (attr : Quire → Cur → Nat → Option (Nat × Nat)) (s : State) : Host.Outcome State Fault Refusal :=
  match s.active with
  | none => .next s
  | some cur =>
    match s.quire cur.slot with
    | none => .next s
    | some q =>
      let d := dropTraps s cur ((cur.act.filter q.member).map fun t => (⟨t, 0x28, 0, 0⟩ : Trapped))
      .next (forThreads d.1 d.2 d.2.act fun q0 t y =>
        let held := ((q0.th[t]?).bind (·.ray)).bind fun x => if x.held then (s.ray q0.ctx x.handle).map fun r => (x, r) else none
        match held with
        | none => y.putPred false t (f.d.toNat % 16) false
        | some (x, r) =>
          let tv := block q0 cur f.sa t f.a.toNat 1
          let ok := match x.pend with
            | some h => acceptable (ryTmin r.rcd) h.t h.kind h.prim tv r.cprim
            | none => acceptable (ryTmin r.rcd) (ryTmax r.rcd) (ryHk r.rcd) (ryPrim r.rcd) tv r.cprim
          let hit : Hit := { t := tv, prim := r.cprim, bary := if r.skind = 2 then r.cbary else 0, kind := r.face, attr := attr q0 cur t }
          let y1 := if ok then y.setTh t fun th => { th with ray := some { x with pend := some hit } } else y
          y1.putPred false t (f.d.toNat % 16) ok)

/-- IREPORT (R472). -/
def execIreport (_ : Hdr) (f : Full) (s : State) : Host.Outcome State Fault Refusal := reportWord f (fun _ _ _ => none) s

/-- IREPORT.a (R472). -/
def execIreportA (_ : Hdr) (f : Full) (s : State) : Host.Outcome State Fault Refusal :=
  reportWord f
    (fun q cur t =>
      let x := block q cur f.sb t f.b.toNat 2
      some (x % 2 ^ 32, x / 2 ^ 32)) s

/-- Resume the rays of threads in order; the threads done, and whether one waits for a page. -/
def resumeAll (q : Quire) (keep : Bool) : List Nat → List (Nat × Nat) → State → State × List (Nat × Nat) × Bool
  | [], done, s => (s, done, false)
  | t :: rest, done, s =>
    match (q.th[t]?).bind (·.ray) with
    | none => resumeAll q keep rest done s
    | some x =>
      let free (s : State) : State :=
        s.setQuire q.slot fun y => y.setTh t fun th => { th with ray := some { x with held := false, pend := none } }
      match (if x.held then s.ray q.ctx x.handle else none) with
      | none => resumeAll q keep rest (done ++ [(t, 1)]) (free s)
      | some r =>
        match resumeRay s r (if keep then x.pend else none) with
        | (some s1, _) => resumeAll q keep rest (done ++ [(t, 1)]) (free s1)
        | (none, s1) => (s1, done, true)

/-- IRESUME: a release at `.ga`, then the rays re-enter traversal (R473). -/
def resumeWord (keep : Bool) (s : State) : Host.Outcome State Fault Refusal :=
  interlocked (fun _ q t => if q.member t then some 0x28 else none)
    (fun s cur q =>
      let x := resumeAll q keep (cur.act.filter fun t => !(cur.prog.any fun e => e.1 == t)) cur.prog s
      if x.2.2 then waitPage x.1 { cur with prog := x.2.1 } else x.1) s

/-- IRESUME (R473). -/
def execIresume (_ : Hdr) (_ : Full) (s : State) : Host.Outcome State Fault Refusal := resumeWord true s
/-- IRESUME.n (R473). -/
def execIresumeN (_ : Hdr) (_ : Full) (s : State) : Host.Outcome State Fault Refusal := resumeWord false s

/-- A ray is marked cancelled; one that waits in a huddle or a routine queue completes at once (R474). -/
def cancelRay (s : State) (r : Ray) : State :=
  match r.at_ with
  | .huddle => completeRay s { r with cancel := true, stale := true } 5 0
  | .routineQ => completeRay s { r with cancel := true, stale := true } 5 0
  | .inRoutine => s.setRay r.ctx r.handle fun x => { x with cancel := true }
  | _ => s

/-- TCANCEL's frame (R468, R474). -/
def cancelWord (rays : State → Quire → Cur → List Ray) (s : State) : Host.Outcome State Fault Refusal :=
  match s.active with
  | none => .next s
  | some cur =>
    match s.quire cur.slot with
    | none => .next s
    | some q =>
      let d := dropTraps s cur ((cur.act.filter q.member).map fun t => (⟨t, 0x28, 0, 0⟩ : Trapped))
      .next ((rays d.1 q d.2).foldl (fun s r => match s.ray r.ctx r.handle with
        | some x => cancelRay s x
        | none => s) d.1)

/-- TCANCEL (R474). -/
def execTcancel (_ : Hdr) (f : Full) (s : State) : Host.Outcome State Fault Refusal :=
  cancelWord (fun s q cur => cur.act.filterMap fun t => namedRay s q t (block q cur f.sa t f.a.toNat 1)) s

/-- TCANCEL.all (R474). -/
def execTcancelAll (_ : Hdr) (_ : Full) (s : State) : Host.Outcome State Fault Refusal :=
  cancelWord (fun s q cur => s.rays.filter fun r => r.ctx == q.ctx && r.slot == q.slot && r.folio == q.folio && cur.act.contains r.tidx) s

end Sys2Proof.Machine
end

