-- ==== Sys2Proof/Machine/System.lean ====
section
/-! DEFINITION. The state of the quire: REGQ (R327, R328), MODE (R329) and MOVS (R330 to R332). -/

namespace Sys2Proof.Machine

/-- Whether the quire has an entry in its gathering's bench. -/
def inBench (s : State) (slot : Slot) : Bool := (s.gath (gathOf slot.core)).bench.any fun b => b.slot == slot

/-- Registers of a lane not held by resident quires (R44). -/
def laneFree (s : State) (slot : Slot) : Nat :=
  4096 - (s.quires.filter fun q => q.slot.core == slot.core && q.slot.lane == slot.lane).foldl
      (fun n q => n + q.w * regGranule q.regs) 0
    - ((s.folios.filter fun f => f.st = .draining || f.st = .filling).foldl
        (fun n f => n + (f.seats.filter fun x => x.1.core == slot.core && x.1.lane == slot.lane).length
          * (quireWidth f.rcd * regGranule (rcRegs f.rcd))) 0)

/-- Another REGQ of the lane waits for growth, earlier than `order` (R328). -/
def growWaits (s : State) (slot : Slot) (order : Option Nat) : Bool :=
  s.quires.any fun q =>
    q.slot.core == slot.core && q.slot.lane == slot.lane && q.slot != slot && (q.wait.map fun w =>
      w.why == .regq && (order.map fun o => decide (w.order < o)).getD true).getD false

/-- The register count becomes n (R327): registers of granules that a thread gives up and gains read zero (R48); those of a
granule that it keeps, at or above the smaller count, keep their values or read zero (log 14). -/
def setCount (n : Nat) (q : Quire) : Quire :=
  let keep := if Config.regqKeeps then min (regGranule n) (regGranule q.regs) else min n q.regs
  { q with
    regs := n
    th := q.th.map fun th => { th with v := th.v.take keep ++ List.replicate (th.v.length - keep) 0 } }

/-- A register that the A latch, with its scale, or a held chain names would be freed (R327, R379, R383). -/
def freesHeld (q : Quire) (n : Nat) : Bool :=
  let lim := regGranule n
  decide (lim < regGranule q.regs) &&
    ((q.latch.map fun l => decide (lim < l.a + (if l.scales = [] then 8 else 9))).getD false
      || (q.chain.map fun c => decide (lim < c.c + rowRegs c.n (fmO c.fmt))).getD false)

/-- A grow takes its registers or waits in order (R328). -/
def growBody (f : Full) (order : Option Nat) (s : State) (cur : Cur) : State :=
  match s.quire cur.slot with
  | none => s
  | some q =>
    let n := f.b.toNat
    if !growWaits s cur.slot order ∧ q.w * (regGranule n - regGranule q.regs) ≤ laneFree s cur.slot then
      s.setQuire cur.slot (setCount n)
    else
      let s1 := blockCur s cur .regq 0x0E8 f
      match order with
      | some o => s1.setQuire cur.slot fun q => { q with wait := q.wait.map fun w => { w with order := o } }
      | none => s1

/-- REGQ (R327). -/
def execRegq (_ : Hdr) (f : Full) (s : State) : Host.Outcome State Fault Refusal :=
  match s.active with
  | none => .next s
  | some cur =>
    match s.quire cur.slot with
    | none => .next s
    | some q =>
      let n := f.b.toNat
      if q.region.isSome then .next (dropTraps s cur (cur.act.map fun t => ⟨t, 0x28, 0, 0⟩)).1
      else if freesHeld q n then .next (dropTraps s cur (cur.act.map fun t => ⟨t, 0x02, 0, 0⟩)).1
      else if (q.ctr.any fun k => k != 0) || inBench s cur.slot then .next (againCur (serveQuire s cur.slot) cur)
      else if regGranule q.regs < regGranule n then .next (growBody f none s cur)
      else .next (s.setQuire cur.slot (setCount n))

/-- REGQ_GROW_GRANT: a waiting grow is granted in order (R328). -/
def execRegqGrowGrant (slot : Slot) (s : State) : Host.Outcome State Fault Refusal :=
  releaseWord slot .regq (fun w s cur => growBody w.f (some w.order) s cur) s

/-- MODE sets the quire's FTZ bit (R329). -/
def execMode (_ : Hdr) (f : Full) (s : State) : Host.Outcome State Fault Refusal :=
  match s.active with
  | none => .next s
  | some cur => .next (s.setQuire cur.slot fun q => { q with ftz := f.b.toNat.testBit 0 })

/-- Logical core of a device core in a deterministic launch (R194, R195). -/
def logicalCore (s : State) (slot : Slot) : Nat :=
  let gang := (((s.folioOf slot).bind fun f => s.node f.node).map (·.gang)).getD []
  gang.idxOf (gathOf slot.core) * 4 + slot.core % 4

/-- Logical lane of a quire (R194). -/
def logicalLane (r qid w : Nat) : Nat := qid % (folioQuires r / folioCores r) / (64 / w)

/-- A special register's value at a thread (R331). A deterministic `clk` counts the rallies completed before the one it is read in
(DEDUCED, log 117). -/
def specialReg (s : State) (cur : Cur) (q : Quire) (code : Nat) (phys u : Bool) (t : Nat) : Nat :=
  let r := s.rcdOf q.slot
  let fid := ((s.folio q.folio).map (·.fid)).getD 0
  let logical := rcDet r && !phys
  match code with
  | 0 => q.qid * q.w + t
  | 1 => if logical then logicalLane r q.qid q.w else q.slot.lane
  | 2 => q.qid
  | 3 => fid
  | 4 => fid % rcEx r
  | 5 => fid / rcEx r % rcEy r
  | 6 => fid / rcEx r / rcEy r
  | 7 => if logical then rcNlog r else 192
  | 8 => if logical then logicalCore s q.slot else q.slot.core
  | 9 => if logical then logicalCore s q.slot / 4 else gathOf q.slot.core
  | 10 =>
    if logical then q.rallies
    else if u then cur.began
    else ((cur.issues.find? fun e => e.1 == t).map (·.2)).getD cur.began
  | 11 => q.ctx
  | _ =>
    bitMask ((List.range (folioTags r)).filter fun n => tagState (s.folio q.folio) q.slot.core n == .done)

/-- Width of a special register in registers. -/
def specialRegs (code : Nat) : Nat := if code = 10 ∨ code = 12 then 2 else 1

/-- MOVS (R330 to R332, R195). -/
def execMovs (_ : Hdr) (f : Full) (s : State) : Host.Outcome State Fault Refusal :=
  match s.active with
  | none => .next s
  | some cur =>
    match s.quire cur.slot with
    | none => .next s
    | some q =>
      let phys := f.cls.toNat.testBit 0
      let code := f.a.toNat
      let r := s.rcdOf cur.slot
      let priv := s.mstPriv.getLsbD (s.ctx q.ctx).master
      let busy := ((s.folio q.folio).map fun x => x.tags.any fun t =>
        t.core == cur.slot.core && (t.st == .collecting || t.st == .running)).getD false
      if phys ∧ rcDet r ∧ priv = false then .next (dropTraps s cur (cur.act.map fun t => ⟨t, 0x0A, 0, 0⟩)).1
      else
      -- the tags are observed after older acquires (R116, R332)
      match if code = 12 then bindAcquires true s cur else (s, false) with
      | (s, true) => .next (againCur s cur)
      | (s, false) =>
      if code = 12 ∧ rcDet r ∧ busy then .next (againCur s cur)
      else
        .next (forThreads s cur (actors cur f.u) fun q0 t q =>
          q.putD f.u t f.d.toNat (specialRegs code) (specialReg s cur q0 code phys f.u t))

end Sys2Proof.Machine
end

