-- ==== Sys2Proof/Machine/Folio.lean ====
section
/-! DEFINITION. The life of a folio: the drain of its banks (R53 to R55), the registration of its window (R22), its start
(R48, R169, R174, R201, R428, R440, R464), the end of its quires (R312), its retirement (R25, R422 to R424), pre-emption
(R215, R415), the watchdog (R216) and the grant of rallies (R212). -/

namespace Sys2Proof.Machine

/-- An agent's tokens of a line go home with dirty data (R53). -/
def returnTokens (s : State) (a line : Nat) : State :=
  let h := heldOf s a line
  if h.tok = 0 then s
  else
    let s1 := setHeld (tokensLeave s a line) a line Held.emptied
    let s2 := setHome s1 line fun x =>
      { x with ht := x.ht + h.tok, ho := x.ho || h.own, hv := x.hv || h.own, hold := x.hold.filter (· != a) }
    kickPersist (if h.own then cleanLine s2 line else s2) line

/-- Lines leave a draining bank: which of the gathering's lines the bank holds is a free choice (R53, R54, R56, log 20). Lines of a
registered window stand in scratch banks (R23). -/
def drainLines (s : State) (g : Nat) : State :=
  let lines := ((s.held.filter fun h => h.agent == g && h.tok != 0 && !(homeOf s h.line).win).map (·.line) ++
    (s.pending.filter fun p => p.gath == g).map fun p => lineOf p.loc).dedup
  let s1 := lines.foldl (fun s l =>
    let c := s.choose
    if c.1 then returnTokens (performLine c.2 g l) g l else c.2) s
  (s1.leases.filter fun l => l.at_ == .tile g).foldl (fun s l =>
    let c := s.choose
    if c.1 then { c.2 with leases := c.2.leases.filter (· != l) } else c.2) s1

/-- A set of a gathering's cache holds more lines than it has ways, since a bank drains (R50, R53, R56): one line leaves it; a region
that holds it aborts with CONFLICT (R54). Which lines stand in the draining bank is not told, so the set's least recently used ones
go (DESIGN CHOICE, log 20). -/
def evictCache (s : State) (g line : Nat) : State :=
  let crowd := cacheCrowd s g line
  if crowd.length ≤ cacheWays s g then s
  else
    let quiet (e : Bool × Nat) : Bool := e.1 || (!hasPending s g e.2 && (heldOf s g e.2).req.isNone)
    match ((lruVictim s g crowd).orElse fun _ => lruOf s g (crowd.filter quiet)).orElse fun _ => lruOf s g crowd with
    | some v =>
      let s1 := if v.1 then s else performLine (tokensLeave s g v.2) g v.2
      evictLine s1 g v
    | none => s

/-- Lines of a gathering's cache. -/
def cacheLines (s : State) (g : Nat) : List Nat :=
  ((s.held.filter fun h => h.agent == g && (h.tok != 0 || hasPending s g h.line) && !(homeOf s h.line).win).map (·.line))
    ++ ((s.leases.filter fun l => l.at_ == .tile g).map (·.line))

/-- The replacements a gathering's cache waits for while a bank drains. -/
def cacheMoves (s : State) (g : Nat) : List Move :=
  let lines := cacheLines s g
  if lines.length ≤ cacheWays s g then []
  else (lines.filter fun l => decide (cacheWays s g < (cacheCrowd s g l).length)).map fun l => .evictCache g l

/-- Every set of a gathering's cache fits the ways that are left to it (R53, R56). -/
def fitCache (s : State) (g : Nat) : State :=
  let lines := cacheLines s g
  if lines.length ≤ cacheWays s g then s else lines.foldl (fun s l => evictCache s g l) s

/-- Every replacement that is due. -/
def evictMoves (s : State) : List Move := (List.range 48).flatMap (cacheMoves s) ++ bridgeMoves s

/-- BANK_DRAIN_COMPLETE: a draining bank has emptied, so that the gathering's lines stand in the ways of the banks in CACHE, and is
handed over, or returns to CACHE where its owner is gone (R50, R53, R55, R56). -/
def execBankDrainComplete (g bank : Nat) (s : State) : Host.Outcome State Fault Refusal :=
  match (s.gath g).banks[bank]? with
  | some (.drain owner fifo) =>
    .next ((fitCache (drainLines s g) g).setGath g fun x =>
      { x with banks := x.banks.set bank (if owner = noOwner then .cache else if fifo then .fifo owner else .scratch owner) })
  | _ => .next s

/-- Every bank of an owner has been handed over. -/
def banksReady (s : State) (owner : Nat) : Bool :=
  s.gaths.all fun g => g.banks.all fun b =>
    match b with
    | .drain o _ => o != owner
    | _ => true

/-- The pages of a window (R22): its lines by scratchpad and physical line, each with its page's key; a reason; 0 waits. A page must
permit writes and reads. -/
def windowPages (s : State) (c wbase z : Nat) : Nat → Nat → State × Except Nat (List WinLine)
  | 0, _ => (s, .ok [])
  | n + 1, u =>
    let va := wbase + 65536 * u
    let fail (s : State) (r : Nat) : State × Except Nat (List WinLine) :=
      let s1 := faultRecord s c whoDevice va r 7 0 (r == 0)
      (if r = 0 then s1.setCtx c fun x => { x with execWait := va / 65536 :: x.execWait } else s1, .error (if r = 0 then 0 else 0x07))
    if (s.ctx c).execWait.contains (va / 65536) then (s, .error 0)
    else
      match xlate s { core := none, gath := none } c va .write with
      | (s1, .error r) => fail s1 r
      | (s1, .ok _) =>
        match xlate s1 { core := none, gath := none } c va .read with
        | (s2, .error r) => fail s2 r
        | (s2, .ok p) =>
          if p.nc ∨ isDev p.loc = false then (s2, .error 0x07)
          else
            match windowPages s2 c wbase z n (u + 1) with
            | (s3, .error r) => (s3, .error r)
            | (s3, .ok l) =>
              (s3, .ok ((List.range (min 65536 (z - 65536 * u) / 128)).map (fun i =>
                { sl := 512 * u + i, pl := lineOf p.loc + i, pkey := p.key, key := p.key, valid := false, dirty := false }) ++ l))

/-- A folio that fails before it starts gives everything back, and its node fails (R22, R202); a routine folio's template is then
invalid, and its rays complete with FAULT (R463). -/
def failFolio (s : State) (f : Folio) (e : Nat) : State :=
  let s1 := freeBanks { s with folios := s.folios.filter fun x => x.id != f.id } f.id
  if f.stage = .routine then
    f.start.foldl (fun s row => match s.ray f.ctx (row.headD 0) with
      | some r => if r.at_ = .inRoutine then completeRay s { r with stale := true } 4 0x42 else s
      | none => s) s1
  else
  (s1.setNode f.node fun n => { n with failed := some e, requeued := [] }).later [.event (.nodeFinish f.node)]

/-- The gathering whose portion holds a scratchpad line (R19). -/
def portionGath (f : Folio) (sl : Nat) : Nat :=
  (folioGaths f).getD (sl * 128 / max 1 (scratchBytes f.rcd / max 1 (folioGaths f).length)) 0

/-- One line of a window is registered: every copy is recalled, its pending stores are performed, and all 64 tokens stand with the
portion's gathering (R22, R76). -/
def registerLine (g : Nat) (s : State) (line : Nat) : State :=
  let s1 := ((s.pending.filter fun p => lineOf p.loc == line).map (·.gath)).dedup.foldl (fun s g => performLine s g line) s
  let s2 := dropLeases (recallTokens s1 line none) line
  let s3 := setHeld s2 g line fun h => { h with tok := 64, own := true, valid := false, dirty := false }
  setHome s3 line fun h => { h with ht := 0, ho := false, hv := false, hold := [g], ckey := none, win := true }

/-- The registration of a line is withdrawn, and its tokens return (R25, R76). -/
def withdrawLine (s : State) (line : Nat) : State :=
  let s1 := (homeOf s line).hold.foldl (fun s a => setHeld s a line Held.emptied) s
  setHome s1 line fun h => { h with ht := 64, ho := true, hv := true, hold := [], win := false }

/-- Register a mapped folio's window (R22, R23); false while it waits or has failed. -/
def registerWindow (s : State) (f : Folio) : State × Bool :=
  if rcMapped f.rcd = false ∨ f.win ≠ [] ∨ scratchBytes f.rcd = 0 then (s, true)
  else
    let z := scratchBytes f.rcd
    match windowPages s f.ctx (rcWbase f.rcd) z ((z + 65535) / 65536) 0 with
    | (s1, .error 0) => (s1, false)
    | (s1, .error e) => (failFolio s1 f e, false)
    | (s1, .ok l) =>
      if s1.folios.any fun x => x.id != f.id && x.win.any fun w => l.any fun e => e.pl == w.pl then (failFolio s1 f 0x06, false)
      else
        let s2 := l.foldl (fun s e => registerLine (portionGath f e.sl) s e.pl) s1
        (s2.setFolio f.id fun x => { x with win := l }, true)

/-- Registers that the launch gives a thread (R48, R428, R440, R464), from its start row. -/
def startVec (s : State) (f : Folio) (row : List Nat) (i : Nat) : List Word :=
  let z := List.replicate 256 (0 : Word)
  let w (n : Nat) : Word := BitVec.ofNat 32 n
  match f.stage with
  | .fragment => putWords z 0 [w (row.getD 0 0 + 65536 * row.getD 1 0), w (row.getD 2 0), w (row.getD 3 0)]
  | .resolve =>
    let d := ((s.pass f.pass).map (·.desc)).getD 0
    let x := f.tile % tilesX d * 64 + i % 64
    let y := f.tile / tilesX d * 64 + i / 64
    let on := ((s.pass f.pass).map fun p => p.samples.contains (x, y)).getD false
    putWords z 0 [w (x + 65536 * y), w (bit on)]
  | .merge => putWords z 0 ((row.drop 1).map w)
  | .routine =>
    let a := row.getD 5 0
    let u := row.getD 6 0
    putWords z 0 ((row.take 5).map w ++ [w a, w (a / 2 ^ 32), w u, w (u / 2 ^ 32)])
  | _ => z

/-- p1 of a thread at its start (R428, R440). -/
def startP1 (s : State) (f : Folio) (row : List Nat) (i : Nat) : Bool :=
  match f.stage with
  | .fragment => row.getD 4 0 == 1
  | .resolve =>
    let d := ((s.pass f.pass).map (·.desc)).getD 0
    decide (f.tile % tilesX d * 64 + i % 64 ≤ pdWm d) && decide (f.tile / tilesX d * 64 + i / 64 ≤ pdHm d)
  | _ => false

/-- A thread at its quire's start (R48, R49, R169, R174). Threads of a fragment, merge or routine folio beyond its start
rows start exited (log 21). -/
def startThread (s : State) (f : Folio) (i : Nat) : Thread :=
  let row := f.start.getD i []
  let listed : Bool := f.stage = .fragment || f.stage = .merge || f.stage = .routine
  { pc := BitVec.ofNat 64 (rcCode f.rcd), mr := none, depth := 0, y := false, td := 0, p := false, c := false
    x := decide (rcFthreads f.rcd ≤ i) || (listed && row == []), v := startVec s f row i
    pr := if startP1 s f row i then 3 else 1, slice := List.replicate 64 0, npc := none, xfer := false, exiting := false
    halt := none, tryTh := none
    frag := if f.stage = .fragment ∧ row ≠ [] then
              some { pass := f.pass, tile := f.tile, x := row.getD 0 0, y := row.getD 1 0, order := row.getD 2 0
                     prim := row.getD 2 0, helper := row.getD 4 0 != 1 }
            else none
    ray := if f.stage = .routine ∧ row ≠ [] then
             some { handle := row.headD 0, held := true, pend := none, depth := row.getD 7 0, pix := row.getD 8 0, ord := row.getD 9 0
                    anyhit := row.getD 10 0 == 1, node := row.getD 11 0
                    tile := row.getD 12 0 }
           else none }

/-- A quire at its start (R48, R201, R428). -/
def startQuire (s : State) (f : Folio) (x : Slot × Nat) : Quire :=
  let w := quireWidth f.rcd
  let wd (n : Nat) : Word := BitVec.ofNat 32 n
  let tile : List Word := if f.stage = .fragment ∨ f.stage = .resolve then [wd f.tile] else []
  { slot := x.1, ctx := f.ctx, folio := f.id, qid := x.2, w := w, regs := rcRegs f.rcd
    th := (List.range w).map fun t => startThread s f (x.2 * w + t)
    s := putWords (List.replicate 128 0) 0
      ([wd (rcArgs f.rcd), wd (rcArgs f.rcd / 2 ^ 32), wd f.recAddr, wd (f.recAddr / 2 ^ 32), wd f.recSlot] ++ tile)
    q := 1, ftz := false, ctr := [0, 0, 0, 0], born := s.cycle, rally := none, rallies := 0, ready := none, wait := none
    log := [], seq := 0, region := none, chain := none, latch := none, deferred := [], fixp := [], varp := [] }

/-- Whether a folio's planes are to be filled before it starts (R441, R442). -/
def needsFill (f : Folio) : Bool := f.stage = .recon || f.stage = .post

/-- A quire may end (R312): every thread exited, every counter zero, no access, bench entry, slice or section left. -/
def quireEnds (s : State) (q : Quire) : Bool :=
  q.th.all (fun t => t.x) && q.ctr.all (· == 0) && q.log == [] && !inBench s q.slot
    && !((s.folio q.folio).map fun f => f.tags.any fun t => t.st == .collecting && t.slices.any fun z => z.qid == q.qid).getD false
    && ((List.range q.th.length).all fun t => sectionState s q t ∉ [.opened, .leaving]) && q.rally.isNone

/-- A quire leaves its slot; the thread-slot cycles it held are kept for the fair share (R208). -/
def removeQuire (s : State) (q : Quire) : State :=
  { (s.setCtx q.ctx fun x =>
      { x with used := (q.w, q.born, s.cycle) :: x.used.filter fun e => s.cycle < e.2.2 + 2 ^ 24 }) with
    quires := s.quires.filter fun y => y.slot != q.slot }

/-- Appends of a quire that has ended answer nobody: the results of its threads are discarded (R312, R438). -/
def forgetAnswers (s : State) (slot : Slot) : State :=
  { s with
    passes := s.passes.map fun p =>
      { p with appends := p.appends.map fun a => if (a.slot.map (·.1)) = some slot then { a with slot := none } else a } }

/-- QUIRE_END (R312): what its exited routine and merge threads leave is handed over first (R439, R465). -/
def execQuireEnd (slot : Slot) (s : State) : Host.Outcome State Fault Refusal :=
  let s0 := releaseHalted (resumeExited (takeMerges (serveQuire s slot)) (gathOf slot.core)) (((s.folioOf slot).map (·.pass)).getD 0)
  match s0.quire slot with
  | none => .next s0
  | some q =>
    if quireEnds s0 q && !(q.th.any fun t => (t.ray.map (·.held)).getD false) then
      .next (removeQuire (forgetAnswers s0 slot) q)
    else .next s0

/-- Dirty window lines are written to their backing addresses, and then registration is withdrawn (R25). -/
def writeBackWindow (s : State) (f : Folio) : State := f.win.foldl (fun s e => withdrawLine (winBack s f.id e.sl) e.pl) s

/-- A mesh folio's records go to the primitive buffer at its retirement (R422 to R424). The layout of the pages belongs to
the device: their bytes are free values (log 22). -/
def retireMesh (s : State) (f : Folio) : State :=
  match s.pass f.pass with
  | none => s
  | some p =>
    let verts := (List.range f.vc).map fun v =>
      (List.range 36).map fun k => ((f.mverts.find? fun e => e.1 == v && e.2.1 == k).map (·.2.2)).getD 0
    let prims := (List.range f.pc).map fun k => (k, ((f.mprims.find? fun e => e.1 == k).map (·.2)).getD 0)
    let pages := (144 * f.vc + 16 * f.pc + 4095) / 4096
    let base := bitsOf p.desc 447 384 + 4096 * p.primPages
    let s1 := if p.primPages + pages ≤ pdPrimPages p.desc then
        (List.range (64 * pages)).foldl (fun s i =>
          let s1 := (agentWrite s { core := none, gath := none } f.ctx (base + 64 * i)
            ((List.range 64).map fun j => Config.primByte (s.fresh + j))).1
          { s1 with fresh := s1.fresh + 64 }) s
      else s
    s1.setPass f.pass fun x =>
      { x with
        meshOut := x.meshOut ++ [(f.fid, verts, prims)], primPages := x.primPages + pages
        fail := if pdPrimPages x.desc < x.primPages + pages then some 0x0C else x.fail }

/-- A tile's list banks and pool pages return (R421, R434). -/
def freeTile (s : State) (p n : Nat) : State :=
  let pages := (((s.pass p).bind fun x => x.tiles.find? fun t => t.n == n).map (·.pages)).getD []
  freeBanks (s.setPass p fun x =>
    { x with tiles := x.tiles.filter fun t => t.n != n, poolFree := x.poolFree ++ pages }) (tileOwner p n)

/-- A folio may retire (R25, R147, R467): no quire, no copy collecting or running, no ray it traced incomplete. -/
def folioDone (s : State) (f : Folio) : Bool :=
  f.st = .running && !(s.quires.any fun q => q.folio == f.id)
    && !(f.tags.any fun t => t.st == .collecting || t.st == .running)
    && !(s.rays.any fun r => r.folio == f.id && rayOpen r)

/-- FOLIO_RETIREMENT (R25, R50, R216). -/
def execFolioRetirement (fo : Nat) (s : State) : Host.Outcome State Fault Refusal :=
  match s.folio fo with
  | none => .next s
  | some f =>
    if folioDone s f = false then .next s
    else
      let s1 := writeBackWindow s f
      let s2 := if f.stage = .mesh then retireMesh s1 f else s1
      let s3 := freeBanks { s2 with folios := s2.folios.filter fun x => x.id != fo } fo
      let s4 := s3.setCtx f.ctx fun x => { x with wdogStart := s.cycle }
      let tileMode := ((s4.pass f.pass).map fun p => !p.imm).getD false
      .next (if f.stage = .resolve ∧ tileMode then freeTile s4 f.pass f.tile else s4)

/-- What a discarded or dead quire leaves: its bench entries, its walks, its place (R415, R409). -/
def dropQuire (s : State) (q : Quire) : State :=
  let s1 := s.setGath (gathOf q.slot.core) fun g => { g with bench := g.bench.filter fun b => b.slot != q.slot }
  let s2 := removeQuire s1 q
  { s2 with
    walks := s2.walks.filter fun w => w.slot != some q.slot
    cur := s2.cur.filter fun c => c.slot != q.slot
    passes := s2.passes.map fun p =>
      { p with appends := p.appends.filter fun a => (a.slot.map fun x => x.1 != q.slot).getD true }
    msgs := s2.msgs.filter fun m =>
      match m.kind with
      | .write3 _ _ (some b) => b.1 != q.slot
      | _ => true }

/-- Fragments of a quire's threads retire and their sections are released (R408, R446). -/
def retireAll (s : State) (q : Quire) : State := (q.th.filterMap (·.frag)).foldl discardFrag s

/-- A folio is taken away without retiring: its quires, rays, banks, tags and barriers (R415, R467), and its window without
write-back: a region that read a line of it that was dirty aborts (R25, R130). -/
def dropFolio (s : State) (f : Folio) : State :=
  let qs := s.quires.filter fun q => q.folio == f.id
  let s1 := qs.foldl (fun s q => dropQuire (retireAll s q) q) s
  let s2 := (s1.rays.filter fun r => r.folio == f.id).foldl (fun s r => freeRay s r.ctx r.handle) s1
  let s3 := f.win.foldl (fun s e => withdrawLine (if e.dirty then lineStrikes s e.pl none else s) e.pl) s2
  freeBanks { s3 with folios := s3.folios.filter fun x => x.id != f.id } f.id

/-- Where a fragment quire stands in the order of formation: tile, order, place of its first quad (R428). -/
def quirePlace (q : FragQuire) : Nat :=
  let h := q.thr.headD (0, 0, 0, 0, false)
  ((q.tile * 2 ^ 32 + h.2.2.1) * 65536 + h.2.1 / 2) * 65536 + h.1 / 2

/-- A discarded folio is requeued (R208, R215, R446), a fragment folio in the order in which it was formed. -/
def requeueFolio (s : State) (f : Folio) : State :=
  match f.stage with
  | .fragment =>
    s.setPass f.pass fun p =>
      { p with
        quires := ({ tile := f.tile, again := true, thr := f.start.map fun r =>
                       (r.getD 0 0, r.getD 1 0, r.getD 2 0, r.getD 2 0, r.getD 4 0 == 1) } :: p.quires.filter (·.again)).mergeSort
                    (fun a b => quirePlace a ≤ quirePlace b) ++ p.quires.filter fun q => !q.again }
  | .merge => s
  | .routine =>
    -- its rays wait in the routine queue again
    f.start.foldl (fun s r => s.setRay f.ctx (r.headD 0) fun y => if y.at_ = .inRoutine then { y with at_ := .routineQ } else y) s
  | _ => s.setNode f.node fun n => { n with requeued := (f.fid :: n.requeued).mergeSort (· ≤ ·) }

/-- Pre-emption of one folio (R215): an IDEMPOTENT one is discarded and requeued; another masks the request, and its open
regions abort with DISCARD. -/
def preemptFolio (s : State) (f : Folio) : State :=
  if rcIdem f.rcd then requeueFolio (dropFolio s f) f
  else { s with quires := updWhere (fun q => q.folio == f.id) (fun q => strikeRegion q 7) s.quires }

/-- A context has a resident folio: one that has started (R170, R215). -/
def hasResident (s : State) (c : Nat) : Bool := s.folios.any fun f => f.ctx == c && f.st == .running

/-- The fragments of a fragment folio run, again where it was discarded before: until its start a discarded one's are retired (R446). -/
def againFrags (s : State) (f : Folio) : State :=
  if f.stage = .fragment then
    s.setPass f.pass fun p =>
      { p with
        frags := p.frags.map fun x =>
          if x.tile == f.tile && f.start.any fun r => r.getD 4 0 == 1 && r.getD 0 0 == x.x && r.getD 1 0 == x.y && r.getD 2 0 == x.order then
            { x with retired := false, st := .none }
          else x }
  else s

/-- The quires of a folio start on every core together, and it is resident: the watchdog's period starts afresh where the context had
no resident folio (R170, R216). -/
def startAll (s : State) (f : Folio) : State :=
  let s1 := if hasResident s f.ctx then s else s.setCtx f.ctx fun x => { x with wdogStart := s.cycle }
  let s2 := againFrags s1 f
  { (s2.setFolio f.id fun x => { x with st := .running, fbar := [], bars := [], tags := [], ringN := 0, preempt := false }) with
    quires := s2.quires ++ f.seats.map (startQuire s2 f) }

/-- FOLIO_START: every bank is ready and the window registered; every core of the folio starts (R55, R22). A request for its
pre-emption that came while it was in placement is treated now (R215). -/
def execFolioStart (fo : Nat) (s : State) : Host.Outcome State Fault Refusal :=
  match s.folio fo with
  | none => .next s
  | some f =>
    if !(f.st = .draining && !needsFill f || f.st = .filling) || !banksReady s fo || (s.ctx f.ctx).dead then .next s
    else
      match registerWindow s f with
      | (s1, false) => .next s1
      | (s1, true) =>
        -- one tile's fragment work is complete before its resolve folio starts (R443)
        let tileMode := ((s1.pass f.pass).map fun p => !p.imm).getD false
        let s2 := if f.stage = .resolve ∧ tileMode then expireContext (performWrites s1) f.ctx else s1
        let s3 := startAll s2 f
        .next (match s3.folio fo with
          | some x => if f.preempt then preemptFolio s3 x else s3
          | none => s3)

/-- CTX_PREEMPT GO (R215, R478): a folio in placement is treated once it has started; a dead context's are not requeued (R416). -/
def execCtxPreemptGo (m c : Nat) (s : State) : Host.Outcome State Fault Refusal :=
  if (s.ctx c).v ∧ (s.ctx c).master = m ∧ s.ready ∧ c < 64 ∧ (s.ctx c).dead = false then
    let s1 : State :=
      { s with folios := updWhere (fun f => f.ctx == c && f.st != .running) (fun f => { f with preempt := true }) s.folios }
    .next ((s.folios.filter fun f => f.ctx == c && f.st == .running).foldl
      (fun s f => match s.folio f.id with
        | some x => preemptFolio s x
        | none => s) s1)
  else .next s

/-- WATCHDOG_EXPIRY (R216): the period runs while the context has resident folios. -/
def execWatchdogExpiry (c : Nat) (s : State) : Host.Outcome State Fault Refusal :=
  let x := s.ctx c
  if x.wdogLimit ≠ 0 ∧ hasResident s c ∧ x.wdogStart + x.wdogLimit * 65536 ≤ s.cycle then
    .next (interrupt (s.setCtx c fun y => { y with wdog := true, wdogStart := s.cycle }) c)
  else .next s

/-- The words of a rally from an address: their opcodes, up to 24, as far as they can be read now. -/
def rallyOps (s : State) (slot : Slot) (c : Nat) : Nat → Nat → List Nat
  | 0, _ => []
  | n + 1, pc =>
    match (fetchWord s slot c pc).2 with
    | .ok x =>
      match readWord (BitVec.ofNat 64 x) with
      | .ok i =>
        let w := wordInfo (fifoBytes (s.rcdOf slot) / 4) i
        w.op.toList ++ if w.last then [] else rallyOps s slot c n (pc + 8)
      | .error _ => []
    | .error _ => []

/-- Port classes of a rally (R212): sampler, bench, copy, traversal, list. -/
def portClass (op : Nat) : Option Nat :=
  if 0x150 ≤ op ∧ op < 0x160 then some 0
  else if 0x180 ≤ op ∧ op < 0x1A0 then some 1
  else if 0x1A0 ≤ op ∧ op < 0x1B0 then some 2
  else if 0x1D0 ≤ op ∧ op < 0x1E0 then some 3
  else if 0x1C2 ≤ op ∧ op ≤ 0x1C4 then some 4
  else none

/-- The port classes of the rally a quire would run. -/
def rallyPorts (s : State) (q : Quire) : List Nat :=
  match leadingSet q with
  | none => []
  | some (_, _, pc) => ((rallyOps s q.slot q.ctx 24 pc.toNat).filterMap portClass).dedup

/-- The S bits of the word a quire's rally would begin with: its wait mask (R242). A head that cannot be fetched has none: its fetch
waits, or faults, and the slot is ready again after it (R42, R212). -/
def headMask (s : State) (q : Quire) : Nat :=
  match leadingSet q with
  | none => 0
  | some (_, _, pc) =>
    match (fetchWord s q.slot q.ctx pc.toNat).2 with
    | .ok x => bitsOf x 61 58
    | .error _ => 0

/-- A member whose restore can be made at this rally boundary (R188): its accesses have completed and its checkpoint's
page is not being waited for. -/
def restoreReady (s : State) (q : Quire) (t : Nat) : Bool :=
  let rcd := s.rcdOf q.slot
  abortDue q t && !busySince q t (thGet q t 0 fun x => (x.tryTh.map (·.since)).getD 0)
    && !((s.ctx q.ctx).outPages.contains (backingAddr rcd q.slot q.w t (rcPriv rcd - rcCkpt rcd) / 65536))

/-- A quire slot is ready (R212): it runs no rally, is not blocked, has a leading set, its counters of the wait mask are
zero, and the bench has an entry if it needs one. -/
def slotReady (s : State) (q : Quire) : Bool :=
  q.rally.isNone && q.wait.isNone && (leadingSet q).isSome && !(s.ctx q.ctx).dead
    && ((List.range 4).all fun k => !(headMask s q).testBit k || q.ctr.getD k 0 == 0)
    && (!(rallyPorts s q).contains 1 || (s.gath (gathOf q.slot.core)).bench.length < 64)
    && !((List.range q.th.length).any (restoreReady s q))

/-- A thread that a deferred trap stops: it has not exited, and no trap but one that R401 resumes has halted it. -/
def mayStop (th : Thread) : Bool := !th.x && (th.halt.map fun h => h.code == 0x30 || h.code == 0x31).getD true

/-- Deferred traps are taken at the rally head (R398): word by word in the order in which they were met, one record for each code
of a word (R399), a thread at the first that names it. -/
def takeDeferred (s : State) (q : Quire) : State :=
  let s1 := s.setQuire q.slot fun x => { x with deferred := [] }
  ((q.deferred.map fun e => e.2.2.2.2).dedup).foldl (fun s pc =>
    match s.quire q.slot with
    | none => s
    | some x =>
      let es := q.deferred.filter fun e => e.2.2.2.2 == pc
      let met := es.flatMap fun e => (e.1.filter fun t => thGet x t false mayStop).map fun t => (⟨t, e.2.1, e.2.2.1, e.2.2.2.1⟩ : Trapped)
      -- a thread named twice at one word takes the first
      takeTraps s q.slot pc (met.zipIdx.filterMap fun m => if (met.take m.2).any fun k => k.t == m.1.t then none else some m.1)) s1

/-- Start a rally of a quire (R176, R258); where deferred traps have left another leading set, its slot must be ready again (R212). -/
def grantQuire (s : State) (q : Quire) : State :=
  let s1 := takeDeferred s q
  match (s1.quire q.slot).bind leadingSet with
  | none => s1
  | some (lead, d, pc) =>
    if q.deferred ≠ [] ∧ (s1.quire q.slot).any (slotReady s1) = false then s1.setQuire q.slot fun x => { x with ready := none }
    else s1.setQuire q.slot fun x =>
      { x with
        rally := some { lead := lead, depth := d, head := pc, next := pc, words := 0, begun := 0, sweep := 0, stall := 0, issues := [] }
        ready := none }

/-- Two slots conflict: their lanes share a quad, or their rallies a port class (R212). -/
def conflict (s : State) (a b : Quire) : Bool :=
  a.slot.lane / 4 == b.slot.lane / 4 || (rallyPorts s a).any fun k => (rallyPorts s b).contains k

/-- The order of grants (R212): higher PRIO, earlier ready moment, lower slot number. -/
def grantBefore (s : State) (a b : Quire) : Bool :=
  let pa := rcPrio (s.rcdOf a.slot)
  let pb := rcPrio (s.rcdOf b.slot)
  let n (q : Quire) : Nat := q.slot.lane * 4 + q.slot.q
  if pa ≠ pb then pb < pa
  else if a.ready.getD 0 ≠ b.ready.getD 0 then a.ready.getD 0 < b.ready.getD 0
  else n a ≤ n b

/-- Grants(core) (R212). -/
def grantList (s : State) (o : Option Quire) (held : Bool) : List Quire → List Quire → List Quire
  | [], done => done
  | q :: rest, done =>
    if done.length = 2 then done
    else
      let free : Bool := done.all fun d => d.slot != q.slot && !conflict s q d
      let off : Bool := match o with
        | some x => held && x.slot != q.slot && !(done.any fun d => d.slot == x.slot) && conflict s q x
        | none => false
      grantList s o held rest (if free && !off then done ++ [q] else done)

/-- The ready slot of a core with the earliest ready moment, the lowest slot on ties (R212). -/
def oldestReady (l : List Quire) : Option Quire :=
  l.foldl (fun (b : Option Quire) q => match b with
    | none => some q
    | some x => if q.ready.getD 0 < x.ready.getD 0 ∨
                  (q.ready.getD 0 = x.ready.getD 0 ∧ q.slot.lane * 4 + q.slot.q < x.slot.lane * 4 + x.slot.q) then some q else some x) none

/-- The ready slots of a core (R212). -/
def readySlots (s : State) (core : Nat) : List Quire := s.quires.filter fun q => q.slot.core == core && q.ready.isSome && slotReady s q

/-- The device notes, as time passes, which slots have become ready, each with its cycle, which it keeps until it is granted, and
since when the oldest of each core has been so (R212). -/
def noteReady (s : State) : State :=
  let s1 : State :=
    { s with quires := s.quires.map fun q => if q.ready.isNone && slotReady s q then { q with ready := some s.cycle } else q }
  ((s1.quires.map fun q => q.slot.core).dedup).foldl (fun s c =>
    let o := (oldestReady (readySlots s c)).map fun q => q.slot
    if (s.core c).oldest.map (·.1) = o then s
    else s.setCore c fun x => { x with oldest := o.map fun z => (z, s.cycle) }) s1

/-- RALLY_GRANT: the dispatcher of a core grants up to two ready rallies (R212). -/
def execRallyGrant (core : Nat) (s : State) : Host.Outcome State Fault Refusal :=
  let s0 := noteReady s
  let ready := readySlots s0 core
  let oldest := oldestReady ready
  let held := ((s0.core core).oldest.map fun e => decide (e.2 + 64 ≤ s0.cycle)).getD false
  let idle (q : Quire) : Bool := !(s0.quires.any fun x => x.slot.core == core && x.slot.lane == q.slot.lane && x.rally.isSome)
  let can (q : Quire) : Bool := idle q && !(held && match oldest with
    | some o => o.slot.lane == q.slot.lane && o.slot != q.slot
    | none => false)
  let first := match oldest with
    | some o => if held && can o then [o] else []
    | none => []
  let gs := grantList s0 oldest held ((ready.filter can).mergeSort (grantBefore s0)) first
  let s1 := if gs.any fun q => some q.slot = (s0.core core).oldest.map (·.1) then s0.setCore core fun x => { x with oldest := none } else s0
  .next (gs.foldl grantQuire s1)

end Sys2Proof.Machine
end

