-- ==== Sys2Proof/Machine/Pass.lean ====
section
/-! DEFINITION. The stages of a pass (R417 to R428, R440 to R443): stage boundaries, the primitive buffer's order, sample
generation, the dealing and rasterisation of tiles, and the planes of reconstruction and post folios. -/

namespace Sys2Proof.Machine

/-- No folio of a pass is placed or resident, none is to be placed again. -/
def passIdle (s : State) (p : Pass) : Bool :=
  !(s.folios.any fun f => f.node == p.node) && ((s.node p.node).map fun n => n.requeued == []).getD true

/-- No ray of the pass and no append is left (R420). -/
def raysDone (s : State) (p : Pass) : Bool := p.appends == [] && !(s.rays.any fun r => r.node == p.node && rayOpen r)

/-- Tiles in flight whose fragment work has ended and which have no resolve folio to run (R421). -/
def spentTiles (s : State) (p : Pass) : List Nat :=
  if p.imm ∨ passTmpl p 2 ≠ 0 then [] else (p.tiles.filter fun t => tileQuiet s p t).map (·.n)

/-- The present stage has completed (R420): each of its folios has retired, and the fragment stage's rays, appends and
merges are done. A pass that has failed ends when its placed folios have retired; none is placed again (R424). -/
def stageDone (s : State) (p : Pass) : Bool :=
  if ((s.node p.node).map fun n => n.ready.isSome && n.failed.isNone).getD false = false then false
  else if p.fail.isSome then !(s.folios.any fun f => f.node == p.node) && p.st != .ending
  else
    match p.st with
    | .start => true
    | .mesh => pdMeshEx p.desc ≤ p.nextFid && passIdle s p
    | .sample => true
    | .raster =>
      tileCount p.desc ≤ p.nextTile && p.quires == [] && passIdle s p && raysDone s p
        && (p.imm || p.tiles.all fun t => (spentTiles s p).contains t.n)
    | .resolve => (passTmpl p 2 == 0 || tileCount p.desc ≤ p.nextFid) && passIdle s p
    | .recon => (passTmpl p 3 == 0 || tileCount p.desc ≤ p.nextFid) && passIdle s p
    | .post => (passTmpl p 4 == 0 || tileCount p.desc ≤ p.nextFid) && passIdle s p
    | .ending => false

/-- Heads and page words of one tile at their start: index 0xFFFF with count 0, no page (R434). -/
def freshHeads : List Byte :=
  (List.range 4096).flatMap (fun _ => bytesOf 4 0xFFFF) ++ (List.range 256).flatMap fun _ => bytesOf 4 (2 ^ 32 - 1)

/-- Write bytes in 64-byte pieces by the executor: false when one waits for a page. A piece that meets another fault is
dropped after its record (R502). -/
def graphWriteMany (s : State) (c va : Nat) (bs : List Byte) : State × Bool :=
  (List.range ((bs.length + 63) / 64)).foldl
    (fun r i =>
      if r.2 then
        match graphWrite r.1 c (va + 64 * i) ((bs.drop (64 * i)).take 64) with
        | (s1, some 0) => (s1, false)
        | (s1, _) => (s1, true)
      else r) (s, true)

/-- IMMEDIATE mode's heads and page words at pass start (R434). -/
def initHeads (s : State) (p : Pass) : State × Bool :=
  if p.imm then
    (List.range (tileCount p.desc)).foldl
      (fun r n => if r.2 then graphWriteMany r.1 p.ctx (pdHead p.desc + 17408 * n) freshHeads else r) (s, true)
  else (s, true)

/-- The primitives of a pass in order (R422, R423): O is the number in the folio plus the counts of the folios before it. A
primitive with its cull bit set, with an index beyond its folio's vertices or with an order of 2^32 or more is dropped. -/
def passPrims (p : Pass) : List Prim :=
  let size (e : Nat × List (List Word) × List (Nat × Nat)) : Nat := (144 * e.2.1.length + 16 * e.2.2.length + 4095) / 4096
  let l := p.meshOut.zipIdx.map fun e => (e.1, (p.meshOut.take e.2).foldl (fun n x => n + size x) 0)
  let one (e : (Nat × List (List Word) × List (Nat × Nat)) × Nat) : List Prim :=
    let base := (p.meshOut.filter fun x => x.1 < e.1.1).foldl (fun n x => n + x.2.2.length) 0
    e.1.2.2.filterMap fun (k : Nat × Nat) =>
      let vs := e.1.2.1
      let i (j : Nat) : Nat := k.2 / 256 ^ j % 256
      if k.2 / 2 ^ 24 % 2 = 1 ∨ vs.length ≤ i 0 ∨ vs.length ≤ i 1 ∨ vs.length ≤ i 2 ∨ 2 ^ 32 ≤ base + k.1 then none
      else some { order := base + k.1, page := e.2, v0 := vs.getD (i 0) [], v1 := vs.getD (i 1) [], v2 := vs.getD (i 2) [] }
  (l.flatMap one).mergeSort fun a b => a.order ≤ b.order

/-- Blocks of 4 × 4 pixels across and down (R426). -/
def blocksX (d : Nat) : Nat := (pdWm d + 4) / 4
def blocksY (d : Nat) : Nat := (pdHm d + 4) / 4

/-- The sampled pixels of the frame from the density map's bytes (R426). -/
def samplePixels (d : Nat) (map : List Byte) : List (Nat × Nat) :=
  (List.range (blocksY d)).flatMap fun by_ =>
    (List.range (blocksX d)).flatMap fun bx =>
      ((rankOrder.take (densitySamples (map.getD (by_ * blocksX d + bx) 0).toNat)).map fun e =>
        (4 * bx + e.1, 4 * by_ + e.2)).filter fun e => e.1 ≤ pdWm d && e.2 ≤ pdHm d

/-- A stage boundary does steps 2 and 3 of R207 for the pass's context (R443). -/
def boundaryWork (s : State) (p : Pass) : State := expireContext (performWrites s) p.ctx

/-- The pass ends: its node fails, or finishes (R444, R445). -/
def endPass (s : State) (p : Pass) (e : Option Nat) : State :=
  let s1 := (boundaryWork s p).setPass p.id fun x => { x with st := .ending }
  (match e with
    | some k => s1.setNode p.node fun n => { n with failed := some k, requeued := [] }
    | none => s1).later [.event (.nodeFinish p.node)]

/-- A pass moves to a stage. -/
def nextStage (s : State) (p : Pass) (st : PassSt) : State :=
  (boundaryWork s p).setPass p.id fun x => { x with st := st, nextFid := 0, nextTile := 0 }

/-- STAGE_BOUNDARY (R420, R443): the stage of pass n has completed and the next one begins. -/
def execStageBoundary (n : Nat) (s : State) : Host.Outcome State Fault Refusal :=
  match s.pass n with
  | none => .next s
  | some p =>
    if stageDone s p = false ∨ (s.ctx p.ctx).dead then .next s
    else if p.fail.isSome then .next (endPass s p p.fail)
    else
      match p.st with
      | .start =>
        match initHeads s p with
        | (s1, false) => .next s1
        | (s1, true) => .next (s1.setPass n fun x => { x with st := .mesh })
      | .mesh => .next ((nextStage s p .sample).setPass n fun x => { x with prims := passPrims p })
      | .sample =>
        let d := p.desc
        let size := blocksX d * blocksY d
        match graphReadSpan s p.ctx (size + 1) (pdDmap d) size with
        | (s1, .error 0) => .next s1
        | (s1, .error _) => .next (endPass s1 p (some 0x0E))
        | (s1, .ok bs) =>
          let s2 := if bs.any fun b => decide (5 < b.toNat) then passBit s1 n 3 else s1
          .next ((nextStage s2 p .raster).setPass n fun x => { x with samples := samplePixels d bs })
      | .raster =>
        let s1 := (spentTiles s p).foldl (fun s t => freeTile s n t) s
        .next (nextStage s1 p (if p.imm then .resolve else .recon))
      | .resolve => .next (nextStage s p .recon)
      | .recon => .next (nextStage s p .post)
      | .post => .next (endPass s p none)
      | .ending => .next s

/-- The gathering the next tile is dealt to (R421, R51): the lowest one without a tile of the pass, held by no deterministic
launch, that keeps eight CACHE banks. -/
def dealGath (s : State) (p : Pass) : Option Nat :=
  (List.range 48).find? fun g =>
    !(p.tiles.any fun t => t.gath == g) && !(gangGaths s p.node).contains g
      && decide (8 + pdLbanks p.desc ≤ cacheBanks s g)

/-- TILE_DEAL (R421, R434): in TILE mode the next tile takes list banks of a gathering, which drain before use. -/
def execTileDeal (n : Nat) (s : State) : Host.Outcome State Fault Refusal :=
  match s.pass n with
  | none => .next s
  | some p0 =>
    if p0.imm ∨ p0.st ≠ .raster ∨ p0.fail.isSome ∨ (s.ctx p0.ctx).dead then .next s
    else
      let s1 := (spentTiles s p0).foldl (fun s t => freeTile s n t) s
      match s1.pass n with
      | none => .next s1
      | some p =>
        if tileCount p.desc ≤ p.nextTile then .next s1
        else
          match dealGath s1 p with
          | none => .next s1
          | some g =>
            let s2 := s1.setGath g fun x =>
              { x with sleep := .awake, banks := takeBanks (tileOwner n p.nextTile) false (pdLbanks p.desc) x.banks }
            .next (s2.setPass n fun x =>
              { x with
                nextTile := x.nextTile + 1
                tiles := x.tiles ++ [{ n := p.nextTile, gath := g, bytes := memSetN [] 0 freshHeads, pages := [], free := []
                                       next := 0, rastered := false, resolved := false }] })

/-- The quads of a tile's primitives in ascending O, with the order of each (R427, R428). -/
def tileWork (p : Pass) (n : Nat) : List (Nat × List (Nat × Nat × Bool)) :=
  let d := p.desc
  let tx := n % tilesX d
  let ty := n / tilesX d
  let here := p.samples.filter fun e => e.1 / 64 == tx && e.2 / 64 == ty
  p.prims.flatMap fun x =>
    (tileQuads here (primCovers (pdWm d) (pdHm d) (pdCull d) (pdJx d) (pdJy d) x) tx ty).map fun q => (x.order, q)

/-- The fragments and quires of a tile join the pass (R427, R428). -/
def rasterTile (s : State) (p : Pass) (n : Nat) : State :=
  let work := tileWork p n
  let frags : List Frag := work.flatMap fun e =>
    (e.2.filter fun x => x.2.2).map fun x => { tile := n, x := x.1, y := x.2.1, order := e.1, st := .none, retired := false }
  s.setPass p.id fun x =>
    { x with
      frags := x.frags ++ frags, quires := x.quires ++ packQuads n (quireWidth (passTmpl p 1)) work []
      tiles := updWhere (fun t => t.n == n) (fun t => { t with rastered := true }) x.tiles }

/-- TILE_RASTERISATION (R421, R427): a dealt tile whose banks are ready, or IMMEDIATE mode's next tile. -/
def execTileRasterisation (n tile : Nat) (s : State) : Host.Outcome State Fault Refusal :=
  match s.pass n with
  | none => .next s
  | some p =>
    if p.st ≠ .raster ∨ p.fail.isSome ∨ (s.ctx p.ctx).dead then .next s
    else if p.imm then
      if tile = p.nextTile ∧ tile < tileCount p.desc then
        let s1 := (rasterTile s p tile).setPass n fun x => { x with nextTile := tile + 1 }
        -- after the last tile stands the boundary before fragment shading (R420, R443)
        .next (if tile + 1 = tileCount p.desc then boundaryWork s1 p else s1)
      else .next s
    else if (p.tiles.any fun t => t.n == tile && !t.rastered) && banksReady s (tileOwner n tile) then .next (rasterTile s p tile)
    else .next s

/-- The planes of a tile (R441, R442): offset, element bytes, the descriptor's image. -/
def planeList (d : Nat) (post : Bool) : List (Nat × Nat × Nat) :=
  [(0, 8, if post then bitsOf d 959 896 else bitsOf d 703 640), (0xC800, 4, bitsOf d 767 704)]
    ++ [(0x12C00, 4, bitsOf d 831 768), (0x19000, 8, bitsOf d 895 832)]

/-- Read through route 3 for a tile's planes: a reason on a fault, which writes its record; 0 waits (log 24). -/
def stageRead (s : State) (g c va n : Nat) : State × Except Nat Nat :=
  if (s.ctx c).execWait.contains (va / 65536) then (s, .error 0)
  else
    match xlate s { core := none, gath := some g } c va .read with
    | (s1, .error r) =>
      let s2 := faultRecord s1 c (whoEngine g) va r 0 3 (r == 0)
      (if r = 0 then s2.setCtx c fun x => { x with execWait := va / 65536 :: x.execWait } else s2, .error r)
    | (s1, .ok p) =>
      match readError s1 p.loc n with
      | some e => (badRead s1 { core := none, gath := some g } c e, .error badData)
      | none => let z := tileRead s1 g p n; (z.1, .ok z.2)

/-- The bytes of elements at addresses, in order. -/
def stageReadAll (g c n : Nat) : List Nat → State → State × Except Nat (List Byte)
  | [], s => (s, .ok [])
  | a :: as, s =>
    match stageRead s g c a n with
    | (s1, .error r) => (s1, .error r)
    | (s1, .ok v) =>
      match stageReadAll g c n as s1 with
      | (s2, .error r) => (s2, .error r)
      | (s2, .ok l) => (s2, .ok (bytesOf n v ++ l))

/-- Frame coordinates of an 80 × 80 window's axis: tile pixels −8 to 71, clamped to the frame (R441). -/
def windowAxis (tile last : Nat) : List Nat := (List.range 80).map fun i => min (64 * tile + i - 8) last

/-- Addresses of a plane's elements: level 0 of a 2D image (R356, R441). -/
def planeAddrs (d tile img : Nat) : List Nat :=
  (windowAxis (tile / tilesX d) (pdHm d)).flatMap fun y =>
    (windowAxis (tile % tilesX d) (pdWm d)).map fun x => texelAddr img x y 0 0 0

/-- Addresses of the density plane's bytes: 20 × 20 blocks, −2 to 17 of the tile (R441). -/
def densityAddrs (d tile : Nat) : List Nat :=
  let axis (t n : Nat) : List Nat := (List.range 20).map fun i => min (16 * t + i - 2) (n - 1)
  (axis (tile / tilesX d) (blocksY d)).flatMap fun by_ =>
    (axis (tile % tilesX d) (blocksX d)).map fun bx => pdDmap d + by_ * blocksX d + bx

/-- Fill a tile's planes in order: offset and bytes of each, or a reason. -/
def readStage (g c d tile : Nat) : List (Nat × Nat × Nat) → State → State × Except Nat (List (Nat × List Byte))
  | [], s => (s, .ok [])
  | (off, n, ia) :: rest, s =>
    match graphRead s c ia 64 with
    | (s1, .error r) => (s1, .error r)
    | (s1, .ok ib) =>
      match stageReadAll g c n (planeAddrs d tile (bytesVal ib)) s1 with
      | (s2, .error r) => (s2, .error r)
      | (s2, .ok bs) =>
        match readStage g c d tile rest s2 with
        | (s3, .error r) => (s3, .error r)
        | (s3, .ok l) => (s3, .ok ((off, bs) :: l))

/-- The controller writes bytes of a folio's scratchpad; in mapped mode through the window's lines (R23, R441). -/
def planeWrite (s : State) (fo o : Nat) (bs : List Byte) : State :=
  match s.folio fo with
  | none => s
  | some x =>
    if x.win = [] then s.setFolio fo fun y => { y with scr := memSetN y.scr o bs }
    else
      scratchWrite ((List.range ((o + bs.length + 127) / 128 - o / 128)).foldl (fun s i => scratchFill s fo (128 * (o / 128 + i))) s) fo o bs

/-- RECONSTRUCTION_FILL (R441, R442): the controller fills the planes of a reconstruction or post folio whose banks are
ready; the folio then starts. A fault other than NOT_VALID fails the pass (log 24). -/
def execReconstructionFill (fo : Nat) (s : State) : Host.Outcome State Fault Refusal :=
  match s.folio fo with
  | none => .next s
  | some f =>
    let before := s.folios.any fun y => y.node == f.node && decide (y.fid < f.fid) && (y.st == .draining || y.st == .filling)
    if needsFill f = false ∨ f.st ≠ .draining ∨ before ∨ banksReady s fo = false ∨ (s.ctx f.ctx).dead then .next s
    else
      match s.pass f.pass with
      | none => .next s
      | some p =>
        let d := p.desc
        let g := gathOf (f.cores.headD 0)
        match readStage g f.ctx d f.tile (planeList d (f.stage = .post)) s with
        | (s1, .error r) => if r = 0 then .next s1 else .next (failFolio s1 f 0x0E)
        | (s1, .ok planes) =>
          match stageReadAll g f.ctx 1 (densityAddrs d f.tile) s1 with
          | (s2, .error r) => if r = 0 then .next s2 else .next (failFolio s2 f 0x0E)
          | (s2, .ok bs) =>
            -- a mapped scratchpad is filled through its window, whose lines the planes make dirty (R22, R23)
            match registerWindow s2 f with
            | (s3, false) => .next s3
            | (s3, true) =>
              let s4 := if bs.any fun b => decide (5 < b.toNat) then passBit s3 p.id 3 else s3
              let all := planes ++ [(0x25800, bs.map fun b => if 5 < b.toNat then 5 else b)]
              let s5 := all.foldl (fun s e => planeWrite s fo e.1 e.2) s4
              .next (s5.setFolio fo fun x => { x with st := .filling })

end Sys2Proof.Machine
end

