-- ==== Sys2Proof/Machine/Context.lean ====
section
/-! DEFINITION. The register block of a context (R37, R38, R41, R199, R203, R216, R401, R403, R447), assignment (R478,
R479), dead contexts and reclamation (R409, R410), and the ends of walks (R34). -/

namespace Sys2Proof.Machine

/-- Master m may reach context c's block: READY is set and m owns the assigned context (R37, R491). -/
def owns (s : State) (m c : Nat) : Bool := s.ready && decide (c < 64) && (s.ctx c).v && (s.ctx c).master == m

/-- Act on an owned context. -/
def ifOwns (m c : Nat) (f : State → State) (s : State) : Host.Outcome State Fault Refusal := .next (if owns s m c then f s else s)

/-- Held fault and trap records go on if they can now (R37). -/
def tryRelease (s : State) (c : Nat) : State := fqRelease s c (s.ctx c).heldRecs

/-- A write of CTX_FQ_CTL (R37): FULL is cleared by a 1, SIZE takes its value. -/
def writeFqCtl (c : Nat) (v : Nat) (s : State) : State :=
  tryRelease (s.setCtx c fun x => { x with fqFull := x.fqFull && !v.testBit 31, fqSize := bitsOf v 4 0 }) c

/-- A write of CTX_FQ_BASE (R37). -/
def writeFqBase (c : Nat) (v : Nat) (s : State) : State :=
  tryRelease (s.setCtx c fun x => { x with fqBase := BitVec.ofNat 64 (bitsOf v 51 12 * 4096) }) c

/-- A write of CTX_FQ_GET (R37). -/
def writeFqGet (c : Nat) (v : Nat) (s : State) : State := tryRelease (s.setCtx c fun x => { x with fqGet := BitVec.ofNat 16 v }) c

def execCtxFqCtlWrite (m c : Nat) (v : Word) (s : State) : Host.Outcome State Fault Refusal := ifOwns m c (writeFqCtl c v.toNat) s
def execCtxFqBaseWrite (m c : Nat) (v : DWord) (s : State) : Host.Outcome State Fault Refusal := ifOwns m c (writeFqBase c v.toNat) s
def execCtxFqGetWrite (m c : Nat) (v : Word) (s : State) : Host.Outcome State Fault Refusal := ifOwns m c (writeFqGet c v.toNat) s

/-- Captures that waited for a page are written again (R407). -/
def retryCaptures (s : State) (c : Nat) : State :=
  let l := (s.ctx c).capWait
  l.foldl writeTrap (s.setCtx c fun x => { x with capWait := [] })

/-- GO: every parked access of the context is replayed (R37, R41, R42): the words that wait at a fetch, the accesses of the
operand logs, copies, bench entries, huddles, captures, and what the executor waits for. -/
def resumeGo (c : Nat) (s : State) : State :=
  let head := (s.ctx c).execWait.contains (bitsOf (s.ctx c).ghAddr.toNat 56 7 * 128 / 65536)
  let s1 := s.setCtx c fun x => { x with outPages := [], execWait := [] }
  let mine (slot : Slot) : Bool := s1.quires.any fun q => q.slot == slot && q.ctx == c
  let s2 : State :=
    { s1 with
      quires := updWhere (fun q => q.ctx == c)
        (fun q =>
          { q with wait := q.wait.bind fun w =>
              if w.why = .fetch then (if q.rally.isNone then none else some { w with why := .again }) else some w }) s1.quires
      huddles := updWhere (fun u => u.ctx == c) (fun u => { u with susp := false }) s1.huddles
      folios := updWhere (fun f => f.ctx == c) (fun f => { f with tags := f.tags.map fun t => { t with paused := false } }) s1.folios
      gaths := s1.gaths.map fun g => { g with bench := updWhere (fun b => mine b.slot) (fun b => { b with parked := false }) g.bench } }
  let s3 := (s2.quires.filter fun q => q.ctx == c).foldl (fun s q => replaySpawns (replayQuire s q.slot) q.slot) s2
  let s4 := retryCaptures s3 c
  if head then readHead s4 c else s4

def execCtxResumeGo (m c : Nat) (s : State) : Host.Outcome State Fault Refusal := ifOwns m c (resumeGo c) s

/-- A KIND write (R38): ignored while BUSY; the page it names is CTX_INVAL_VA's now. -/
def startInval (c kind : Nat) (s : State) : State :=
  if (s.ctx c).invalBusy ∨ kind = 0 ∨ kind = 3 then s
  else
    let va := (s.ctx c).invalVa
    { (s.setCtx c fun x => { x with invalBusy := true, invalKind := kind, invalPage := va }) with
      walks := updWhere (fun w => w.ctx == c && (kind == 2 || w.page == va.toNat / 65536)) (fun w => { w with discard := true }) s.walks }

def execInvalVa (m c : Nat) (s : State) : Host.Outcome State Fault Refusal := ifOwns m c (startInval c 1) s
def execInvalContext (m c : Nat) (s : State) : Host.Outcome State Fault Refusal := ifOwns m c (startInval c 2) s

/-- A TLB entry matches the drop in progress. -/
def invalMatch (s : State) (c : Nat) (e : Tlb) : Bool :=
  e.ctx == c && ((s.ctx c).invalKind == 2 || e.page == (s.ctx c).invalPage.toNat / 2 ^ pageShift e.level)

/-- A walk in flight for another page that may end in the leaf that holds the page of the drop in progress: they lie in one 16 GiB
page (R28). It ends before the TLBs drop the leaf, so that its result does not outlast BUSY. -/
def invalKin (s : State) (c : Nat) (w : Walk) : Bool :=
  w.ctx == c && w.root.isSome && !w.discard && w.page / 2 ^ 18 == (s.ctx c).invalPage.toNat / 2 ^ 34

/-- Accesses of the context that used a translation have been performed: logs hold none that waits, no region holds
buffered stores, nothing is pending. -/
def ctxQuiet (s : State) (c : Nat) : Bool :=
  !(s.quires.any fun q => q.ctx == c &&
      ((q.log.any fun e => e.acc.any fun a => a.st == .waiting) || ((q.region.map fun r => r.buf != []).getD false)))
    && !(s.pending.any fun p => p.ctx == c)

/-- INVALIDATION_COMPLETE (R38): accesses under the old translation are performed, every TLB has dropped its entries and
every matching walk is walked again; BUSY clears. -/
def execInvalidationComplete (c : Nat) (s : State) : Host.Outcome State Fault Refusal :=
  if (s.ctx c).invalBusy = false then .next s
  else
    let s1 := (s.quires.filter fun q => q.ctx == c).foldl (fun s q => serveQuire s q.slot) s
    let s2 := (((s1.pending.filter fun p => p.ctx == c).map (·.gath)).dedup).foldl drainGath s1
    let s3 := flushPosted ((s2.msgs.map (·.src)).dedup.foldl performTileWrites s2) fun _ => true
    if ctxQuiet s3 c = false then .next s3
    else
      let sw := (s3.walks.filter (invalKin s3 c)).foldl (fun s w => if (walkOf s w.ctx w.page).isSome then walkDone s w else s) s3
      let s4 : State :=
        { sw with
          gaths := sw.gaths.map fun g => { g with tlb := g.tlb.filter fun e => !invalMatch sw c e }
          cores := sw.cores.map fun k => { k with tlb := k.tlb.filter fun e => !invalMatch sw c e }
          walks := updWhere (fun w => w.ctx == c && w.discard) (fun w => { w with discard := false, root := none }) sw.walks }
      .next ((fillWalkers s4).setCtx c fun x => { x with invalBusy := false, invalKind := 0 })

/-- WALK_COMPLETE (R31 to R34): the translation is installed for every miss that has joined the walk; a walk that ends in a fault
lets its words meet it. A walk whose result is discarded is walked again (R38). -/
def execWalkComplete (n : Nat) (s : State) : Host.Outcome State Fault Refusal :=
  match s.walks.find? fun w => w.id == n with
  | none => .next s
  | some w =>
    if w.discard then
      .next (fillWalkers { s with walks := updWhere (fun x => x.id == n) (fun x => { x with discard := false, root := none }) s.walks })
    else .next (walkDone s w)

/-- A write of CTX_TG_CTL (R199): HSIZE and QSIZE are ignored while EN is 1; EN stays 0 when they are out of range or the
context is dead; setting EN reads the head. -/
def writeTgCtl (c v : Nat) (s : State) : State :=
  let x := s.ctx c
  let hs := if x.tgEn then x.tgHsize else bitsOf v 4 0
  let qs := if x.tgEn then x.tgQsize else bitsOf v 11 8
  let ok : Bool := decide (4 ≤ hs) && decide (hs ≤ 15) && (qs == 0 || (decide (4 ≤ qs) && decide (qs ≤ 12)))
  let en : Bool := v.testBit 31 && ok && !x.dead
  let s1 := s.setCtx c fun x => { x with tgEn := en, tgHsize := hs, tgQsize := qs, tgWeight := bitsOf v 23 16 }
  if en && !x.tgEn then readHead s1 c else s1

def execCtxTgCtlWrite (m c : Nat) (v : Word) (s : State) : Host.Outcome State Fault Refusal := ifOwns m c (writeTgCtl c v.toNat) s

/-- A write of CTX_GH_ADDR (R199, R203). -/
def writeGhAddr (c v : Nat) (s : State) : State :=
  readHead (s.setCtx c fun x => { x with ghAddr := BitVec.ofNat 64 (bitsOf v 56 7 * 128) }) c

def execCtxGhAddrWrite (m c : Nat) (v : DWord) (s : State) : Host.Outcome State Fault Refusal := ifOwns m c (writeGhAddr c v.toNat) s

/-- CTX_WAKE (R203). -/
def execCtxWake (m c : Nat) (s : State) : Host.Outcome State Fault Refusal := ifOwns m c (fun s => readHead s c) s

/-- A write of CTX_WDOG restarts the period (R216). -/
def writeWdog (c v : Nat) (s : State) : State := s.setCtx c fun x => { x with wdogLimit := v % 65536, wdogStart := s.cycle }

def execCtxWdogWrite (m c : Nat) (v : Word) (s : State) : Host.Outcome State Fault Refusal := ifOwns m c (writeWdog c v.toNat) s

/-- CTX_TRAPCTL RESUME (R401). -/
def execCtxTrapctlResume (m c : Nat) (s : State) : Host.Outcome State Fault Refusal := ifOwns m c (fun s => resumeTraps s c) s

/-- A line held under the key of a dead context is dropped without write-back (R409). -/
def dropKeyLine (s : State) (line : Nat) : State :=
  dropLeases (recallTokens (loseLine s line) line none) line

/-- Lines out at agents that hold data under a key. -/
def keyLines (s : State) (k : Key) : List Nat :=
  (((s.held.filter fun h => h.tok != 0).map (·.line) ++ (s.msgs.filter fun m => m.kind.isTokens).map (·.line)).dedup).filter fun l => (List.range 8).any fun i => keyTag s (l * 8 + i) == k

/-- A message carries a write of the context. -/
def msgOf (s : State) (c : Nat) (m : Msg) : Bool :=
  match m.kind with
  | .write3 _ k b => k == ctxKey s c || (b.map fun b => s.quires.any fun q => q.slot == b.1 && q.ctx == c).getD false
  | .posted _ _ p => p.ctx == c
  | _ => false

/-- DEAD (R409): the context ends at once. -/
def markDead (c : Nat) (s : State) : State :=
  if (s.ctx c).dead then s
  else
    let lines := keyLines s (ctxKey s c)
    let s1 := s.setCtx c fun x => { x with dead := true, tgEn := false, capWait := [], execWait := [], got := [], outPages := [] }
    let mine (slot : Slot) : Bool := s.quires.any fun q => q.slot == slot && q.ctx == c
    let s2 : State :=
      { s1 with
        pending := s1.pending.filter fun p => p.ctx != c
        msgs := s1.msgs.filter fun m => !msgOf s c m
        walks := s1.walks.filter fun w => w.ctx != c
        cur := s1.cur.filter fun k => !mine k.slot
        quires := updWhere (fun q => q.ctx == c)
          (fun q => { q with wait := none, log := [], chain := none, latch := none, region := none, deferred := [] }) s1.quires
        gaths := s1.gaths.map fun g => { g with bench := g.bench.filter fun b => !mine b.slot }
        folios := updWhere (fun f => f.ctx == c) (fun f => { f with tags := [] }) s1.folios
        huddles := s1.huddles.filter fun u => u.ctx != c
        serving := s1.serving.filter fun v => v.huddle.ctx != c
        monitors := s1.monitors.filter fun e => e.2 != c
        spawnLate := s1.spawnLate.filter fun e => e.ctx != c }
    let s3 := (s2.rays.filter fun r => r.ctx == c).foldl (fun s r => freeRay s c r.handle) s2
    lines.foldl dropKeyLine (fillWalkers s3)

def execCtxStateDead (m c : Nat) (s : State) : Host.Outcome State Fault Refusal := ifOwns m c (markDead c) s

/-- Requests tagged with a dead context that have not drained (R409, R410). -/
def draining (s : State) (c : Nat) : Bool :=
  s.msgs.any (msgOf s c) || s.walks.any (fun w => w.ctx == c) || s.pending.any (fun p => p.ctx == c)
    || s.quires.any fun q => q.ctx == c && q.log != []

/-- A gathering's request for a line that nothing in it waits for: no pending store, no access of a quire's log. -/
def unneeded (s : State) (h : Held) : Bool :=
  h.agent < 48 && !hasPending s h.agent h.line
    && !(s.quires.any fun q => gathOf q.slot.core == h.agent && q.log.any fun e => e.acc.any fun a => a.st == .waiting && lineOf a.loc == h.line)

/-- Persistent requests that served a dead context's accesses are freed (R410): those of lines under its key, or open ones, that
nothing waits for any more. -/
def freePersists (s : State) (c : Nat) : State :=
  let its (h : Held) : Bool := (homeOf s h.line).ckey == some (ctxKey s c) || (homeOf s h.line).ckey == some .opened
  (s.held.filter fun h => h.pers.isSome && unneeded s h && its h).foldl (fun s h =>
    freePers
      { setHeld s h.agent h.line (fun x => { x with pers := none, req := none, fails := 0 }) with
        msgs := s.msgs.filter fun m => !isPersMsg h.agent h.line m } h.agent h.line) s

/-- Reclamation frees what a dead context holds (R410). -/
def reclaim (c : Nat) (s0 : State) : State :=
  let s := freePersists s0 c
  let s1 := (s.folios.filter fun f => f.ctx == c).foldl (fun s f => dropFolio s f) s
  let gone := (s1.passes.filter fun p => p.ctx == c)
  let s2 := gone.foldl (fun s p => p.tiles.foldl (fun s t => freeBanks s (tileOwner p.id t.n)) s) s1
  let s3 : State :=
    { s2 with
      quires := s2.quires.filter fun q => q.ctx != c
      nodes := s2.nodes.filter fun n => n.ctx != c
      passes := s2.passes.filter fun p => p.ctx != c
      spawnUsed := s2.spawnUsed.filter fun e => e.1 != c
      rays := s2.rays.filter fun r => r.ctx != c
      waitHead := s2.waitHead.filter fun h => !(s2.nodes.any fun n => n.id == h.node && n.ctx == c)
      leases := s2.leases.filter fun l => l.kfield != c
      gaths := s2.gaths.map fun g =>
        { g with tlb := g.tlb.filter fun e => e.ctx != c, recs := g.recs.filter fun e => e.ctx != c }
      cores := s2.cores.map fun k => { k with tlb := k.tlb.filter fun e => e.ctx != c } }
  s3.setCtx c fun x =>
    { x with heldRecs := [], capWait := [], rayBlocks := [], invalBusy := false, invalKind := 0, recl := true }

/-- CONTEXT_RECLAMATION (R410): it begins once every request tagged with the context has drained, and the owner is interrupted when
RECL is set. -/
def execContextReclamation (c : Nat) (s : State) : Host.Outcome State Fault Refusal :=
  let x := s.ctx c
  .next (if x.v && x.dead && !x.recl && !draining s c then interrupt (reclaim c s) c else s)

/-- REVIVE (R409, R410, R479): it also replaces the key. -/
def revive (c : Nat) (s : State) : State :=
  if (s.ctx c).recl then
    s.setCtx c fun x => { x with dead := false, recl := false, ran := false, tgEn := false, epoch := x.epoch + 1 }
  else s

def execCtxStateRevive (m c : Nat) (s : State) : Host.Outcome State Fault Refusal := ifOwns m c (revive c) s

/-- A write of CTX_OWNER that sets V (R37, R478, R479): every register of the block takes its reset value, and a fresh key
is generated. -/
def assignCtx (c owner : Nat) (s : State) : State :=
  if (s.ctx c).v then s
  else s.setCtx c fun x => { Ctx.initial with v := true, master := owner % 32, epoch := x.epoch + 1 }

def execCtxOwnerAssign (m c owner : Nat) (s : State) : Host.Outcome State Fault Refusal :=
  .next (if s.ready && m == 0 then assignCtx c owner s else s)

/-- A write of CTX_OWNER that clears V (R479). -/
def releaseCtx (c : Nat) (s : State) : State :=
  let x := s.ctx c
  if x.v && !x.tgEn && (!x.ran || x.recl) then s.setCtx c fun x => { x with v := false } else s

def execCtxOwnerRelease (m c : Nat) (s : State) : Host.Outcome State Fault Refusal :=
  .next (if s.ready && m == 0 then releaseCtx c s else s)

/-- A write of CTX_RAY_BASE or CTX_RAY_CTL (R447): ignored while pages are in use. -/
def writeRayPool (c : Nat) (ctl : Bool) (v : Nat) (s : State) : State :=
  s.setCtx c fun x =>
    if x.rayBlocks ≠ [] then x
    else if ctl then { x with rayPages := bitsOf v 23 0 }
    else { x with rayBase := BitVec.ofNat 64 (bitsOf v 56 12 * 4096) }

def execCtxRayPoolWrite (m c : Nat) (ctl : Bool) (v : DWord) (s : State) : Host.Outcome State Fault Refusal :=
  ifOwns m c (writeRayPool c ctl v.toNat) s

end Sys2Proof.Machine
end

