-- ==== Sys2Proof/Machine/CopyWords.lean ====
section
/-! DEFINITION. Copy words (R144 to R150, R386 to R388): their checks, and the slice that a quire contributes. -/

namespace Sys2Proof.Machine

/-- The parameter block of a copy word (R387). -/
def copyParam (q : Quire) (cur : Cur) (f : Copy) (i : Nat) : Nat := (sReg q cur (cur.act.headD 0) (f.sb.toNat + i)).toNat

/-- Record address of a kind that has one. -/
def copyRecord (op : Nat) (q : Quire) (cur : Cur) (f : Copy) : Nat :=
  if copyIsBox op ∨ op = 0x1A9 then copyParam q cur f 1 + 2 ^ 32 * copyParam q cur f 2 else 0

/-- The core mask register of CPYM (R158). -/
def copyMaskReg (op : Nat) (q : Quire) (cur : Cur) (f : Copy) : Nat := if op = 0x1A4 then copyParam q cur f 3 else 0

/-- The peer device number (R387). -/
def copyPeer (op : Nat) (q : Quire) (cur : Cur) (f : Copy) : Nat :=
  if op = 0x1A5 ∨ op = 0x1A6 then copyParam q cur f 1 % 1024 else if op = 0x1A8 then copyParam q cur f 3 % 1024 else 0

/-- The folio-relative cores whose instances a copy arrives on, one for each arrival (R154). -/
def copyCores (op mask rc : Nat) : List Nat := if op = 0x1A4 then bitList mask 16 else [rc]

/-- The slice blocks that the leading set supplies (R388). -/
def sliceBlocks (op : Nat) (q : Quire) (cur : Cur) (f : Copy) : List (List Word) :=
  let n := copySlice op f.nc.toNat
  if f.sa then
    (if cur.act = [] then [] else [(List.range n).map fun i => sReg q cur (cur.act.headD 0) (f.a.toNat + i)])
  else cur.act.map fun t => (List.range n).map fun i => vReg q cur t (f.a.toNat + i)

/-- A 64-bit value in a block. -/
def blkPair (b : List Word) (i : Nat) : Nat := (b.getD i 0).toNat + 2 ^ 32 * (b.getD (i + 1) 0).toNat
/-- A 32-bit value in a block. -/
def blkWord (b : List Word) (i : Nat) : Nat := (b.getD i 0).toNat

/-- A slice's block is misaligned (R388, R143): plain ranges by 16, an image's offset by its record. -/
def blockMisaligned (op : Nat) (r : Option Nat) (b : List Word) : Bool :=
  if op = 0x1A0 ∨ op = 0x1A2 ∨ op = 0x1A5 then blkPair b 0 % 16 != 0 || blkWord b 2 % 16 != 0 || blkWord b 3 % 16 != 0
  else if op = 0x1A6 then blkPair b 0 % 16 != 0 || blkPair b 2 % 16 != 0 || blkWord b 4 % 16 != 0
  else
    match r with
    | none => false
    | some r =>
      let d := blkWord b (if op = 0x1A9 then 2 else 0)
      if shSwz r != 0 then d % 8 != 0 else d % shElem r != 0

/-- The checks of the word at the leading set (R388): region, barrier, mask, tag. -/
def copyCheck (s : State) (op : Nat) (f : Copy) (q : Quire) (cur : Cur) : Option Nat :=
  let fo := s.folio q.folio
  let rc := relCore fo cur.slot.core
  let mask := copyMaskReg op q cur f
  let cores := copyCores op (mask % 65536) rc
  if cur.lead.any q.member then some 0x28
  -- R156: an instance it would arrive on is invalid; a mask that names no core of the folio names none (log 30)
  else if f.bv ∧ (cores.filter (· < folioCores (s.rcdOf cur.slot))).any (fun c => (barFind fo f.bar.toNat c).isNone) then some 0x1C
  else if op = 0x1A4 ∧ (mask = 0 ∨ 2 ^ folioCores (s.rcdOf cur.slot) ≤ mask) then some 0x1D
  else
    match tagOf fo cur.slot.core f.tag.toNat with
    | some t =>
      if t.st = .running ∨ (t.st = .collecting ∧ t.slices.any fun z => z.qid == q.qid) then some 0x1E else none
    | none => none

/-- The tag as the first slice of a copy sets it (R146, R149). -/
def freshTag (op : Nat) (f : Copy) (q : Quire) (cur : Cur) (lstat : Nat) : Tag :=
  { core := cur.slot.core, num := f.tag.toNat, st := .collecting, lstat := lstat, op := op
    bar := if f.bv then some f.bar.toNat else none, declared := if f.bv then copyParam q cur f 0 else 0
    mask := copyMaskReg op q cur f, peer := copyPeer op q cur f, record := copyRecord op q cur f, nc := f.nc.toNat
    match_ := true, slices := [{ qid := q.qid, nc := f.nc.toNat, blocks := sliceBlocks op q cur f }], started := none, paused := false, prog := none
    rows := [] }

/-- Two slices agree in their copy-wide parameters (R146). -/
def sameParams (x y : Tag) : Bool :=
  x.op == y.op && x.bar == y.bar && x.declared == y.declared && x.mask == y.mask && x.peer == y.peer
    && x.record == y.record

/-- The expectations of a copy's first slice on its barrier instances (R154); then it may start. -/
def expectAll (fo core rc : Nat) (t : Tag) (s : State) : State :=
  let s1 := match t.bar with
            | none => s
            | some num =>
              (copyCores t.op t.mask rc).foldl (fun s c =>
                match barFind (s.folio fo) num c with
                | some b => setBar s fo b fun x => { x with pend := x.pend + 1, decl := x.decl + t.declared }
                | none => s) s
  startCopies s1 core fo

/-- A slice is contributed (R145, R146, R149, R154). -/
def contribute (op : Nat) (f : Copy) (s : State) (cur : Cur) (q : Quire) : State :=
  let fo := s.folio q.folio
  let rc := relCore fo cur.slot.core
  let old := tagOf fo cur.slot.core f.tag.toNat
  let new := freshTag op f q cur ((old.map (·.lstat)).getD 0)
  let put (t : Tag) : State :=
    s.setFolio q.folio fun x =>
      { x with tags := t :: x.tags.filter fun y => !(y.core == cur.slot.core && y.num == f.tag.toNat) }
  match old with
  | some t =>
    if t.st = .collecting then
      startCopies (put { t with match_ := t.match_ && sameParams t new, slices := t.slices ++ new.slices }) cur.slot.core q.folio
    else expectAll q.folio cur.slot.core rc new (put new)
  | none => expectAll q.folio cur.slot.core rc new (put new)

/-- The record whose FMT and SWZ the alignment check reads (R388). -/
def copyShape (s : State) (op : Nat) (q : Quire) (cur : Cur) (f : Copy) : State × Except Nat (Option Nat) :=
  if !(copyIsBox op) && op != 0x1A9 then (s, .ok none)
  else
    let addr := copyRecord op q cur f
    if addr % 64 ≠ 0 then (s, .ok none)
    else
      match recordUse s (gathOf cur.slot.core) q.ctx addr with
      | (s1, .error (va, 0)) => (faultRecord s1 q.ctx (whoEngine (gathOf cur.slot.core)) va 0 4 0 true, .error 0)
      | (s1, .error _) => (s1, .ok none)
      | (s1, .ok r) => (s1, .ok (if shapeOk addr r then some r else none))

/-- A thread of the leading set has trapped at this word already (R253, R257): the slice then contributes nothing (R149). -/
def sliceTrapped (q : Quire) (cur : Cur) : Bool :=
  cur.lead.any fun t => ((q.th[t]?).bind (·.halt)).elim false fun h => h.pc == cur.pc

/-- A copy word (R145, R172, R388): a leading set with no active thread contributes an empty slice. The word waits
until the quire's earlier accesses are done, as its copy must (R122). -/
def copyWord (op : Nat) (f : Copy) (s : State) : Host.Outcome State Fault Refusal :=
  match s.cur with
  | none => .next s
  | some cur =>
    match s.quire cur.slot with
    | none => .next s
    | some q =>
      if sliceTrapped q cur then .next s
      else
      match copyCheck s op f q cur with
      | some k => .next (dropTraps s cur (cur.lead.map fun t => ⟨t, k, 0, 0⟩)).1
      | none =>
        let s1 := serveQuire s cur.slot
        match s1.quire cur.slot with
        | none => .next s1
        | some q1 =>
          if q1.log ≠ [] then .next (againCur s1 cur)
          else
            match copyShape s1 op q1 cur f with
            | (s2, .error _) => .next (waitPage s2 cur)
            | (s2, .ok r) =>
              let blocks := sliceBlocks op q1 cur f
              let bad : List Nat :=
                if f.sa then (if blocks.any (blockMisaligned op r) then cur.act else [])
                else ((cur.act.zip blocks).filter fun e => blockMisaligned op r e.2).map (·.1)
              if bad ≠ [] then .next (dropTraps s2 cur (bad.map fun t => ⟨t, 0x08, 0, 0⟩)).1
              else .next (contribute op f s2 cur q1)

def execCpy (_ : Hdr) (f : Copy) (s : State) : Host.Outcome State Fault Refusal := copyWord 0x1A0 f s
def execCpyR (_ : Hdr) (f : Copy) (s : State) : Host.Outcome State Fault Refusal := copyWord 0x1A1 f s
def execCpyw (_ : Hdr) (f : Copy) (s : State) : Host.Outcome State Fault Refusal := copyWord 0x1A2 f s
def execCpywR (_ : Hdr) (f : Copy) (s : State) : Host.Outcome State Fault Refusal := copyWord 0x1A3 f s
def execCpym (_ : Hdr) (f : Copy) (s : State) : Host.Outcome State Fault Refusal := copyWord 0x1A4 f s
def execCpyp (_ : Hdr) (f : Copy) (s : State) : Host.Outcome State Fault Refusal := copyWord 0x1A5 f s
def execCpypM (_ : Hdr) (f : Copy) (s : State) : Host.Outcome State Fault Refusal := copyWord 0x1A6 f s
def execCpyrd (_ : Hdr) (f : Copy) (s : State) : Host.Outcome State Fault Refusal := copyWord 0x1A7 f s
def execCpyrdP (_ : Hdr) (f : Copy) (s : State) : Host.Outcome State Fault Refusal := copyWord 0x1A8 f s
def execCpyg (_ : Hdr) (f : Copy) (s : State) : Host.Outcome State Fault Refusal := copyWord 0x1A9 f s

end Sys2Proof.Machine
end

