-- ==== Sys2Proof/Machine/Float.lean ====
section
/-! DEFINITION. Class 1: FP32, its pair forms, transcendentals and FP64 (R287 to R291). -/

namespace Sys2Proof.Machine

/-- RND of CLS 1:0 (R287). -/
def rnd (f : Full) : Nat := f.cls.toNat % 4
/-- RND of CLB 1:0. -/
def rndI (f : Imm) : Nat := f.clb.toNat % 4

/-- FADD on patterns of a format, and its kin (R287). -/
def opFadd (m : Fmt) (ftz : Bool) (rm a b : Nat) : Nat := fpOp2 m ftz rm (fpAdd rm) a b
/-- FMUL. -/
def opFmul (m : Fmt) (ftz : Bool) (rm a b : Nat) : Nat := fpOp2 m ftz rm fpMul a b
/-- FFMA. -/
def opFfma (m : Fmt) (ftz : Bool) (rm a b c : Nat) : Nat := fpOp3 m ftz rm (fpFma rm) a b c
/-- FMIN, FMAX, FMINN, FMAXN (R230). -/
def opFpick (m : Fmt) (larger nanWins ftz : Bool) (a b : Nat) : Nat := fpOp2 m ftz 0 (fpMinMax larger nanWins) a b
/-- FRND. -/
def opFrnd (m : Fmt) (ftz : Bool) (rm a : Nat) : Nat := fpOp1 m ftz rm (fpIntegral rm) a
/-- FFRAC. -/
def opFfrac (ftz : Bool) (a : Nat) : Nat := fpOp1 fp32 ftz 0 fpFrac a
/-- A transcendental under FTZ (R288). -/
def opTrans (g : Fpv → Nat) (ftz : Bool) (a : Nat) : Nat := flush fp32 ftz (g (fpRead fp32 (flush fp32 ftz a)))

/-- Apply an operation to the elements of packed blocks: `n` elements of `w` bits. -/
def lanes1 (w n : Nat) (g : Nat → Nat) (a : Nat) : Nat :=
  (List.range n).foldl (fun x i => x + g (a / 2 ^ (w * i) % 2 ^ w) * 2 ^ (w * i)) 0
/-- The same with two sources. -/
def lanes2 (w n : Nat) (g : Nat → Nat → Nat) (a b : Nat) : Nat :=
  (List.range n).foldl (fun x i => x + g (a / 2 ^ (w * i) % 2 ^ w) (b / 2 ^ (w * i) % 2 ^ w) * 2 ^ (w * i)) 0
/-- The same with three sources. -/
def lanes3 (w n : Nat) (g : Nat → Nat → Nat → Nat) (a b c : Nat) : Nat :=
  (List.range n).foldl
    (fun x i =>
      x + g (a / 2 ^ (w * i) % 2 ^ w) (b / 2 ^ (w * i) % 2 ^ w) (c / 2 ^ (w * i) % 2 ^ w) * 2 ^ (w * i)) 0
/-- A compare of packed elements. -/
def lanesCmp (m : Fmt) (w n : Nat) (ftz : Bool) (cc a b : Nat) : List Bool :=
  (List.range n).map fun i => fpCmpBits m ftz cc (a / 2 ^ (w * i) % 2 ^ w) (b / 2 ^ (w * i) % 2 ^ w)

def execFadd (_ : Hdr) (f : Full) (s : State) : Host.Outcome State Fault Refusal :=
  aluFull f 1 1 1 0 (fun q a b _ => opFadd fp32 q.ftz (rnd f) a b) s
def execFmul (_ : Hdr) (f : Full) (s : State) : Host.Outcome State Fault Refusal :=
  aluFull f 1 1 1 0 (fun q a b _ => opFmul fp32 q.ftz (rnd f) a b) s
def execFfma (_ : Hdr) (f : Full) (s : State) : Host.Outcome State Fault Refusal :=
  aluFull f 1 1 1 1 (fun q a b c => opFfma fp32 q.ftz (rnd f) a b c) s
def execFmin (_ : Hdr) (f : Full) (s : State) : Host.Outcome State Fault Refusal :=
  aluFull f 1 1 1 0 (fun q a b _ => opFpick fp32 false false q.ftz a b) s
def execFmax (_ : Hdr) (f : Full) (s : State) : Host.Outcome State Fault Refusal :=
  aluFull f 1 1 1 0 (fun q a b _ => opFpick fp32 true false q.ftz a b) s
def execFminn (_ : Hdr) (f : Full) (s : State) : Host.Outcome State Fault Refusal :=
  aluFull f 1 1 1 0 (fun q a b _ => opFpick fp32 false true q.ftz a b) s
def execFmaxn (_ : Hdr) (f : Full) (s : State) : Host.Outcome State Fault Refusal :=
  aluFull f 1 1 1 0 (fun q a b _ => opFpick fp32 true true q.ftz a b) s
def execFcmp (_ : Hdr) (f : Full) (s : State) : Host.Outcome State Fault Refusal :=
  prdFull f 1 1 (fun q a b => [fpCmpBits fp32 q.ftz f.cls.toNat a b]) s
/-- FCLASS reads its source by type (R289). -/
def execFclass (_ : Hdr) (f : Full) (s : State) : Host.Outcome State Fault Refusal :=
  aluFull f 1 (if rnd f = 1 then 2 else 1) 0 0 (fun _ a _ _ =>
    match rnd f with
    | 0 => fpClass fp32 a
    | 1 => fpClass fp64 a
    | 2 => fpClass fp16 (a % 65536)
    | _ => fpClass bf16 (a % 65536)) s
def execFrnd (_ : Hdr) (f : Full) (s : State) : Host.Outcome State Fault Refusal :=
  aluFull f 1 1 0 0 (fun q a _ _ => opFrnd fp32 q.ftz (rnd f) a) s
def execFfrac (_ : Hdr) (f : Full) (s : State) : Host.Outcome State Fault Refusal :=
  aluFull f 1 1 0 0 (fun q a _ _ => opFfrac q.ftz a) s
def execFrcp (_ : Hdr) (f : Full) (s : State) : Host.Outcome State Fault Refusal :=
  aluFull f 1 1 0 0 (fun q a _ _ => opTrans trRcp q.ftz a) s
def execFrsq (_ : Hdr) (f : Full) (s : State) : Host.Outcome State Fault Refusal :=
  aluFull f 1 1 0 0 (fun q a _ _ => opTrans trRsq q.ftz a) s
def execFsqrt (_ : Hdr) (f : Full) (s : State) : Host.Outcome State Fault Refusal :=
  aluFull f 1 1 0 0 (fun q a _ _ => opTrans trSqrt q.ftz a) s
def execFexp2 (_ : Hdr) (f : Full) (s : State) : Host.Outcome State Fault Refusal :=
  aluFull f 1 1 0 0 (fun q a _ _ => opTrans trExp2 q.ftz a) s
def execFlog2 (_ : Hdr) (f : Full) (s : State) : Host.Outcome State Fault Refusal :=
  aluFull f 1 1 0 0 (fun q a _ _ => opTrans trLog2 q.ftz a) s
def execFsin (_ : Hdr) (f : Full) (s : State) : Host.Outcome State Fault Refusal :=
  aluFull f 1 1 0 0 (fun q a _ _ => opTrans (trTrig false) q.ftz a) s
def execFcos (_ : Hdr) (f : Full) (s : State) : Host.Outcome State Fault Refusal :=
  aluFull f 1 1 0 0 (fun q a _ _ => opTrans (trTrig true) q.ftz a) s
def execFtanh (_ : Hdr) (f : Full) (s : State) : Host.Outcome State Fault Refusal :=
  aluFull f 1 1 0 0 (fun q a _ _ => opTrans trTanh q.ftz a) s
def execDadd (_ : Hdr) (f : Full) (s : State) : Host.Outcome State Fault Refusal :=
  aluFull f 2 2 2 0 (fun _ a b _ => opFadd fp64 false (rnd f) a b) s
def execDmul (_ : Hdr) (f : Full) (s : State) : Host.Outcome State Fault Refusal :=
  aluFull f 2 2 2 0 (fun _ a b _ => opFmul fp64 false (rnd f) a b) s
def execDfma (_ : Hdr) (f : Full) (s : State) : Host.Outcome State Fault Refusal :=
  aluFull f 2 2 2 2 (fun _ a b c => opFfma fp64 false (rnd f) a b c) s
def execDcmp (_ : Hdr) (f : Full) (s : State) : Host.Outcome State Fault Refusal :=
  prdFull f 2 2 (fun _ a b => [fpCmpBits fp64 false f.cls.toNat a b]) s
def execFaddX2 (_ : Hdr) (f : Full) (s : State) : Host.Outcome State Fault Refusal :=
  aluFull f 2 2 2 0 (fun q a b _ => lanes2 32 2 (opFadd fp32 q.ftz (rnd f)) a b) s
def execFmulX2 (_ : Hdr) (f : Full) (s : State) : Host.Outcome State Fault Refusal :=
  aluFull f 2 2 2 0 (fun q a b _ => lanes2 32 2 (opFmul fp32 q.ftz (rnd f)) a b) s
def execFfmaX2 (_ : Hdr) (f : Full) (s : State) : Host.Outcome State Fault Refusal :=
  aluFull f 2 2 2 2 (fun q a b c => lanes3 32 2 (opFfma fp32 q.ftz (rnd f)) a b c) s
def execFminX2 (_ : Hdr) (f : Full) (s : State) : Host.Outcome State Fault Refusal :=
  aluFull f 2 2 2 0 (fun q a b _ => lanes2 32 2 (opFpick fp32 false false q.ftz) a b) s
def execFmaxX2 (_ : Hdr) (f : Full) (s : State) : Host.Outcome State Fault Refusal :=
  aluFull f 2 2 2 0 (fun q a b _ => lanes2 32 2 (opFpick fp32 true false q.ftz) a b) s
def execFminnX2 (_ : Hdr) (f : Full) (s : State) : Host.Outcome State Fault Refusal :=
  aluFull f 2 2 2 0 (fun q a b _ => lanes2 32 2 (opFpick fp32 false true q.ftz) a b) s
def execFmaxnX2 (_ : Hdr) (f : Full) (s : State) : Host.Outcome State Fault Refusal :=
  aluFull f 2 2 2 0 (fun q a b _ => lanes2 32 2 (opFpick fp32 true true q.ftz) a b) s
def execFrndX2 (_ : Hdr) (f : Full) (s : State) : Host.Outcome State Fault Refusal :=
  aluFull f 2 2 0 0 (fun q a _ _ => lanes1 32 2 (opFrnd fp32 q.ftz (rnd f)) a) s
def execFcmpX2 (_ : Hdr) (f : Full) (s : State) : Host.Outcome State Fault Refusal :=
  prdFull f 2 2 (fun q a b => lanesCmp fp32 32 2 q.ftz f.cls.toNat a b) s
def execFaddI (_ : Hdr) (f : Imm) (s : State) : Host.Outcome State Fault Refusal :=
  aluImm f (immF32 f) (fun q a b => opFadd fp32 q.ftz (rndI f) a b) s
def execFmulI (_ : Hdr) (f : Imm) (s : State) : Host.Outcome State Fault Refusal :=
  aluImm f (immF32 f) (fun q a b => opFmul fp32 q.ftz (rndI f) a b) s
/-- FFMA (i): A × imm + D (R245). -/
def execFfmaI (_ : Hdr) (f : Imm) (s : State) : Host.Outcome State Fault Refusal :=
  aluWord f.u f.d.toNat 1
    (fun q cur t =>
      opFfma fp32 q.ftz (rndI f) (block q cur f.sa t f.a.toNat 1) (immF32 f) (block q cur f.u t f.d.toNat 1)) s
def execFminI (_ : Hdr) (f : Imm) (s : State) : Host.Outcome State Fault Refusal :=
  aluImm f (immF32 f) (fun q a b => opFpick fp32 false false q.ftz a b) s
def execFmaxI (_ : Hdr) (f : Imm) (s : State) : Host.Outcome State Fault Refusal :=
  aluImm f (immF32 f) (fun q a b => opFpick fp32 true false q.ftz a b) s
def execFcmpI (_ : Hdr) (f : Imm) (s : State) : Host.Outcome State Fault Refusal :=
  prdImm f (immF32 f) (fun q a b => [fpCmpBits fp32 q.ftz (f.clb.toNat % 16) a b]) s

end Sys2Proof.Machine
end

