-- ==== Sys2Proof/Machine/CopyEngine.lean ====
section
/-! DEFINITION. The copy engine (R122, R123, R141 to R143, R151, R152, R157 to R162, R166, R389 to R392): the checks of a
start, the moves, the additions, and completion. -/

namespace Sys2Proof.Machine

/-- How a copy ends (R152). -/
structure CopyEnd where
  status : Nat
  fault : Nat
  reason : Nat
  addr : Nat
  bytes : Nat
  deriving DecidableEq, Repr

/-- Swz(q) of a record's box image (R143). -/
def swz (r q : Nat) : Nat :=
  if shSwz r = 0 then q
  else
    let rb := shElem r * shBox r 0
    let g := 2 * 2 ^ shSwz r
    let row := q / rb
    let c := q % rb
    row * rb + 8 * ((c / 8 + row % g) % (rb / 8)) + c % 8

/-- The index vectors of a box in ascending q (R141). -/
def boxIndex (r i : Nat) : List Nat :=
  (List.range 5).map fun d => i / ((List.range d).foldl (fun n k => n * max 1 (shBox r k)) 1) % max 1 (shBox r d)

/-- Elements of a box. -/
def boxCount (r : Nat) : Nat := boxBytes r / shElem r

/-- Tensor coordinates of a box element. -/
def boxCoord (r : Nat) (origin : List Int) (i : Nat) : List Int :=
  (List.range (shRank r)).map fun d => origin.getD d 0 + ((boxIndex r i).getD d 0 : Int)

/-- The address of a coordinate modulo 2^57, in bounds or not (R142, R152). -/
def coordAddr (r : Nat) (xs : List Int) : Nat :=
  toBits 57 ((List.range (shRank r)).foldl
    (fun (a : Int) d => a + xs.getD d 0 * ((if d = 0 then shElem r else shStr r d : Nat) : Int)) (shBase r : Int))

/-- The boxes of a tag's slices: d and origin, in order (R162). -/
def tagBlocks (t : Tag) : List (List Word) := (t.slices.mergeSort fun a b => a.qid ≤ b.qid).flatMap (·.blocks)

/-- A box's origin. -/
def blkOrigin (b : List Word) : List Int := (b.drop 1).map fun w => sInt 32 w.toNat

/-- The first element of a box that is out of bounds (R142). -/
def refuseBox (r : Nat) (origin : List Int) : Option Nat :=
  ((List.range (boxCount r)).find? fun i => (elemAddr r (boxCoord r origin i)).isNone).map fun i =>
    coordAddr r (boxCoord r origin i)

/-- The moves of a plain block (R389): each 16-byte unit is two single-copy units (R105). -/
def plainMoves (op rc : Nat) (b : List Word) : List CopyMove :=
  let n := blkWord b (if op = 0x1A6 then 4 else 3) / 8
  (List.range n).map fun u =>
    let m : Side := .mem (blkPair b 0 + 8 * u) false
    let o : Side := .scr (blkWord b 2 + 8 * u)
    match op with
    | 0x1A0 => { src := m, val := none, dst := [(rc, o)], n := 8, add := none }
    | 0x1A6 => { src := .mem (blkPair b 2 + 8 * u) false, val := none, dst := [(rc, m)], n := 8, add := none }
    | _ => { src := o, val := none, dst := [(rc, m)], n := 8, add := none }

/-- The moves of one box (R390); `shares` names the masked cores with the first offsets of their shares (R157). -/
def boxMoves (op r rc : Nat) (shares : List (Nat × Nat)) (b : List Word) : List CopyMove :=
  let d := blkWord b 0
  let e := shElem r
  (List.range (boxCount r)).filterMap fun i =>
    let a := elemAddr r (boxCoord r (blkOrigin b) i)
    let o := d + swz r (e * i)
    let from_ : Side := (a.map fun x => Side.mem x true).getD (.fill (shFill r))
    match op with
    | 0x1A1 => some { src := from_, val := none, dst := [(rc, .scr o)], n := e, add := none }
    | 0x1A4 => some { src := from_, val := none, dst := shares.map fun s => (s.1, .scr (s.2 + o)), n := e, add := none }
    | 0x1A3 => a.map fun x => { src := .scr o, val := none, dst := [(rc, .mem x true)], n := e, add := none }
    | _ => a.map fun x => { src := .scr o, val := none, dst := [(rc, .mem x true)], n := e, add := some (shFmt r) }

/-- The index list of a CPYG block is aligned and lies in the folio's scratchpad (R391). -/
def listOk (rcd : Nat) (b : List Word) : Bool :=
  blkWord b 0 % 4 == 0 && decide (blkWord b 0 + 4 * blkWord b 1 ≤ scratchBytes rcd)

/-- The index words of one CPYG block, bound now where they are not bound yet (R391); in mapped mode a line is filled first (R23). -/
def blockRows (fo : Folio) (t : Tag) (k : Nat) (b : List Word) (s : State) : State × List Int :=
  if listOk fo.rcd b then
    (List.range (blkWord b 1)).foldl (fun x i =>
      match t.rows.find? fun e => e.1 == k && e.2.1 == i with
      | some e => (x.1, x.2 ++ [sInt 32 e.2.2])
      | none =>
        let s1 := scratchFill x.1 fo.id (blkWord b 0 + 4 * i)
        (s1, x.2 ++ [sInt 32 (bytesVal (scratchRead s1 fo.id (blkWord b 0 + 4 * i) 4))])) (s, [])
  else (s, [])

/-- The rows that the blocks of a CPYG gather (R391); none for another kind, and for a block whose list cannot be read. -/
def gatherRows (s : State) (fo : Folio) (t : Tag) : State × List (List Int) :=
  if t.op = 0x1A9 then
    (tagBlocks t).zipIdx.foldl (fun x e => let y := blockRows fo t e.2 e.1 x.1; (y.1, x.2 ++ [y.2])) (s, [])
  else (s, [])

/-- The coordinates that CPYG gathers in ascending q. -/
def gatherCoords (r : Nat) (rows : List Int) (c0 : Int) : List (List Int) :=
  rows.flatMap fun y => (List.range (shBox r 0)).map fun (i : Nat) => [c0 + (i : Int), y]

/-- The moves of a CPYG block (R391). -/
def gatherMoves (r rc : Nat) (rows : List Int) (b : List Word) : List CopyMove :=
  (gatherCoords r rows (sInt 32 (blkWord b 3))).zipIdx.map fun e =>
    { src := ((elemAddr r e.1).map fun x => Side.mem x true).getD (.fill (shFill r))
      val := none, dst := [(rc, .scr (blkWord b 2 + swz r (shElem r * e.2)))], n := shElem r, add := none }

/-- A scratchpad span outside its room: the lowest offset outside (R389). -/
def spanOut (o n room : Nat) : Option Nat := if n ≠ 0 ∧ room < o + n then some (max o room) else none

/-- The share bytes of each core (R157). -/
def shareBytes (rcd : Nat) : Nat := scratchBanks rcd * 32768

/-- The scratchpad failure of a block (R389). -/
def blockOut (op rcd r : Nat) (mask : Nat) (b : List Word) : Option Nat :=
  let z := scratchBytes rcd
  if op = 0x1A6 then none
  else if op = 0x1A0 ∨ op = 0x1A2 ∨ op = 0x1A5 then spanOut (blkWord b 2) (blkWord b 3) z
  else if op = 0x1A4 then
    (spanOut (blkWord b 0) (boxBytes r) (shareBytes rcd)).map fun o => (bitList mask 16).headD 0 * shareBytes rcd + o
  else if op = 0x1A9 then spanOut (blkWord b 2) (shElem r * shBox r 0 * blkWord b 1) z
  else spanOut (blkWord b 0) (boxBytes r) z

/-- The size of a copy for one destination (R154). -/
def copySize (t : Tag) (r : Nat) : Nat :=
  (tagBlocks t).foldl (fun n b =>
    n + (if t.op = 0x1A0 ∨ t.op = 0x1A2 ∨ t.op = 0x1A5 then blkWord b 3
         else if t.op = 0x1A6 then blkWord b 4
         else if t.op = 0x1A9 then shElem r * shBox r 0 * blkWord b 1
         else boxBytes r)) 0

/-- ADDR of a copy that ends OK (R152). `CPYP` (m) has two memory sides, and this is the destination's; a `CPYG` whose first block
gathers no row has no element q = 0, and this is 0 (DESIGN CHOICE, log 99). -/
def okAddr (r : Nat) (rows : List (List Int)) (t : Tag) : Nat :=
  match tagBlocks t with
  | [] => 0
  | b :: _ =>
    if copyIsBox t.op then coordAddr r (blkOrigin b)
    else if t.op = 0x1A9 then
      match rows.headD [] with
      | [] => 0
      | y :: _ => coordAddr r [sInt 32 (blkWord b 3), y]
    else blkPair b 0 % 2 ^ 57

/-- The record of a copy that uses one: its bits, or the fault of a fill. -/
def copyUse (s : State) (g c : Nat) (t : Tag) : State × Except (Nat × Nat) Nat :=
  if copyIsBox t.op ∨ t.op = 0x1A9 then
    if t.record % 64 ≠ 0 then (s, .ok 0) else recordUse s g c t.record
  else (s, .ok 0)

/-- The rules of CPYG on its record's shape and size and on its index lists, in order (R391). -/
def gatherFail (rcd r : Nat) (bs : List (List Word)) : Option (Option Nat) :=
  if shRank r != 2 || shBox r 1 != 1 then some none
  else bs.findSome? fun b =>
    if 1048576 < shElem r * shBox r 0 * blkWord b 1 then some none
    else if listOk rcd b then none else some (some (blkWord b 0))

/-- The checks of a start in order (R389): how it fails, if it does. The bounds of `CPYG` under REFUSE need its index list and a
record of two dimensions: where there is no such list or record there are none to check, and the last check fails (DEDUCED from
R391). -/
def startFail (fo : Folio) (t : Tag) (r : Nat) (rows : List (List Int)) : Option CopyEnd :=
  let bs := tagBlocks t
  let rec_ := copyIsBox t.op || t.op = 0x1A9
  let shape : CopyEnd := { status := 1, fault := 0x1A, reason := 0, addr := t.record % 2 ^ 57, bytes := 0 }
  let refuse (x : Nat) : CopyEnd := { status := 2, fault := 0, reason := 0, addr := x, bytes := 0 }
  let range (x : Nat) : CopyEnd := { status := 1, fault := 0x11, reason := 8, addr := x, bytes := 0 }
  let badRec := rec_ && (!shapeOk t.record r || (copyIsBox t.op && t.slices.any fun z => z.nc != shRank r))
  let gathered := (rows.zip bs).findSome? fun e =>
    ((gatherCoords r e.1 (sInt 32 (blkWord e.2 3))).find? fun xs => (elemAddr r xs).isNone).map fun xs => coordAddr r xs
  let bounds := if shBounds r ≠ 1 then none
    else if copyIsBox t.op then bs.findSome? fun b => refuseBox r (blkOrigin b)
    else if t.op = 0x1A9 ∧ shRank r = 2 then gathered
    else none
  if badRec then some shape
  else
    match bounds, bs.findSome? (blockOut t.op fo.rcd r t.mask) with
    | some x, _ => some (refuse x)
    | none, some x => some (range x)
    | none, none =>
      if (t.op = 0x1A7 ∨ t.op = 0x1A8) ∧ shFmt r = 4 then some shape
      else if t.op = 0x1A9 then
        (gatherFail fo.rcd r bs).map fun e => match e with
          | some x => range x
          | none => shape
      else none

/-- The moves of a copy in order (R162, R389 to R391). -/
def copyMoves (fo : Folio) (t : Tag) (r : Nat) (rows : List (List Int)) : List CopyMove :=
  let rc := relCore (some fo) t.core
  let shares := (bitList t.mask 16).map fun c => (c, c * shareBytes fo.rcd)
  (tagBlocks t).zipIdx.flatMap fun b =>
    if copyIsBox t.op then boxMoves t.op r rc shares b.1
    else if t.op = 0x1A9 then gatherMoves r rc (rows.getD b.2 []) b.1
    else plainMoves t.op rc b.1

/-- Whether a copy kind writes to a peer (R392). -/
def peerKind (op : Nat) : Bool := op = 0x1A5 || op = 0x1A6 || op = 0x1A8

/-- The PEER of the page at an address that the gathering's TLB holds (R30). -/
def pagePeer (s : State) (g c va : Nat) : Option Nat :=
  (tlbLookup s { core := none, gath := some g } c va).map fun e => bitsOf e.leaf.toNat 61 52

/-- Translate one memory side: a fault, or the peer kinds' BAD_TARGET (R392). -/
def sideFault (s : State) (g c : Nat) (t : Tag) (k : XKind) (x : Side) : State × Option (Nat × Nat) :=
  match x with
  | .mem va _ =>
    match xlate s { core := none, gath := some g } c va k with
    | (s1, .error e) =>
      -- a page of another peer is no target, whether that peer can be reached or not (R392)
      (s1, some (va, if e = 0x0B ∧ peerKind t.op ∧ k ≠ .read ∧ pagePeer s1 g c va ≠ some t.peer then 6 else e))
    | (s1, .ok p) =>
      if peerKind t.op ∧ k ≠ .read ∧ !(isPeer p.loc && peerOf p.loc == t.peer) then (s1, some (va, 6)) else (s1, none)
  | _ => (s, none)

/-- Translate what is left of a move: its source, until its value is bound, and its destinations. -/
def moveFault (s : State) (g c : Nat) (t : Tag) (m : CopyMove) : State × Option (Nat × Nat) :=
  match (if m.val.isSome then (s, none) else sideFault s g c t .read m.src) with
  | (s1, some e) => (s1, some e)
  | (s1, none) =>
    m.dst.foldl (fun r d => match r.2 with
                            | some _ => r
                            | none => sideFault r.1 g c t (if m.add.isSome then .atomic else .write) d.2) (s1, none)

/-- Translate every memory side of the moves, first fault first. -/
def movesFault (g c : Nat) (t : Tag) : List CopyMove → State → State × Option (Nat × Nat)
  | [], s => (s, none)
  | m :: ms, s =>
    match moveFault s g c t m with
    | (s1, some e) => (s1, some e)
    | (s1, none) => movesFault g c t ms s1

/-- Read one side (R122): by plain address as a route 0 read of the gathering, through a record on route 3; an NC page at its home,
the host or the peer (R14). -/
def sideRead (s : State) (g c fo : Nat) (x : Side) (n : Nat) : State × Nat :=
  match x with
  | .fill v => (s, v)
  | .scr o => let s1 := scratchFill s fo o; (s1, bytesVal (scratchRead s1 fo o n))
  | .mem va tile =>
    match xlate s { core := none, gath := some g } c va .read with
    | (s1, .error _) => (s1, 0)
    | (s1, .ok p) =>
      if tile then tileRead s1 g p n
      else if p.nc then let s2 := prepareNc s1 (some g) p.key p.loc n; (s2, bytesVal (readBytes s2 (some g) p.key p.loc n))
      else let s2 := prepareSpan s1 (some g) p.key p.loc n; (s2, bytesVal (readBytes s2 (some g) p.key p.loc n))

/-- Write one side (R122, R160, R161). A plain write is a route 0 store of the gathering; one through a record is a route 3 write,
performed at the home, before which the gathering's own copy goes (R69); a write to an NC page is made as R106 says, and one to a
peer by `CPYP` or `CPYRD` is a posted write, which adds, where it does, as one atomic at its home (R122, R161). An addition on this
device is performed at its home at once: its source may have been read long before. -/
def sideWrite (s : State) (g c fo : Nat) (t : Tag) (n : Nat) (add : Option Nat) (v : Nat) (x : Side) : State :=
  match x with
  | .fill _ => s
  | .scr o => scratchWrite (scratchFill s fo o) fo o (bytesOf n v)
  | .mem va tile =>
    match xlate s { core := none, gath := some g } c va (if add.isSome then .atomic else .write) with
    | (s1, .error _) => s1
    | (s1, .ok p) =>
      let s2 := if tile then settleTile (dropOwn s1 g (lineOf p.loc)) g (lineOf p.loc) else s1
      let by_ : Poster := { ctx := c, route := if tile then 3 else 0, who := none, add := add }
      match add with
      | some fmt =>
        if peerKind t.op then postWrite s2 g p.key p.loc (bytesOf n v) by_
        else
          let s3 := prepareNc s2 none p.key p.loc n
          homeWrite s3 p.key p.loc (bytesOf n (reduceAdd fmt (bytesVal (readBytes s3 none p.key p.loc n)) v))
      | none =>
        if p.nc then ncWrite s2 g p.key p.loc (bytesOf n v) by_
        else if peerKind t.op then postWrite s2 g p.key p.loc (bytesOf n v) by_
        else if tile then homeWrite s2 p.key p.loc (bytesOf n v)
        else enterBytes s2 g none c p.key p.loc (bytesOf n v)

/-- The lines that a write of one side enters. -/
def sideLines (s : State) (g c n : Nat) (x : Side) : List Nat :=
  match x with
  | .mem va _ =>
    match (xlate s { core := none, gath := some g } c va .write).2 with
    | .ok p => spanLines p.loc n
    | .error _ => []
  | _ => []

/-- Bytes counted for a core. -/
def addWrote (l : List (Nat × Nat)) (core n : Nat) : List (Nat × Nat) :=
  if n = 0 then l else (core, ((l.find? fun e => e.1 == core).map (·.2)).getD 0 + n) :: l.filter fun e => e.1 != core

/-- Bytes written for a core. -/
def wroteTo (l : List (Nat × Nat)) (core : Nat) : Nat := ((l.find? fun e => e.1 == core).map (·.2)).getD 0

/-- The progress of a copy. -/
def Tag.going (t : Tag) : CopyProg := t.prog.getD { addr := 0, size := 0, left := [], wrote := [], lines := [], arrived := [] }

/-- Change a tag of a folio. -/
def setTag (s : State) (fo core num : Nat) (f : Tag → Tag) : State :=
  s.setFolio fo fun x => { x with tags := updWhere (fun y => y.core == core && y.num == num) f x.tags }

/-- Change the progress of a tag's copy. -/
def setProg (s : State) (fo : Nat) (t : Tag) (f : CopyProg → CopyProg) : State :=
  setTag s fo t.core t.num fun y => { y with prog := y.prog.map f }

/-- A move's source is read, once (R126). -/
def readMove (s : State) (g c fo : Nat) (m : CopyMove) : State × CopyMove :=
  if m.val.isSome then (s, m) else let r := sideRead s g c fo m.src m.n; (r.1, { m with val := some r.2 })

/-- What some moves have done: the state, and the progress. -/
abbrev Done := State × CopyProg

/-- One destination of a move is written (R122, R126). -/
def writeDst (g c fo : Nat) (t : Tag) (m : CopyMove) (x : Done) (d : Nat × Side) : Done :=
  let v := m.val.getD 0
  (sideWrite x.1 g c fo t m.n m.add v d.2,
    { x.2 with wrote := addWrote x.2.wrote d.1 m.n, lines := (sideLines x.1 g c m.n d.2 ++ x.2.lines).dedup })

/-- Make the moves that are left, in order. -/
def runMoves (g c fo : Nat) (t : Tag) (x : Done) : Done :=
  let y := x.2.left.foldl (fun x m =>
    let r := readMove x.1 g c fo m
    r.2.dst.foldl (writeDst g c fo t r.2) (r.1, x.2)) x
  (y.1, { y.2 with left := [] })

/-- A place i bytes on. -/
def sideAt (x : Side) (i : Nat) : Side :=
  match x with
  | .fill v => .fill v
  | .scr o => .scr (o + i)
  | .mem va tile => .mem (va + i) tile

/-- Some of the bytes of one move reach a destination, each or none by a free choice (R152); an added element comes whole. The
bytes written are counted for its core. -/
def someBytes (g c fo : Nat) (t : Tag) (m : CopyMove) (x : Done) (d : Nat × Side) : Done :=
  match m.add with
  | some _ =>
    let z := x.1.choose
    if z.1 then writeDst g c fo t m (z.2, x.2) d else (z.2, x.2)
  | none =>
    (List.range m.n).foldl (fun x i =>
      let z := x.1.choose
      if z.1 then writeDst g c fo t { m with n := 1, val := some (m.val.getD 0 / 256 ^ i % 256) } (z.2, x.2) (d.1, sideAt d.2 i)
      else (z.2, x.2)) x

/-- What a copy that ends on a fault has written of the moves that are left: any set of the bytes of those that meet no fault
(R123, R152). In a deterministic launch the moves are made in order, and those before the first that meets a fault have been
(R192; DESIGN CHOICE, log 2). -/
def someMoves (g c fo : Nat) (det : Bool) (t : Tag) (x : Done) : Done :=
  let y := x.2.left.foldl (fun (y : Done × Bool) m =>
    if y.2 then y
    else
      match moveFault y.1.1 g c t m with
      | (s1, some _) => ((s1, y.1.2), det)
      | (s1, none) =>
        let r := readMove s1 g c fo m
        (r.2.dst.foldl (if det then writeDst g c fo t r.2 else someBytes g c fo t r.2) (r.1, y.1.2), false)) (x, false)
  (y.1.1, { y.1.2 with left := [] })

/-- A completion record (R152). -/
def copyRecordBits (rc : Nat) (t : Tag) (e : CopyEnd) (cores : Nat) : Nat :=
  e.addr % 2 ^ 57 * 2 ^ 71 + (if e.status = 0 then e.bytes * cores else e.bytes) % 2 ^ 32 * 2 ^ 32 + rc * 2 ^ 28 + t.num * 2 ^ 22
    + e.reason % 64 * 2 ^ 16 + e.fault * 2 ^ 8 + e.status

/-- Write the completion record (R151): a fault drops it with an error record, whose ADDR is the generic address of the record, as no
physical one was found (DESIGN CHOICE, log 100). -/
def putCompletion (s : State) (g : Nat) (fo : Folio) (bits : Nat) : State :=
  let k := rcRingSize fo.rcd
  if k = 0 then s
  else
    let va := rcRingBase fo.rcd + 16 * (fo.ringN % 2 ^ k)
    let r := agentWrite s { core := none, gath := some g } fo.ctx va (bytesOf 16 bits)
    let s1 := match r.2 with
              | none => r.1
              | some _ => errorRecord r.1 (errorMaster r.1 (some fo.ctx)) 6 0xFF g (some fo.ctx) va
    s1.setFolio fo.id fun x => { x with ringN := x.ringN + 1 }

/-- A copy's arrival on a core's instance is at a barrier of class Device or wider (R123). -/
def wideAt (fo : Folio) (t : Tag) (c : Nat) : Bool :=
  (t.bar.bind fun num => barFind (some fo) num c).elim false fun b => b.core.isNone && decide (1 < (folioGaths fo).length)

/-- The writes that a copy has made are performed (R123). -/
def performCopy (s : State) (g : Nat) (p : CopyProg) : State :=
  flushPosted (p.lines.foldl (fun s l => performLine s g l) s) fun m => m.src == g && p.lines.contains m.line

/-- One arrival of a copy, on the instance of a core (R154, R126). -/
def arriveOne (s : State) (fo : Folio) (t : Tag) (e : CopyEnd) (wrote : List (Nat × Nat)) (c : Nat) : State :=
  match t.bar.bind fun num => barFind (s.folio fo.id) num c with
  | some b =>
    setBar s fo.id b fun x =>
      completePhase { x with pend := x.pend - 1
                             got := x.got + (if e.status = 0 then e.bytes else if e.status = 1 then wroteTo wrote c else 0)
                             err := x.err || e.status != 0 }
  | none => s

/-- A copy ends (R123, R151, R154): its writes are performed where its kind or its barrier's class asks for it, the record is
written, it makes the arrivals that are left, and its tag is DONE. -/
def finishCopy (s : State) (core : Nat) (fo : Folio) (t : Tag) (p : CopyProg) (e : CopyEnd) : State :=
  let g := gathOf core
  let rc := relCore (some fo) core
  let cores := copyCores t.op t.mask rc
  let s1 := if peerKind t.op || t.op = 0x1A7 || cores.any (wideAt fo t) then performCopy s g p else s
  let s2 := putCompletion s1 g fo (copyRecordBits rc t e cores.length)
  let s3 := (cores.filter fun c => !p.arrived.contains c).foldl (fun s c => arriveOne s fo t e p.wrote c) s2
  setTag s3 fo.id core t.num fun y =>
    { y with st := .done, lstat := e.status, slices := [], started := none, paused := false, match_ := true, prog := none
             rows := [] }

/-- A running copy that a tag event names. -/
def runningCopy (s : State) (core tag : Nat) : Option (Folio × Tag) :=
  (s.folio (tag / 64)).bind fun f =>
    (f.tags.find? fun t => t.core == core && t.num == tag % 64 && t.st == .running && !t.paused).map fun t => (f, t)

/-- A copy is earlier in the order of last slices (R147). -/
def copyBefore (x y : Tag) : Bool :=
  let k (t : Tag) : Nat := t.started.getD 0 * 65536 + t.core * 64 + t.num
  k x < k y

/-- A copy is among the 16 of its gathering that move data at once: those of the earliest last slices that are not paused (R147). -/
def copyMoving (s : State) (core : Nat) (t : Tag) : Bool :=
  let before := s.folios.flatMap fun f => f.tags.filter fun y =>
    y.st == .running && !y.paused && y.match_ && gathOf y.core == gathOf core && copyBefore y t
  before.length < 16

/-- A copy ends on a fault at an address (R123, R152, R166): a set of the bytes that were left has been written. -/
def copyFails (s : State) (core : Nat) (fo : Folio) (t : Tag) (va r : Nat) : State :=
  let z := someMoves (gathOf core) fo.ctx fo.id (rcDet fo.rcd) t (s, t.going)
  finishCopy z.1 core fo t z.2
    { status := 1, fault := reasonTrap r, reason := r, addr := va, bytes := z.2.wrote.foldl (fun n e => n + e.2) 0 }

/-- A copy meets a fault: one on a page that is not valid pauses it (R166). -/
def copyFault (s : State) (core : Nat) (fo : Folio) (t : Tag) (va r : Nat) (route : Nat) : State :=
  let s1 := faultRecord s fo.ctx (whoEngine (gathOf core)) va r 4 route (r == 0)
  if r = 0 then setTag s1 fo.id core t.num fun y => { y with paused := true } else copyFails s1 core fo t va r

/-- A copy that fails at its start (R389): nothing moves. -/
def copyEnds (s : State) (core : Nat) (fo : Folio) (t : Tag) (e : CopyEnd) : State := finishCopy s core fo t t.going e

/-- The checks of a copy's start (R389), made once: its record is taken, and its moves are laid out. Some of a fault, of an end, or
of nothing that stops it. -/
def copyBegin (s : State) (core : Nat) (fo : Folio) (t : Tag) : State × Option (Sum (Nat × Nat) CopyEnd) :=
  if t.prog.isSome then (s, none)
  else if t.match_ = false then (s, some (.inr { status := 3, fault := 0, reason := 0, addr := 0, bytes := 0 }))
  else
    match copyUse s (gathOf core) fo.ctx t with
    | (s1, .error e) => (s1, some (.inl e))
    | (s0, .ok r) =>
      let (s1, rows) := gatherRows s0 fo t
      match startFail fo t r rows with
      | some e => (s1, some (.inr e))
      | none =>
        let p : CopyProg := { addr := okAddr r rows t, size := copySize t r, left := copyMoves fo t r rows, wrote := [], lines := [], arrived := [] }
        (setTag s1 fo.id core t.num fun y => { y with prog := some p }, none)

/-- A running copy as it stands now. -/
def copyNow (s : State) (fo : Folio) (t : Tag) : Tag :=
  ((s.folio fo.id).bind fun f => f.tags.find? fun y => y.core == t.core && y.num == t.num).getD t

/-- The peer of a copy has gone since some of its writes left (R160). -/
def peerGone (s : State) (t : Tag) : Bool := (peerKind t.op) && t.going.wrote != [] && s.peersDown.contains t.peer

/-- What a copy does next: it moves and ends, pauses, or ends on a fault (R123, R166, R389). `onFault` says which event
asks. A copy whose peer dropped after writes had left has no faulting address: its record gives the address of an OK end (DESIGN
CHOICE, log 111). -/
def copyRun (core tag : Nat) (onFault : Bool) (s : State) : State :=
  match runningCopy s core tag with
  | none => s
  | some (fo, t) =>
    let g := gathOf core
    let shaped : Bool := copyIsBox t.op || t.op = 0x1A9
    if t.match_ ∧ !copyMoving s core t then s else
    match copyBegin s core fo t with
    | (s1, some (.inl e)) => copyFault s1 core fo t e.1 e.2 0
    | (s1, some (.inr e)) => if onFault then s1 else copyEnds s1 core fo t e
    | (s1, none) =>
      let t1 := copyNow s1 fo t
      if peerGone s1 t1 then copyFails s1 core fo t1 t1.going.addr 0x0B
      else
        match movesFault g fo.ctx t1 t1.going.left s1 with
        | (s2, some e) => copyFault s2 core fo t1 e.1 e.2 (if shaped then 3 else 0)
        | (s2, none) =>
          if onFault then s2
          else
            let z := runMoves g fo.ctx fo.id t1 (s2, t1.going)
            finishCopy z.1 core fo t1 z.2 { status := 0, fault := 0, reason := 0, addr := z.2.addr, bytes := t1.going.size }

/-- COPY_COMPLETE (R123). -/
def execCopyComplete (core tag : Nat) (s : State) : Host.Outcome State Fault Refusal := .next (copyRun core tag false s)

/-- COPY_FAULT_END: a fault that is not replayable ends the copy (R166). -/
def execCopyFaultEnd (core tag : Nat) (s : State) : Host.Outcome State Fault Refusal := .next (copyRun core tag true s)

/-- The source and the destinations of two moves name a common place. -/
def sideMeets (x y : Side) (n m : Nat) : Bool :=
  match x, y with
  | .scr a, .scr b => overlaps a n b m
  | .mem a _, .mem b _ => overlaps a n b m
  | _, _ => false

/-- A destination of a move that an earlier one has still to write: the later write stands later (R162). -/
def dstWaits (earlier : List CopyMove) (m : CopyMove) (d : Side) : Bool :=
  earlier.any fun e => e.dst.any fun x => sideMeets x.2 d e.n m.n

/-- One step of a copy that has begun, on its remaining move `i`: its source alone is read, or also one destination is written
(R122, R126). -/
def copyStep (core tag i : Nat) (dst : Option Nat) (s : State) : State :=
  match runningCopy s core tag with
  | none => s
  | some (fo, t) =>
    let g := gathOf core
    -- moves of a deterministic launch are made in order (log 2)
    if !copyMoving s core t ∨ (rcDet fo.rcd ∧ (i ≠ 0 ∨ dst.getD 0 ≠ 0)) then s else
    match copyBegin s core fo t with
    | (s1, none) =>
      let t1 := copyNow s1 fo t
      match t1.going.left[i]? with
      | none => s1
      | some m =>
        match moveFault s1 g fo.ctx t1 m with
        | (s2, some _) => s2
        | (s2, none) =>
          let r := readMove s2 g fo.ctx fo.id m
          let p1 : CopyProg := { t1.going with left := t1.going.left.set i r.2 }
          match dst.bind fun j => r.2.dst[j]? with
          | none => setProg r.1 fo.id t1 fun _ => p1
          | some d =>
            if dstWaits (t1.going.left.take i) m d.2 then setProg r.1 fo.id t1 fun _ => p1
            else
              let z := writeDst g fo.ctx fo.id t1 r.2 (r.1, p1) d
              let m1 : CopyMove := { r.2 with dst := r.2.dst.eraseIdx (dst.getD 0) }
              setProg z.1 fo.id t1 fun _ =>
                { z.2 with left := if m1.dst = [] then z.2.left.eraseIdx i else z.2.left.set i m1 }
    | (s1, some _) => s1

/-- One index word of a CPYG that has started is bound before the others (R107, R391). -/
def copyIndex (core tag block row : Nat) (s : State) : State :=
  match runningCopy s core tag with
  | none => s
  | some (fo, t) =>
    match (tagBlocks t)[block]? with
    | none => s
    | some b =>
      if t.op = 0x1A9 ∧ t.prog.isNone ∧ listOk fo.rcd b ∧ row < blkWord b 1 ∧ !(t.rows.any fun e => e.1 == block && e.2.1 == row) then
        let s1 := scratchFill s fo.id (blkWord b 0 + 4 * row)
        let v := bytesVal (scratchRead s1 fo.id (blkWord b 0 + 4 * row) 4)
        setTag s1 fo.id t.core t.num fun y => { y with rows := (block, row, v) :: y.rows }
      else s

/-- A `CPYM` arrives on one core's instance once that core's bytes are written (R126). -/
def copyArrive (core tag dest : Nat) (s : State) : State :=
  match runningCopy s core tag with
  | none => s
  | some (fo, t) =>
    let p := t.going
    if t.op = 0x1A4 ∧ t.prog.isSome ∧ (bitList t.mask 16).contains dest ∧ !p.arrived.contains dest
        ∧ !(p.left.any fun m => m.dst.any fun d => d.1 == dest) then
      let s1 := if wideAt fo t dest then performCopy s (gathOf core) p else s
      setProg (arriveOne s1 fo t { status := 0, fault := 0, reason := 0, addr := 0, bytes := p.size } p.wrote dest) fo.id t fun p =>
        { p with arrived := dest :: p.arrived }
    else s

end Sys2Proof.Machine
end

