-- ==== Sys2Proof/Machine/Convert.lean ====
section
/-! DEFINITION. Conversions between number types (R226, R232, R293, R295). -/

namespace Sys2Proof.Machine

/-- The floating format of a type code (R293). -/
def cvtFmt (ty : Nat) : Option Fmt :=
  match ty with
  | 0 => some bf16
  | 1 => some fp16
  | 2 => some e4m3
  | 3 => some e5m2
  | 6 => some fp32
  | 8 => some fp64
  | _ => none

/-- Whether FTZ applies to a type (R227). -/
def cvtFtz (ty : Nat) : Bool := ty = 0 || ty = 1 || ty = 6

/-- Width and signedness of an integer type code (R293). -/
def cvtInt (ty : Nat) : Option (Nat × Bool) :=
  match ty with
  | 5 => some (8, true)
  | 7 => some (32, true)
  | 9 => some (8, false)
  | 10 => some (32, false)
  | 11 => some (16, true)
  | 12 => some (16, false)
  | 13 => some (64, true)
  | 14 => some (64, false)
  | _ => none

/-- The exact value of a source element (R295). -/
def cvtRead (ftz : Bool) (ty x : Nat) : Fpv :=
  match cvtFmt ty, cvtInt ty with
  | some f, _ => fpRead f (flush f (ftz && cvtFtz ty) (x % 2 ^ f.width))
  | none, some (w, sgn) => ofScaled (if sgn then sInt w x else ((x % 2 ^ w : Nat) : Int)) 0 false
  | none, none => d2pRead (x % 256)

/-- StochasticRound of a magnitude (R226). -/
def stochMag (f : Fmt) (m : Nat) (e : Int) (r16 : Nat) : Nat :=
  if m = 0 then 0
  else
    let lsbMin : Int := 1 - (f.bias : Int) - f.mw
    let lsb : Int := max (e + (Nat.log2 m : Int) - f.mw) lsbMin
    let sh : Int := lsb - e
    let q0 := if sh ≤ 0 then m * 2 ^ (-sh).toNat else m / 2 ^ sh.toNat
    let frac := if sh ≤ 0 then 0 else m % 2 ^ sh.toNat * 65536 / 2 ^ sh.toNat
    let q := if r16 < frac then q0 + 1 else q0
    let b := (lsb - lsbMin).toNat * 2 ^ f.mw + q
    if f.maxFin < b then (if f.noInf then f.maxFin else f.inf) else b

/-- StochasticRound (R226). -/
def stochRound (f : Fmt) (x : Fpv) (r16 : Nat) : Nat :=
  match x with
  | .fin n m e => signed f n (stochMag f m e r16)
  | x => fpRound f 0 x

/-- SAT on an infinite result (R295). -/
def satInf (f : Fmt) (sat : Bool) (r : Nat) : Nat :=
  if sat ∧ ¬ f.noInf ∧ r % f.signBit = f.inf then r - 1 else r

/-- A floating or integer value to an integer type (R232, R295). -/
def toIntType (w : Nat) (sgn sat fromFp : Bool) (rm : Nat) (x : Fpv) : Nat :=
  let lo : Int := if sgn then -(2 ^ (w - 1) : Nat) else 0
  let hi : Int := if sgn then (2 ^ (w - 1) : Nat) - 1 else (2 ^ w : Nat) - 1
  match x with
  | .nan => 0
  | .inf n => toBits w (if n then lo else hi)
  | .fin n m e =>
    let k : Int := (intMag rm n m e : Nat)
    let v := if n then -k else k
    toBits w (if fromFp ∨ sat then satInt v lo hi else v)

/-- One element of CVT (R295): the pattern in the destination's width. -/
def cvtElem (ftz : Bool) (dt st rm : Nat) (sr : Option Nat) (sat : Bool) (x : Nat) : Nat :=
  let v := cvtRead ftz st x
  match cvtFmt dt, cvtInt dt with
  | some f, _ =>
    let r := match sr with
             | some r16 => stochRound f v r16
             | none => fpRound f rm v
    flush f (ftz && cvtFtz dt) (satInf f sat r)
  | none, some (w, sgn) => toIntType w sgn sat (cvtInt st).isNone rm v
  | none, none => d2pRound v

/-- An element as it stands in a register: `.i8` and `.i16` sign-extended, others zero-extended (R294). -/
def cvtPut (dt x : Nat) : Nat := if dt = 5 then signExt 8 32 x else if dt = 11 then signExt 16 32 x else x

end Sys2Proof.Machine
end

