-- ==== Sys2Proof/Machine/Packed.lean ====
section
/-! DEFINITION. Class 2: packed 16-bit arithmetic, conversion, packing, moves, selects and predicate logic (R292 to
R299). -/

namespace Sys2Proof.Machine

def execHadd2 (_ : Hdr) (f : Full) (s : State) : Host.Outcome State Fault Refusal :=
  aluFull f 1 1 1 0 (fun q a b _ => lanes2 16 2 (opFadd fp16 q.ftz (rnd f)) a b) s
def execHmul2 (_ : Hdr) (f : Full) (s : State) : Host.Outcome State Fault Refusal :=
  aluFull f 1 1 1 0 (fun q a b _ => lanes2 16 2 (opFmul fp16 q.ftz (rnd f)) a b) s
def execHfma2 (_ : Hdr) (f : Full) (s : State) : Host.Outcome State Fault Refusal :=
  aluFull f 1 1 1 1 (fun q a b c => lanes3 16 2 (opFfma fp16 q.ftz (rnd f)) a b c) s
def execHadd2X2 (_ : Hdr) (f : Full) (s : State) : Host.Outcome State Fault Refusal :=
  aluFull f 2 2 2 0 (fun q a b _ => lanes2 16 4 (opFadd fp16 q.ftz (rnd f)) a b) s
def execHmul2X2 (_ : Hdr) (f : Full) (s : State) : Host.Outcome State Fault Refusal :=
  aluFull f 2 2 2 0 (fun q a b _ => lanes2 16 4 (opFmul fp16 q.ftz (rnd f)) a b) s
def execHfma2X2 (_ : Hdr) (f : Full) (s : State) : Host.Outcome State Fault Refusal :=
  aluFull f 2 2 2 2 (fun q a b c => lanes3 16 4 (opFfma fp16 q.ftz (rnd f)) a b c) s
def execHadd2I (_ : Hdr) (f : Imm) (s : State) : Host.Outcome State Fault Refusal :=
  aluImm f (immPair f) (fun q a b => lanes2 16 2 (opFadd fp16 q.ftz (rndI f)) a b) s
def execHmul2I (_ : Hdr) (f : Imm) (s : State) : Host.Outcome State Fault Refusal :=
  aluImm f (immPair f) (fun q a b => lanes2 16 2 (opFmul fp16 q.ftz (rndI f)) a b) s
def execBadd2 (_ : Hdr) (f : Full) (s : State) : Host.Outcome State Fault Refusal :=
  aluFull f 1 1 1 0 (fun q a b _ => lanes2 16 2 (opFadd bf16 q.ftz (rnd f)) a b) s
def execBmul2 (_ : Hdr) (f : Full) (s : State) : Host.Outcome State Fault Refusal :=
  aluFull f 1 1 1 0 (fun q a b _ => lanes2 16 2 (opFmul bf16 q.ftz (rnd f)) a b) s
def execBfma2 (_ : Hdr) (f : Full) (s : State) : Host.Outcome State Fault Refusal :=
  aluFull f 1 1 1 1 (fun q a b c => lanes3 16 2 (opFfma bf16 q.ftz (rnd f)) a b c) s
def execBadd2X2 (_ : Hdr) (f : Full) (s : State) : Host.Outcome State Fault Refusal :=
  aluFull f 2 2 2 0 (fun q a b _ => lanes2 16 4 (opFadd bf16 q.ftz (rnd f)) a b) s
def execBmul2X2 (_ : Hdr) (f : Full) (s : State) : Host.Outcome State Fault Refusal :=
  aluFull f 2 2 2 0 (fun q a b _ => lanes2 16 4 (opFmul bf16 q.ftz (rnd f)) a b) s
def execBfma2X2 (_ : Hdr) (f : Full) (s : State) : Host.Outcome State Fault Refusal :=
  aluFull f 2 2 2 2 (fun q a b c => lanes3 16 4 (opFfma bf16 q.ftz (rnd f)) a b c) s
def execBadd2I (_ : Hdr) (f : Imm) (s : State) : Host.Outcome State Fault Refusal :=
  aluImm f (immPair f) (fun q a b => lanes2 16 2 (opFadd bf16 q.ftz (rndI f)) a b) s
def execBmul2I (_ : Hdr) (f : Imm) (s : State) : Host.Outcome State Fault Refusal :=
  aluImm f (immPair f) (fun q a b => lanes2 16 2 (opFmul bf16 q.ftz (rndI f)) a b) s
/-- The element format of HMIN2 and HMAX2 (R292). -/
def minFmt (f : Full) : Fmt := if clsBit f 2 then bf16 else fp16

def execHmin2 (_ : Hdr) (f : Full) (s : State) : Host.Outcome State Fault Refusal :=
  aluFull f 1 1 1 0 (fun q a b _ => lanes2 16 2 (opFpick (minFmt f) false false q.ftz) a b) s
def execHmax2 (_ : Hdr) (f : Full) (s : State) : Host.Outcome State Fault Refusal :=
  aluFull f 1 1 1 0 (fun q a b _ => lanes2 16 2 (opFpick (minFmt f) true false q.ftz) a b) s
def execHmin2X2 (_ : Hdr) (f : Full) (s : State) : Host.Outcome State Fault Refusal :=
  aluFull f 2 2 2 0 (fun q a b _ => lanes2 16 4 (opFpick (minFmt f) false false q.ftz) a b) s
def execHmax2X2 (_ : Hdr) (f : Full) (s : State) : Host.Outcome State Fault Refusal :=
  aluFull f 2 2 2 0 (fun q a b _ => lanes2 16 4 (opFpick (minFmt f) true false q.ftz) a b) s
def execFcmpF16 (_ : Hdr) (f : Full) (s : State) : Host.Outcome State Fault Refusal :=
  prdFull f 1 1 (fun q a b => lanesCmp fp16 16 2 q.ftz f.cls.toNat a b) s
def execFcmpBf16 (_ : Hdr) (f : Full) (s : State) : Host.Outcome State Fault Refusal :=
  prdFull f 1 1 (fun q a b => lanesCmp bf16 16 2 q.ftz f.cls.toNat a b) s
/-- One element of a CVT word: dt and st stand in the B field, the random bits of element i in R (R294, R295). -/
def cvtWord (f : Full) (q : Quire) (r i x : Nat) : Nat :=
  cvtElem q.ftz (f.b.toNat / 16) (f.b.toNat % 16) (rnd f)
    (if clsBit f 2 then some (r / 65536 ^ i % 65536) else none) (clsBit f 3) x
/-- Registers of a type. -/
def tyRegs (ty : Nat) : Nat := if cvtWidth ty = 64 then 2 else 1
def execCvt1 (_ : Hdr) (f : Full) (s : State) : Host.Outcome State Fault Refusal :=
  aluFull f (tyRegs (f.b.toNat / 16)) (tyRegs (f.b.toNat % 16)) 0 (if clsBit f 2 then 1 else 0)
    (fun q a _ c => cvtPut (f.b.toNat / 16) (cvtWord f q c 0 a)) s
/-- Elements packed into one register (forms 2 and 4). -/
def cvtPack (f : Full) (q : Quire) (n a c : Nat) : Nat :=
  (List.range n).foldl
    (fun x i => x + cvtWord f q c i (a / 2 ^ (32 * i) % 2 ^ 32) * 2 ^ (cvtWidth (f.b.toNat / 16) * i)) 0
def execCvt2 (_ : Hdr) (f : Full) (s : State) : Host.Outcome State Fault Refusal :=
  aluFull f 1 2 0 (if clsBit f 2 then 1 else 0) (fun q a _ c => cvtPack f q 2 a c) s
def execCvt4 (_ : Hdr) (f : Full) (s : State) : Host.Outcome State Fault Refusal :=
  aluFull f 1 4 0 (if clsBit f 2 then 2 else 0) (fun q a _ c => cvtPack f q 4 a c) s
/-- Elements of one register widened into several (forms 2w and 4w). -/
def cvtWiden (f : Full) (q : Quire) (n a : Nat) : Nat :=
  (List.range n).foldl
    (fun x i =>
      x + cvtWord f q 0 i (a / 2 ^ (cvtWidth (f.b.toNat % 16) * i) % 2 ^ cvtWidth (f.b.toNat % 16)) * 2 ^ (32 * i)) 0
def execCvt2w (_ : Hdr) (f : Full) (s : State) : Host.Outcome State Fault Refusal :=
  aluFull f 2 1 0 0 (fun q a _ _ => cvtWiden f q 2 a) s
def execCvt4w (_ : Hdr) (f : Full) (s : State) : Host.Outcome State Fault Refusal :=
  aluFull f 4 1 0 0 (fun q a _ _ => cvtWiden f q 4 a) s
def execPack (_ : Hdr) (f : Full) (s : State) : Host.Outcome State Fault Refusal :=
  aluFull f 1 1 1 0 (fun _ a b _ => b % 65536 * 65536 + a % 65536) s
def execPackB8 (_ : Hdr) (f : Full) (s : State) : Host.Outcome State Fault Refusal :=
  aluFull f 1 4 0 0 (fun _ a _ _ =>
    (List.range 4).foldl (fun x i => x + a / 2 ^ (32 * i) % 256 * 256 ^ i) 0) s
/-- Elements of `w` bits of A, each extended to a register (R296). -/
def opUnpk (sgn : Bool) (w n a : Nat) : Nat :=
  (List.range n).foldl
    (fun x i => x + (if sgn then signExt w 32 (a / 2 ^ (w * i)) else a / 2 ^ (w * i) % 2 ^ w) * 2 ^ (32 * i)) 0
def execUnpk (_ : Hdr) (f : Full) (s : State) : Host.Outcome State Fault Refusal :=
  aluFull f 2 1 0 0 (fun _ a _ _ => opUnpk (clsBit f 0) 16 2 a) s
def execUnpkB8 (_ : Hdr) (f : Full) (s : State) : Host.Outcome State Fault Refusal :=
  aluFull f 4 1 0 0 (fun _ a _ _ => opUnpk (clsBit f 0) 8 4 a) s
def execMov (_ : Hdr) (f : Full) (s : State) : Host.Outcome State Fault Refusal :=
  aluFull f 1 1 0 0 (fun _ a _ _ => a) s
def execMov2 (_ : Hdr) (f : Full) (s : State) : Host.Outcome State Fault Refusal :=
  aluFull f 2 2 0 0 (fun _ a _ _ => a) s
def execMov4 (_ : Hdr) (f : Full) (s : State) : Host.Outcome State Fault Refusal :=
  aluFull f 4 4 0 0 (fun _ a _ _ => a) s
def execLdiV (_ : Hdr) (f : Ldi) (s : State) : Host.Outcome State Fault Refusal :=
  aluWord false f.d.toNat 1 (fun _ _ _ => f.imm.toNat) s
def execLdiS (_ : Hdr) (f : Ldi) (s : State) : Host.Outcome State Fault Refusal :=
  aluWord true f.d.toNat 1 (fun _ _ _ => f.imm.toNat) s
def execSel (_ : Hdr) (f : Full) (s : State) : Host.Outcome State Fault Refusal :=
  aluWord f.u f.d.toNat 1
    (fun q cur t =>
      if predOf q cur f.u t (f.c.toNat % 16) != clsBit f 0 then block q cur f.sa t f.a.toNat 1
      else block q cur f.sb t f.b.toNat 1) s
def execSelI (_ : Hdr) (f : Imm) (s : State) : Host.Outcome State Fault Refusal :=
  aluWord f.u f.d.toNat 1
    (fun q cur t =>
      if predOf q cur f.u t (f.clb.toNat % 16) != clbBit f 4 then block q cur f.sa t f.a.toNat 1 else immInt f) s
/-- Three predicates through a table (R298). -/
def plopWord (u : Bool) (f : Full) (s : State) : Host.Outcome State Fault Refusal :=
  prdWord u f.d.toNat
    (fun q cur t =>
      [f.c.toNat.testBit (4 * bit (predOf q cur u t (f.a.toNat % 16)) + 2 * bit (predOf q cur u t (f.b.toNat % 16))
        + bit (predOf q cur u t (f.b.toNat / 16)))]) s
def execPlop (_ : Hdr) (f : Full) (s : State) : Host.Outcome State Fault Refusal := plopWord false f s
def execPlopQ (_ : Hdr) (f : Full) (s : State) : Host.Outcome State Fault Refusal := plopWord true f s
/-- Register bits to the predicates of a mask (R299). -/
def v2pWord (u : Bool) (mask : Nat) (f : Full) (s : State) : Host.Outcome State Fault Refusal :=
  match s.active with
  | none => .next s
  | some cur =>
    .next (forThreads s cur (actors cur u) fun q0 t q =>
      (bitList mask 16).foldl
        (fun q n => q.putPred u t n ((block q0 cur u t f.a.toNat 1).testBit n)) q)
def execV2p (_ : Hdr) (f : Full) (s : State) : Host.Outcome State Fault Refusal :=
  v2pWord false (f.b.toNat + 256 * f.c.toNat) f s
def execV2pQ (_ : Hdr) (f : Full) (s : State) : Host.Outcome State Fault Refusal := v2pWord true f.b.toNat f s
def execP2v (_ : Hdr) (f : Full) (s : State) : Host.Outcome State Fault Refusal :=
  aluWord false f.d.toNat 1
    (fun q cur t => bitMask ((List.range 16).filter fun n => predOf q cur false t n)) s
def execP2vQ (_ : Hdr) (f : Full) (s : State) : Host.Outcome State Fault Refusal :=
  aluWord true f.d.toNat 1
    (fun q cur t => bitMask ((List.range 8).filter fun n => predOf q cur true t n)) s
/-- A P-form opcode's function of two sources, a unary one ignoring the first (R249, R262). -/
def pairOp (o : PairOp) (ftz : Bool) (d a : Nat) : Nat :=
  match o with
  | .iadd => opIadd false false d a
  | .isub => opIsub false false d a
  | .imul => opImul false false d a
  | .iminI32 => opIpick false false d a
  | .imaxI32 => opIpick true false d a
  | .iminN32 => opIpick false true d a
  | .imaxN32 => opIpick true true d a
  | .ineg => opIneg false a
  | .iabs => opIabs false a
  | .and => d &&& a
  | .or => d ||| a
  | .xor => d ^^^ a
  | .not => 4294967295 - a
  | .shl => opShl d a
  | .shr => opShr d a
  | .sar => opSar d a
  | .rotl => opRotl d a
  | .popc => popCount 32 a
  | .clz => opClz 32 a
  | .ctz => opCtz 32 a
  | .brev => opBrev 32 a
  | .fadd => opFadd fp32 ftz 0 d a
  | .fmul => opFmul fp32 ftz 0 d a
  | .fmin => opFpick fp32 false false ftz d a
  | .fmax => opFpick fp32 true false ftz d a
  | .fminn => opFpick fp32 false true ftz d a
  | .fmaxn => opFpick fp32 true true ftz d a
  | .frnd => opFrnd fp32 ftz 0 a
  | .ffrac => opFfrac ftz a
  | .frcp => opTrans trRcp ftz a
  | .frsq => opTrans trRsq ftz a
  | .fsqrt => opTrans trSqrt ftz a
  | .fexp2 => opTrans trExp2 ftz a
  | .flog2 => opTrans trLog2 ftz a
  | .fsin => opTrans (trTrig false) ftz a
  | .fcos => opTrans (trTrig true) ftz a
  | .ftanh => opTrans trTanh ftz a
  | .hadd2 => lanes2 16 2 (opFadd fp16 ftz 0) d a
  | .hmul2 => lanes2 16 2 (opFmul fp16 ftz 0) d a
  | .hmin2 => lanes2 16 2 (opFpick fp16 false false ftz) d a
  | .hmax2 => lanes2 16 2 (opFpick fp16 true false ftz) d a
  | .badd2 => lanes2 16 2 (opFadd bf16 ftz 0) d a
  | .bmul2 => lanes2 16 2 (opFmul bf16 ftz 0) d a
  | .mov => a
  | .cvtF32F16 => cvtElem ftz 6 1 0 none false a
  | .cvtF32Bf16 => cvtElem ftz 6 0 0 none false a
  | .cvtF32I32 => cvtElem ftz 6 7 0 none false a
  | .cvtI32F32 => cvtElem ftz 7 6 0 none false a

/-- A half's guard for a thread (R249). -/
def halfOn (q : Quire) (cur : Cur) (x : Half) (t : Nat) : Bool := pReg q cur t x.guard.toNat != x.neg

/-- A half's result for a thread. -/
def halfVal (q : Quire) (cur : Cur) (x : Half) (t : Nat) : Nat :=
  pairOp x.op q.ftz (block q cur false t x.d.toNat 1) (block q cur x.as t x.a.toNat 1)

/-- The P-form word: both halves read every source before either writes (R249). -/
def execPformWord (_ : Bool) (_ : BitVec 4) (p r : Half) (s : State) : Host.Outcome State Fault Refusal :=
  match s.active with
  | none => .next s
  | some cur =>
    .next (forThreads s cur cur.act fun q0 t q =>
      let q1 := if halfOn q0 cur p t then q.putV t p.d.toNat 1 (halfVal q0 cur p t) else q
      if halfOn q0 cur r t then q1.putV t r.d.toNat 1 (halfVal q0 cur r t) else q1)

end Sys2Proof.Machine
end

