-- ==== Sys2Proof/Machine/Cross.lean ====
section
/-! DEFINITION. Class 3, cross-thread instructions: votes, shuffles, reductions, scans, matches, lane reads (R315 to
R322, R238, R239). -/

namespace Sys2Proof.Machine

/-- Write a value of `n` registers, that may depend on the thread, to each active thread. -/
def crossWord (d n : Nat) (g : Quire → Cur → Nat → Nat) (s : State) : Host.Outcome State Fault Refusal :=
  match s.active with
  | none => .next s
  | some cur => .next (forThreads s cur cur.act fun q0 t q => q.putV t d n (g q0 cur t))

/-- v(t) of a vote (R316). -/
def voteVal (f : Full) (q : Quire) (cur : Cur) (t : Nat) : Bool := pReg q cur t (f.a.toNat % 16) != clsBit f 3

/-- The result of a vote of mode `.all`, `.any` or `.uni`. -/
def voteRes (f : Full) (q : Quire) (cur : Cur) : Bool :=
  let all := cur.act.all (voteVal f q cur)
  let any := cur.act.any (voteVal f q cur)
  match f.cls.toNat % 8 with
  | 0 => all
  | 1 => any
  | _ => all || !any

/-- VOTE (R316). -/
def execVote (_ : Hdr) (f : Full) (s : State) : Host.Outcome State Fault Refusal :=
  match s.active with
  | none => .next s
  | some cur =>
    let mask (q : Quire) : Nat := bitMask (cur.act.filter (voteVal f q cur))
    if f.cls.toNat % 8 = 3 then
      if clsBit f 4 then .next (s.setQuire cur.slot fun q => q.putS f.d.toNat 2 (mask q))
      else .next (forThreads s cur cur.act fun q0 t q => q.putV t f.d.toNat 2 (mask q0))
    else if clsBit f 4 then .next (s.setQuire cur.slot fun q => q.putQ f.d.toNat (voteRes f q cur))
    else .next (forThreads s cur cur.act fun q0 t q => q.putP t f.d.toNat (voteRes f q0 cur))

/-- The source thread of SHFL (R317). -/
def shflSrc (mode seg t b : Nat) (act : List Nat) : Nat :=
  let base := t - t % seg
  let j := match mode with
           | 0 => base + b % seg
           | 1 => if t < b ∨ t - b < base then t else t - b
           | 2 => if base + seg ≤ t + b then t else t + b
           | _ => base + ((t - base) ^^^ (b % seg))
  if act.contains j then j else t

/-- SHFL (R317). -/
def execShfl (_ : Hdr) (f : Full) (s : State) : Host.Outcome State Fault Refusal :=
  crossWord f.d.toNat 1
    (fun q cur t =>
      sharedBlock q cur f.sa
        (shflSrc (f.cls.toNat % 4) (shflSeg q.w (f.cls.toNat / 4)) t (sharedBlock q cur f.sb t f.b.toNat 1) cur.act)
        f.a.toNat 1) s

/-- SHFL with an immediate (R317, R245). -/
def execShflI (_ : Hdr) (f : Imm) (s : State) : Host.Outcome State Fault Refusal :=
  crossWord f.d.toNat 1
    (fun q cur t =>
      sharedBlock q cur f.sa (shflSrc (f.clb.toNat % 4) (shflSeg q.w (f.clb.toNat / 4 % 8)) t (immInt f) cur.act) f.a.toNat 1) s

/-- Combine (R238). -/
def combine (op : Nat → Nat → Nat) : Option Nat → Option Nat → Option Nat
  | none, b => b
  | a, none => a
  | some a, some b => some (op a b)

/-- One level of the tree. -/
def treeLevel (op : Nat → Nat → Nat) : List (Option Nat) → List (Option Nat)
  | a :: b :: r => combine op a b :: treeLevel op r
  | l => l

/-- The root after `n` levels. -/
def treeRoot (op : Nat → Nat → Nat) : Nat → List (Option Nat) → Option Nat
  | 0, l => l.headD none
  | n + 1, l => treeRoot op n (treeLevel op l)

/-- The root of the tree over the leaves of threads below `lim` (R238, R239). -/
def treeOf (op : Nat → Nat → Nat) (leaf : Nat → Nat) (act : List Nat) (w lim : Nat) : Option Nat :=
  treeRoot op 6 ((List.range w).map fun t => if act.contains t ∧ t < lim then some (leaf t) else none)

/-- The integer operations of QRED and QSCAN (R318). -/
def redInt (op : Nat) (uns : Bool) (a b : Nat) : Nat :=
  match op with
  | 0 => (a + b) % 2 ^ 32
  | 1 => opIpick false uns a b
  | 2 => opIpick true uns a b
  | 3 => a &&& b
  | 4 => a ||| b
  | _ => a ^^^ b

/-- The floating operations. -/
def redFp (op rm : Nat) (ftz : Bool) (a b : Nat) : Nat :=
  match op with
  | 0 => opFadd fp32 ftz rm a b
  | 1 => opFpick fp32 false false ftz a b
  | 2 => opFpick fp32 true false ftz a b
  | 3 => opFpick fp32 false true ftz a b
  | _ => opFpick fp32 true true ftz a b

/-- The empty value of an integer operation (R319). -/
def emptyInt (op : Nat) (uns : Bool) : Nat :=
  match op with
  | 1 => if uns then 0xFFFFFFFF else 0x7FFFFFFF
  | 2 => if uns then 0 else 0x80000000
  | 3 => 0xFFFFFFFF
  | _ => 0

/-- The empty value of a floating operation (R319). -/
def emptyFp (op : Nat) : Nat :=
  match op with
  | 0 => 0
  | 1 => 0x7F800000
  | 3 => 0x7F800000
  | _ => 0xFF800000

/-- QRED (R318). -/
def execQred (_ : Hdr) (f : Full) (s : State) : Host.Outcome State Fault Refusal :=
  crossWord f.d.toNat 1
    (fun q cur _ =>
      (treeOf (redInt (f.cls.toNat % 8) (clsBit f 3)) (fun j => sharedBlock q cur f.sa j f.a.toNat 1) cur.act q.w 64).getD 0) s

/-- QRED, floating. A leaf is an operand, so FTZ applies to it (R227; DEDUCED, log 12). With one leaf no combination is
made, and a NaN leaf is returned with its own bits: R228 speaks of an operation's result, and R238 makes none here
(DEDUCED, log 103). -/
def execQredF (_ : Hdr) (f : Full) (s : State) : Host.Outcome State Fault Refusal :=
  crossWord f.d.toNat 1
    (fun q cur _ =>
      (treeOf (redFp (f.cls.toNat % 8) (f.cls.toNat / 8) q.ftz)
        (fun j => flush fp32 q.ftz (sharedBlock q cur f.sa j f.a.toNat 1)) cur.act q.w 64).getD 0) s

/-- QSCAN (R318, R239). -/
def execQscan (_ : Hdr) (f : Full) (s : State) : Host.Outcome State Fault Refusal :=
  crossWord f.d.toNat 1
    (fun q cur t =>
      (treeOf (redInt (f.cls.toNat % 8) (clsBit f 3)) (fun j => sharedBlock q cur f.sa j f.a.toNat 1) cur.act q.w
        (if f.b.toNat % 2 = 1 then t else t + 1)).getD (emptyInt (f.cls.toNat % 8) (clsBit f 3))) s

/-- QSCAN, floating; a tree of one leaf gives that leaf (log 103). -/
def execQscanF (_ : Hdr) (f : Full) (s : State) : Host.Outcome State Fault Refusal :=
  crossWord f.d.toNat 1
    (fun q cur t =>
      (treeOf (redFp (f.cls.toNat % 8) (f.cls.toNat / 8) q.ftz)
        (fun j => flush fp32 q.ftz (sharedBlock q cur f.sa j f.a.toNat 1)) cur.act q.w
        (if f.b.toNat % 2 = 1 then t else t + 1)).getD (emptyFp (f.cls.toNat % 8))) s

/-- MATCH (R320). -/
def execMatchBits (_ : Hdr) (f : Full) (s : State) : Host.Outcome State Fault Refusal :=
  crossWord f.d.toNat 2
    (fun q cur t =>
      let v (j : Nat) : Nat := sharedBlock q cur f.sa j f.a.toNat (if clsBit f 0 then 2 else 1)
      bitMask (cur.act.filter fun j => v j == v t)) s

/-- The thread that RDLANE or WRLANE names (R321, R322). -/
def laneOf (f : Full) (q : Quire) (cur : Cur) : Nat :=
  match f.cls.toNat with
  | 0 => f.b.toNat
  | 1 => block q cur true (cur.act.headD 0) f.b.toNat 1 % max 1 q.w
  | _ => cur.act.headD 0

/-- RDLANE writes one scalar (R321). The named thread need not be active; a result of its register that has not been waited on is
read as R257 has it for the thread's own reads, in a deterministic launch the value before (DEDUCED from R315, log 119). -/
def execRdlane (_ : Hdr) (f : Full) (s : State) : Host.Outcome State Fault Refusal :=
  match s.active with
  | none => .next s
  | some cur =>
    .next (s.setQuire cur.slot fun q => q.putS f.d.toNat 1 (block q cur false (laneOf f q cur) f.a.toNat 1))

/-- WRLANE writes one thread's register if that thread is active (R322). -/
def execWrlane (_ : Hdr) (f : Full) (s : State) : Host.Outcome State Fault Refusal :=
  match s.active with
  | none => .next s
  | some cur =>
    .next (s.setQuire cur.slot fun q =>
      let n := laneOf f q cur
      if cur.act.contains n then q.putV n f.d.toNat 1 (block q cur true (cur.act.headD 0) f.a.toNat 1) else q)

end Sys2Proof.Machine
end

