-- ==== Sys2Proof/Machine/Device.lean ====
section
/-! DEFINITION. Bring-up (R487, R491), resets of functions (R481), the Estex Link ports (R482 to R484), SPDM (R488), the
diagnostic window (R492) and the registers of BAR 0 (R3, R4, R37, R412, R414, R478, R489). -/

namespace Sys2Proof.Machine

/-- Boot steps 1 to 4 from step k (R487): each image is verified, then extended into its register; a failure halts boot. -/
def bootFrom (s : State) : List Nat → State
  | [] => { s with fwOk := true, boot := 1 }
  | k :: ks =>
    if Config.imageVerifies k then
      bootFrom
        { s with
          meas := s.meas.modify k fun m =>
            Config.sha512 (bytesOf 64 m.toNat ++ bytesOf 64 (Config.imageDigest k).toNat) } ks
    else s

/-- POWER_ON_RESET (R486, R491): every field takes its reset value, and boot steps 1 to 4 run. -/
def execPowerOnReset (p : Product) (s : State) : Host.Outcome State Fault Refusal :=
  .next (bootFrom { State.reset with product := p, powLimit := productLimit p, fresh := s.fresh } [0, 1, 2, 3])

/-- Installed memory by product (R12): on the bare die what training finds, at most 192 GiB. -/
def installedOf (p : Product) (bytes : Nat) : Nat :=
  match p with
  | .f1m => 192 * 2 ^ 30
  | .f1w => 96 * 2 ^ 30
  | .die => min bytes (192 * 2 ^ 30)

/-- GDDR7_TRAINING_DONE (R491 step 2): device memory is written to zero under an open key. -/
def execGddr7TrainingDone (bytes : Nat) (s : State) : Host.Outcome State Fault Refusal :=
  if s.boot ≠ 1 then .next s
  else
    .next
      { s with
        boot := 2, installed := installedOf s.product bytes
        mem := s.mem.filter fun c => !isDev c.1
        stale := s.stale.filter fun c => !isDev c.1
        keyTags := s.keyTags.filter fun e => !isDev (e.1 * 16) }

/-- HOST_LINK_TRAINED (R477, R491 steps 3 and 4). -/
def execHostLinkTrained (cache mem : Bool) (s : State) : Host.Outcome State Fault Refusal :=
  if s.boot ≠ 2 then .next s else .next { s with boot := 3, ready := true, hostCache := cache, hostMem := mem }

/-- A reset of function m (R481): its contexts die, are reclaimed without an interrupt and are unassigned; its error ring
and pending interrupts take their reset values. -/
def resetFunction (s : State) (m : Nat) : State :=
  let mine := (List.range 64).filter fun c => (s.ctx c).v && (s.ctx c).master == m
  let s1 := mine.foldl (fun s c => (reclaim c (markDead c s)).setCtx c fun x => { x with v := false }) s
  let s2 := s1.setMaster m fun _ => .initial
  if m = 0 then { s2 with spdm := { s2.spdm with sessions := [] } } else s2

/-- FUNCTION_LEVEL_RESET (R481). -/
def execFunctionLevelReset (m : Nat) (s : State) : Host.Outcome State Fault Refusal :=
  .next (if m < 32 ∧ s.boot = 3 then resetFunction s m else s)

/-- HOT_RESET_LINK_DOWN (R481): every function is reset, and the device returns to link training with READY set. -/
def execHotResetLinkDown (s : State) : Host.Outcome State Fault Refusal :=
  .next (if s.boot = 3 then { (List.range 32).foldl resetFunction s with boot := 2 } else s)

/-- A port that the product routes (R12): on the bare die those that its integrator routes, up to 96 (log 26). -/
def routedPort (p : Product) (port : Nat) : Bool :=
  match p with
  | .f1m => port < 96
  | .f1w => port < 8
  | .die => port < 96 && Config.dieRouted port

/-- A write of DEV_CTL (R478): DEVNUM is ignored while FAB_EN is 1. -/
def writeDevCtl (v : Nat) (s : State) : State :=
  { s with fabEn := v.testBit 31, devnum := if s.fabEn then s.devnum else bitsOf v 9 0 }

/-- FAB_EN_WRITE (R478, R491 step 5). -/
def execFabEnWrite (m : Nat) (v : Word) (s : State) : Host.Outcome State Fault Refusal :=
  .next (if s.ready && m == 0 then writeDevCtl v.toNat s else s)

/-- Change a port. -/
def setPort (s : State) (n : Nat) (f : Port → Port) : State := { s with ports := s.ports.modify n f }

/-- FABRIC_PORT_TRAINED (R484, R491): a peer that fails authentication never trains. -/
def execFabricPortTrained (port dev : Nat) (authentic : Bool) (s : State) : Host.Outcome State Fault Refusal :=
  if s.ready && s.fabEn && routedPort s.product port && authentic then
    .next
      { (setPort s port fun p => { p with trained := true, dev := dev % 1024, flits := 0, replays := 0, epoch := p.epoch + 1 }) with
        peersDown := s.peersDown.filter (· != dev % 1024) }
  else .next s

/-- GCM_REKEY (R484): new keys, without loss of traffic. -/
def execGcmRekey (port : Nat) (s : State) : Host.Outcome State Fault Refusal :=
  .next (setPort s port fun p => if p.trained then { p with flits := 0, epoch := p.epoch + 1 } else p)

/-- FLIT_CHECK_FAIL (R482): the flit is replayed; order on the port is kept. -/
def execFlitCheckFail (port : Nat) (s : State) : Host.Outcome State Fault Refusal :=
  .next (setPort s port fun p => if p.trained then { p with replays := p.replays + 1 } else p)

/-- PORT_REPLAY_LIMIT (R482): a flit that has been replayed 16 times without success takes the port down; a device whose
every path has gone down is lost (R104). -/
def execPortReplayLimit (port : Nat) (s : State) : Host.Outcome State Fault Refusal :=
  match s.ports[port]? with
  | none => .next s
  | some p =>
    if p.trained && decide (16 ≤ p.replays) then
      let s1 := setPort s port fun p => { p with trained := false, replays := 0 }
      let lost := ((s1.routeTab.map (·.1)).filter fun n => peerReachable s n && !peerReachable s1 n).dedup
      .next (s1.later (lost.map fun n => Move.event (.peerLinkDown n)))
    else .next s

/-- SPDM is answered once the link is trained (R488, R491); before firmware is verified only three requests are. -/
def spdmOpen (s : State) : Bool := decide (3 ≤ s.boot) && s.fwOk

/-- The mailbox's answer. -/
def answer (s : State) (bs : List Byte) : State := { s with spdm := { s.spdm with reply := bs } }

/-- GET_VERSION, GET_CAPABILITIES (R487, R488): answered even when boot has halted. -/
def execGetVersion (s : State) : Host.Outcome State Fault Refusal := .next (answer s (Config.spdmBytes 0x84 0))
def execGetCapabilities (s : State) : Host.Outcome State Fault Refusal := .next (answer s (Config.spdmBytes 0xE1 0))
/-- NEGOTIATE_ALGORITHMS, GET_DIGESTS, GET_CERTIFICATE, CHALLENGE (R488). -/
def execNegotiateAlgorithms (s : State) : Host.Outcome State Fault Refusal :=
  .next (if spdmOpen s then answer s (Config.spdmBytes 0xE3 0) else s)
def execGetDigests (s : State) : Host.Outcome State Fault Refusal :=
  .next (if spdmOpen s then answer s (Config.spdmBytes 0x81 0) else s)
def execGetCertificate (s : State) : Host.Outcome State Fault Refusal :=
  .next (if spdmOpen s then answer s (Config.spdmBytes 0x82 0) else s)
def execChallenge (nonce : Nat) (s : State) : Host.Outcome State Fault Refusal :=
  .next (if spdmOpen s then answer s (Config.spdmBytes 0x83 nonce) else s)

/-- The bytes of a measurement register. -/
def measBytes (s : State) (k : Nat) : List Byte := bytesOf 64 (((s.meas[k]?).map (·.toNat)).getD 0)

/-- A context's report (R488): CTX_OWNER, the key epoch, MEAS0 to MEAS3. -/
def ctxReport (s : State) (c : Nat) : List Byte :=
  let x := s.ctx c
  bytesOf 4 (bit x.v * 2 ^ 31 + x.master) ++ bytesOf 8 x.epoch ++ (List.range 4).flatMap (measBytes s)

/-- GET_MEASUREMENTS (R487, R488): indices 1 to 4 are MEAS0 to MEAS3, 0x10 + c a context's report signed over the nonce. -/
def execGetMeasurements (index nonce : Nat) (s : State) : Host.Outcome State Fault Refusal :=
  let sign (bs : List Byte) : State := answer s (bs ++ Config.spdmBytes (0xE0 + 256 * index) nonce)
  .next
    (if s.fwOk = false then (if index = 1 then sign (measBytes s 0) else s)
     else if 1 ≤ index ∧ index ≤ 4 then sign (measBytes s (index - 1))
     else if 0x10 ≤ index ∧ index < 0x50 then sign (ctxReport s (index - 0x10))
     else s)

/-- KEY_EXCHANGE opens a session, FINISH completes it, END_SESSION ends it (R488). -/
def execKeyExchange (nonce : Nat) (s : State) : Host.Outcome State Fault Refusal :=
  .next (if spdmOpen s then
      answer { s with spdm := { s.spdm with sessions := (s.spdm.next, false) :: s.spdm.sessions, next := s.spdm.next + 1 } }
        (Config.spdmBytes 0xE4 nonce)
    else s)

def execFinish (session : Nat) (s : State) : Host.Outcome State Fault Refusal :=
  .next (if spdmOpen s && s.spdm.sessions.any fun e => e.1 == session then
      answer { s with spdm := { s.spdm with sessions := updWhere (fun e => e.1 == session) (fun e => (e.1, true)) s.spdm.sessions } }
        (Config.spdmBytes 0xE5 session)
    else s)

def execEndSession (session : Nat) (s : State) : Host.Outcome State Fault Refusal :=
  .next (if spdmOpen s && s.spdm.sessions.any fun e => e == (session, true) then
      answer { s with spdm := { s.spdm with sessions := s.spdm.sessions.filter fun e => e.1 != session } } (Config.spdmBytes 0xEC session)
    else s)

/-- The barrier view of the instance that DIAG_BSEL names (R153, R492). -/
def barrierView (s : State) (g sel : Nat) : Nat :=
  let slot : Slot := { core := 4 * g + bitsOf sel 14 13, lane := bitsOf sel 12 7, q := bitsOf sel 6 5 }
  match s.quire slot with
  | none => 0
  | some q =>
    let fo := s.folio q.folio
    let ids := ((fo.map (·.fid)).getD 0) % 2 ^ 32 * 2 ^ 192 + q.ctx * 2 ^ 179 + 2 ^ 178
    match barFind fo (bitsOf sel 4 0) (relCore fo slot.core) with
    | none => ids
    | some b =>
      if b.v then
        ids + b.wait % 2 ^ 17 * 2 ^ 161 + bit b.lerr * 2 ^ 160 + bit b.err * 2 ^ 159 + b.ph % 2 ^ 16 * 2 ^ 143
          + b.got % 2 ^ 46 * 2 ^ 97 + b.decl % 2 ^ 46 * 2 ^ 51 + b.pend % 2 ^ 15 * 2 ^ 36 + b.arr % 2 ^ 17 * 2 ^ 19
          + b.a % 2 ^ 17 * 2 ^ 2 + bit b.core.isNone * 2 + 1
      else ids

/-- The diagnostic window is open to the management master (R492). -/
def diagOpen (s : State) (m g : Nat) : Bool := s.ready && m == 0 && decide (g < 48)

/-- A barrier view without its reserved bits, which read as zero (R4, R492). -/
def viewMask (v : Nat) : Nat := bitsOf v 223 192 * 2 ^ 192 + bitsOf v 184 0

/-- A write of DIAG_BSEL ends the snapshot (R492): what the view returns until the next read of 0x420 is a free value (log 57), but
for its reserved bits. -/
def writeBsel (g v : Nat) (s : State) : State :=
  { s.setGath g fun x => { x with bsel := v % 2 ^ 15, bview := viewMask (Config.openView s.fresh).toNat } with fresh := s.fresh + 1 }

/-- DIAG_BSEL_WRITE (R492). -/
def execDiagBselWrite (m g : Nat) (v : Word) (s : State) : Host.Outcome State Fault Refusal :=
  .next (if diagOpen s m g then writeBsel g v.toNat s else s)

/-- DIAG_BVIEW_SNAPSHOT (R492). -/
def execDiagBviewSnapshot (m g : Nat) (s : State) : Host.Outcome State Fault Refusal :=
  .next (if diagOpen s m g then s.setGath g fun x => { x with bview := barrierView s g x.bsel } else s)

/-- Put 32 bits at word k of a wider value. -/
def putWord (x k v : Nat) : Nat := setField x (32 * k + 31) (32 * k) v

/-- An entry of a table by index. -/
def tabGet {n : Nat} (l : List (Nat × BitVec n)) (i : Nat) : Nat := ((l.find? fun e => e.1 == i).map (·.2.toNat)).getD 0

/-- Write an entry of a table; an entry of zeros is not listed. -/
def tabSet {n : Nat} (l : List (Nat × BitVec n)) (i v : Nat) : List (Nat × BitVec n) :=
  (if BitVec.ofNat n v = 0 then [] else [(i, BitVec.ofNat n v)]) ++ l.filter fun e => e.1 != i

/-- An export entry without its reserved bits (R4, R485). -/
def exportMask (v : Nat) : Nat := bitsOf v 115 41 * 2 ^ 41 + bitsOf v 11 0

/-- The 64-bit registers of a context's block (R37, R199, R403, R447), as they read. -/
def ctxReg64 (x : Ctx) (off : Nat) : Nat :=
  match off with
  | 0x00 => x.ptbase.toNat
  | 0x08 => x.fqBase.toNat
  | 0x28 => x.invalVa.toNat
  | 0x40 => x.tgBase.toNat
  | 0x48 => x.ghAddr.toNat
  | 0x70 => x.capBase.toNat
  | 0x80 => x.rayBase.toNat
  | _ => 0

/-- A write of a 64-bit register of a context's block: none where the offset holds none. -/
def writeCtx64 (c off v : Nat) (s : State) : Option State :=
  match off with
  | 0x00 => some (s.setCtx c fun x => { x with ptbase := BitVec.ofNat 64 (bitsOf v 51 12 * 4096 + v % 2) })
  | 0x08 => some (writeFqBase c v s)
  | 0x28 => some (s.setCtx c fun x => { x with invalVa := BitVec.ofNat 64 (v % 2 ^ 57) })
  | 0x40 => some (s.setCtx c fun x => if x.tgEn then x else { x with tgBase := BitVec.ofNat 64 (bitsOf v 56 7 * 128) })
  | 0x48 => some (writeGhAddr c v s)
  | 0x70 => some (s.setCtx c fun x => { x with capBase := BitVec.ofNat 64 (bitsOf v 56 15 * 32768) })
  | 0x80 => some (writeRayPool c false v s)
  | _ => none

/-- A write of CTX_STATE (R409): REVIVE acts only while RECL was set. -/
def writeState (c v : Nat) (s : State) : State :=
  let s1 := if v.testBit 2 then revive c s else s
  if v.testBit 0 then markDead c s1 else s1

/-- A write of a 32-bit register of a context's block. -/
def writeCtx32 (m c off v : Nat) (s : State) : State :=
  match off with
  | 0x10 => writeFqCtl c v s
  | 0x18 => writeFqGet c v s
  | 0x20 => if v.testBit 0 then resumeGo c s else s.setCtx c fun x => { x with outPages := [] }
  | 0x30 => startInval c (v % 4) s
  | 0x50 => writeTgCtl c v s
  | 0x54 => readHead s c
  | 0x58 =>
    s.setCtx c fun x =>
      { x with nodeFail := x.nodeFail && !v.testBit 31, wdog := x.wdog && !v.testBit 30, qfull := x.qfull && !v.testBit 29
               depUnder := x.depUnder && !v.testBit 28 }
  | 0x60 => if v.testBit 0 then s.push [.event (.ctxPreemptGo m c)] else s
  | 0x64 => writeWdog c v s
  | 0x68 => writeState c v s
  | 0x6C => if v.testBit 0 then resumeTraps s c else s
  | 0x78 => s.setCtx c fun x => { x with capSize := v % 16 }
  | 0x88 => writeRayPool c true v s
  | 0x8C => s.setCtx c fun x => { x with rayFull := x.rayFull && !v.testBit 31 }
  | _ => s

/-- A write of CTX_OWNER (R478, R479). -/
def writeOwner (c v : Nat) (s : State) : State :=
  if v.testBit 31 then assignCtx c (v % 32) s
  else if (s.ctx c).v then releaseCtx c s
  else s.setCtx c fun x => { x with master := v % 32 }

/-- A 32-bit write at an offset of master m's BAR 0 outside the 64-bit registers of context blocks (R412, R414, R478,
R489, R492). -/
def write32 (m off v : Nat) (s : State) : State :=
  if 0x10000 ≤ off ∧ off < 0x14000 then
    let c := (off - 0x10000) / 0x100
    if owns s m c then
      match writeCtx64 c (off % 0x100 / 8 * 8) (putWord (ctxReg64 (s.ctx c) (off % 0x100 / 8 * 8)) (off / 4 % 2) v) s with
      | some s1 => s1
      | none => writeCtx32 m c (off % 0x100) v s
    else s
  else if off = 0x800 ∨ off = 0x804 then
    s.setMaster m fun x => { x with errBase := BitVec.ofNat 64 (bitsOf (putWord x.errBase.toNat (off / 4 % 2) v) 51 12 * 4096) }
  else if off = 0x808 then s.setMaster m fun x => { x with errFull := x.errFull && !v.testBit 31, errSize := bitsOf v 4 0 }
  else if off = 0x810 then s.setMaster m fun x => { x with errGet := BitVec.ofNat 16 v }
  else if m ≠ 0 then s
  else if 0x900 ≤ off ∧ off < 0x924 then { s with corrected := s.corrected.set ((off - 0x900) / 4) (BitVec.ofNat 32 v) }
  else if off = 0xA00 then writeDevCtl v s
  else if off = 0xA08 then { s with mstPriv := BitVec.ofNat 32 v ||| 1 }
  else if off = 0xA0C then { s with retmax := bitsOf v 21 16, powLimit := bitsOf v 15 0 }
  else if 0xA40 ≤ off ∧ off < 0xB40 then writeOwner ((off - 0xA40) / 4) v s
  else if 0x100000 ≤ off ∧ off < 0x130000 then
    if off % 0x1000 = 0x400 then writeBsel ((off - 0x100000) / 0x1000) v s else s
  else if 0x140000 ≤ off ∧ off < 0x140000 + 12 * 1024 then
    let i := (off - 0x140000) / 12
    { s with routeTab := tabSet s.routeTab i (putWord (tabGet s.routeTab i) ((off - 0x140000) / 4 % 3) v) }
  else if 0x150000 ≤ off ∧ off < 0x151000 then
    let i := (off - 0x150000) / 16
    { s with exportTab := tabSet s.exportTab i (exportMask (putWord (tabGet s.exportTab i) (off / 4 % 4) v)) }
  else s

/-- A 64-bit write: a 64-bit register takes it whole, elsewhere it is two 32-bit writes, the low one first (log 27). -/
def write64 (m off v : Nat) (s : State) : State :=
  let halves := write32 m (off + 4) (v / 2 ^ 32) (write32 m off (v % 2 ^ 32) s)
  if 0x10000 ≤ off ∧ off < 0x14000 ∧ owns s m ((off - 0x10000) / 0x100) then
    (writeCtx64 ((off - 0x10000) / 0x100) (off % 0x100) v s).getD halves
  else halves

/-- REGISTER_WRITE (R3, R4): a write of master m to its BAR 0. Until READY is set it is ignored (R491). -/
def execRegisterWrite (m off : Nat) (wide : Bool) (v : DWord) (s : State) : Host.Outcome State Fault Refusal :=
  .next
    (if s.ready = false ∨ 32 ≤ m then s
     else if wide then (if off % 8 = 0 then write64 m off v.toNat s else s)
     else if off % 4 = 0 then write32 m off (v.toNat % 2 ^ 32) s
     else s)

/-- Pages of a ray pool that hold a live block (R447). -/
def rayUsed (x : Ctx) : Nat := ((x.rayBlocks.map fun e => e.1 / 32).dedup).length

/-- Quires of a context that hold a halted thread (R401). -/
def haltQuires (s : State) (c : Nat) : Nat :=
  min 65535 (s.quires.filter fun q => q.ctx == c && q.th.any fun t => t.halt.isSome).length

/-- A 32-bit register of a context's block as it reads (R37, R199, R401, R403, R409, R447). -/
def readCtx32 (s : State) (c off : Nat) : Nat :=
  let x := s.ctx c
  match off with
  | 0x10 => bit x.fqFull * 2 ^ 31 + x.fqSize
  | 0x14 => x.fqPut.toNat
  | 0x18 => x.fqGet.toNat
  | 0x30 => bit x.invalBusy * 2 ^ 31
  | 0x50 => bit x.tgEn * 2 ^ 31 + x.tgWeight * 2 ^ 16 + x.tgQsize * 2 ^ 8 + x.tgHsize
  | 0x58 => bit x.nodeFail * 2 ^ 31 + bit x.wdog * 2 ^ 30 + bit x.qfull * 2 ^ 29 + bit x.depUnder * 2 ^ 28
  | 0x5C => x.consumed.toNat
  | 0x64 => x.wdogLimit
  | 0x68 => bit x.recl * 2 + bit x.dead
  | 0x6C => haltQuires s c * 2 ^ 16
  | 0x78 => x.capNext.toNat * 2 ^ 16 + x.capSize
  | 0x88 => x.rayPages
  | 0x8C => bit x.rayFull * 2 ^ 31 + rayUsed x
  | _ => bitsOf (ctxReg64 x (off / 8 * 8)) (32 * (off / 4 % 2) + 31) (32 * (off / 4 % 2))

/-- A mapping-table entry as it reads (R26): of WBASE bits 56:16, also for a record that fails at registration. -/
def mapBits (e : MapEntry) : Nat := e.wbase / 65536 % 2 ^ 41 * 2 ^ 81 + e.portOff * 2 ^ 32 + e.ctx * 2 ^ 20 + e.banks * 2 ^ 8 + 1

/-- DEV_STAT (R478). -/
def devStat (s : State) : Nat :=
  bit s.ready * 2 ^ 31 + bit s.fwOk * 2 ^ 30 + (match s.product with
    | .die => 0
    | .f1m => 1
    | .f1w => 2)

/-- What a 32-bit read of master m's BAR 0 returns (R37, R412, R414, R478, R489, R491, R492). A read of 0x420 of a
gathering's region is DIAG_BVIEW_SNAPSHOT first. -/
def readReg (s : State) (m off : Nat) : Nat :=
  let word (x k : Nat) : Nat := bitsOf x (32 * k + 31) (32 * k)
  let x := s.master m
  if off = 0xA04 then (if m = 0 then devStat s else 0)
  else if s.ready = false then 0
  else if 0x10000 ≤ off ∧ off < 0x14000 then
    (if owns s m ((off - 0x10000) / 0x100) then readCtx32 s ((off - 0x10000) / 0x100) (off % 0x100) else 0)
  else if off = 0x800 ∨ off = 0x804 then word x.errBase.toNat (off / 4 % 2)
  else if off = 0x808 then bit x.errFull * 2 ^ 31 + x.errLost * 2 ^ 8 + x.errSize
  else if off = 0x80C then x.errPut.toNat
  else if off = 0x810 then x.errGet.toNat
  else if m ≠ 0 then 0
  else if 0x900 ≤ off ∧ off < 0x924 then (s.corrected.getD ((off - 0x900) / 4) 0).toNat
  else if off = 0xA00 then bit s.fabEn * 2 ^ 31 + s.devnum
  else if off = 0xA08 then s.mstPriv.toNat
  else if off = 0xA0C then s.retmax * 2 ^ 16 + s.powLimit
  else if off = 0xA10 then s.extra * 2 ^ 16 + s.est
  else if 0xA40 ≤ off ∧ off < 0xB40 then
    bit (s.ctx ((off - 0xA40) / 4)).v * 2 ^ 31 + (s.ctx ((off - 0xA40) / 4)).master
  else if 0x100000 ≤ off ∧ off < 0x130000 then
    let g := s.gath ((off - 0x100000) / 0x1000)
    let o := off % 0x1000
    if o < 0x200 then ((g.maps.find? fun e => e.ix == o / 16).map fun e => word (mapBits e) (o / 4 % 4)).getD 0
    else if o = 0x400 then g.bsel
    else if 0x420 ≤ o ∧ o < 0x440 then word g.bview ((o - 0x420) / 4)
    else 0
  else if 0x140000 ≤ off ∧ off < 0x140000 + 12 * 1024 then
    word (tabGet s.routeTab ((off - 0x140000) / 12)) ((off - 0x140000) / 4 % 3)
  else if 0x150000 ≤ off ∧ off < 0x151000 then word (tabGet s.exportTab ((off - 0x150000) / 16)) (off / 4 % 4)
  else 0

end Sys2Proof.Machine
end

