-- ==== Sys2Proof/Machine/Fifo.lean ====
section
/-! DEFINITION. FPUSH and FPOP (R349 to R352, R63, R64). -/

namespace Sys2Proof.Machine

/-- The entries of a folio's FIFO k. -/
def ringOf (fo : Option Folio) (k : Nat) : List (List Word) := ((fo.bind fun f => f.fifos[k]?).map (·.ring)).getD []

/-- Change a folio's FIFO ring. -/
def setRing (s : State) (fo k : Nat) (g : List (List Word) → List (List Word)) : State :=
  s.setFolio fo fun x => { x with fifos := x.fifos.modify k fun r => { ring := g r.ring } }

/-- A quire of the folio other than this one waits in a push or pop on FIFO k, earlier than `order` (R350). -/
def fifoWaits (s : State) (q : Quire) (why : Why) (k : Nat) (order : Option Nat) : Bool :=
  s.quires.any fun x =>
    x.folio == q.folio && x.slot != q.slot && (x.wait.map fun w =>
      w.why == why && w.f.a.toNat == k && (order.map fun o => decide (w.order < o)).getD true).getD false

/-- The checks of a FIFO word at one thread (R352, R186, R433). -/
def fifoCheck (nb pop : Bool) (s : State) (q : Quire) (t : Nat) : Option Nat :=
  if nb ∧ rcDet (s.rcdOf q.slot) then some 0x20
  else if q.member t then some 0x28
  else if pop ∧ nb = false ∧ sectionOpen s q t then some 0x23
  else none

/-- The pushing half: entries in ascending thread order, after the release at `.fo` (R350, R352). -/
def pushEntries (s : State) (cur : Cur) (q : Quire) (f : Full) : State :=
  let n := fifoBytes (s.rcdOf cur.slot) / 4
  setRing (drainClass s cur.slot cur.act (waitClass (s.folioOf cur.slot) 2)) q.folio f.a.toNat
    fun l => l ++ cur.act.map fun t => wordsOf n (block q cur false t f.d.toNat n)

/-- The popping half: the oldest entries in ascending thread order (R350). -/
def popEntries (s : State) (cur : Cur) (q : Quire) (f : Full) : State :=
  let ring := ringOf (s.folio q.folio) f.a.toNat
  let s1 := setRing s q.folio f.a.toNat fun l => l.drop cur.act.length
  s1.setQuire cur.slot fun q =>
    (cur.act.zip ring).foldl (fun q e => q.setTh e.1 fun th => { th with v := putWords th.v f.d.toNat e.2 }) q

/-- The reservation can be made (R350). -/
def fifoFits (s : State) (q : Quire) (pop : Bool) (k n : Nat) (order : Option Nat) : Bool :=
  let len := (ringOf (s.folio q.folio) k).length
  !fifoWaits s q (if pop then .fpop else .fpush) k order
    && (if pop then decide (n ≤ len) else decide (len + n ≤ 32768 / fifoBytes (s.rcdOf q.slot)))

/-- A push or pop whose checks have passed: it moves, or the quire is blocked (R350); a push is a release, and a pop follows older
acquires and parked accesses (R352, R116, R406). -/
def fifoMove (pop : Bool) (f : Full) (order : Option Nat) (s : State) (cur : Cur) : State :=
  let s0 := serveQuire s cur.slot
  match s0.quire cur.slot with
  | none => s0
  | some q =>
    if cur.act = [] then s0
    else if (pop = false ∧ busyThreads q cur.act) ∨ acqWaits q cur.act ∨ parkedThreads q cur.act then againCur s0 cur
    else if fifoFits s0 q pop f.a.toNat cur.act.length order then
      (if pop then popEntries s0 cur q f else pushEntries s0 cur q f)
    else
      match order with
      | some o =>
        (blockCur s0 cur (if pop then .fpop else .fpush) (if pop then 0x149 else 0x148) f).setQuire cur.slot fun q =>
          { q with wait := q.wait.map fun w => { w with order := o } }
      | none => blockCur s0 cur (if pop then .fpop else .fpush) (if pop then 0x149 else 0x148) f

/-- A non-blocking push or pop (R351). -/
def fifoTry (pop : Bool) (f : Full) (s : State) (cur : Cur) : State :=
  let s0 := serveQuire s cur.slot
  match s0.quire cur.slot with
  | none => s0
  | some q =>
    if cur.act = [] then s0
    else if (pop = false ∧ busyThreads q cur.act) ∨ acqWaits q cur.act ∨ parkedThreads q cur.act then againCur s0 cur
    else
      let ok := fifoFits s0 q pop f.a.toNat cur.act.length none
      let s1 := if ok then (if pop then popEntries s0 cur q f else pushEntries s0 cur q f) else s0
      forThreads s1 cur cur.act fun _ t q => q.putP t (f.c.toNat % 16) ok

/-- A FIFO word with its checks. -/
def fifoWord (nb pop : Bool) (f : Full) (s : State) : Host.Outcome State Fault Refusal :=
  match s.active with
  | none => .next s
  | some cur =>
    match s.quire cur.slot with
    | none => .next s
    | some q =>
      let bad := cur.act.filterMap fun t => (fifoCheck nb pop s q t).map fun k => (⟨t, k, 0, 0⟩ : Trapped)
      let d := dropTraps s cur bad
      .next (if nb then fifoTry pop f d.1 d.2 else fifoMove pop f none d.1 d.2)

def execFpush (_ : Hdr) (f : Full) (s : State) : Host.Outcome State Fault Refusal := fifoWord false false f s
def execFpop (_ : Hdr) (f : Full) (s : State) : Host.Outcome State Fault Refusal := fifoWord false true f s
def execFpushNb (_ : Hdr) (f : Full) (s : State) : Host.Outcome State Fault Refusal := fifoWord true false f s
def execFpopNb (_ : Hdr) (f : Full) (s : State) : Host.Outcome State Fault Refusal := fifoWord true true f s

/-- FPUSH_RESERVE: a blocked push reserves when the ring has room (R350). -/
def execFpushReserve (slot : Slot) (s : State) : Host.Outcome State Fault Refusal :=
  releaseWord slot .fpush (fun w s cur => fifoMove false w.f (some w.order) s cur) s

/-- FPOP_RESERVE: a blocked pop reserves when the ring holds enough (R350). -/
def execFpopReserve (slot : Slot) (s : State) : Host.Outcome State Fault Refusal :=
  releaseWord slot .fpop (fun w s cur => fifoMove true w.f (some w.order) s cur) s

end Sys2Proof.Machine
end

