-- ==== Sys2Proof/Machine/ImageWords.lean ====
section
/-! DEFINITION. The image words (R357 to R364). -/

namespace Sys2Proof.Machine

/-- The operands of an image word: the block, and the coordinates of the quad where they are needed (R357, R359). -/
def imageArgs (op : Nat) (f : Full) (q : Quire) (cur : Cur) (t : Nat) : List Nat :=
  let dim := f.c.toNat % 8
  let reg (u i : Nat) : Nat :=
    if f.sb then block q cur true t (f.b.toNat + i) 1
    else if u = t then block q cur false t (f.b.toNat + i) 1
    else (keyVal q u true (f.b.toNat + i)).toNat
  (List.range (imgBlock op dim)).map (reg t)
    ++ (if op ∈ [0x150, 0x153, 0x159] then
          (List.range 3).flatMap fun j => (List.range (imgCoords dim)).map (reg (t / 4 * 4 + j))
        else [])

/-- An image word: an access for each active thread. -/
def imageWord (op : Nat) (f : Full) (s : State) : Host.Outcome State Fault Refusal :=
  let store := op = 0x15C ∨ op = 0x15D
  accWord op f false
    (fun _ q _ t => if store ∧ q.member t then some 0x28 else none)
    (fun q cur t =>
      newAcc t (block q cur true t f.a.toNat 2) 0 (if store then block q cur false t f.d.toNat 4 else 0)
        (imageArgs op f q cur t)) s

def execTex (_ : Hdr) (f : Full) (s : State) : Host.Outcome State Fault Refusal := imageWord 0x150 f s
def execTexL (_ : Hdr) (f : Full) (s : State) : Host.Outcome State Fault Refusal := imageWord 0x151 f s
def execTexG (_ : Hdr) (f : Full) (s : State) : Host.Outcome State Fault Refusal := imageWord 0x152 f s
def execTexC (_ : Hdr) (f : Full) (s : State) : Host.Outcome State Fault Refusal := imageWord 0x153 f s
def execTex4 (_ : Hdr) (f : Full) (s : State) : Host.Outcome State Fault Refusal := imageWord 0x154 f s
def execTld (_ : Hdr) (f : Full) (s : State) : Host.Outcome State Fault Refusal := imageWord 0x155 f s
def execTldMs (_ : Hdr) (f : Full) (s : State) : Host.Outcome State Fault Refusal := imageWord 0x156 f s
def execTqry (_ : Hdr) (f : Full) (s : State) : Host.Outcome State Fault Refusal := imageWord 0x158 f s
def execTqryLod (_ : Hdr) (f : Full) (s : State) : Host.Outcome State Fault Refusal := imageWord 0x159 f s
def execImld (_ : Hdr) (f : Full) (s : State) : Host.Outcome State Fault Refusal := imageWord 0x15A f s
def execImldRaw (_ : Hdr) (f : Full) (s : State) : Host.Outcome State Fault Refusal := imageWord 0x15B f s
def execImst (_ : Hdr) (f : Full) (s : State) : Host.Outcome State Fault Refusal := imageWord 0x15C f s
def execImstRaw (_ : Hdr) (f : Full) (s : State) : Host.Outcome State Fault Refusal := imageWord 0x15D f s

end Sys2Proof.Machine
end

