-- ==== Sys2Proof/Machine/Matrix.lean ====
section
/-! DEFINITION. The matrix words and the bench (R213, R378 to R385): their checks, entry into the bench, passes. -/

namespace Sys2Proof.Machine

/-- Where B ends in the scratchpad, and the portion of the issuing gathering (R19, R378, R380). -/
def portionOf (s : State) (slot : Slot) : Nat × Nat :=
  match s.folioOf slot with
  | none => (0, 0)
  | some f =>
    let g := (folioGaths f).length
    let z := scratchBytes f.rcd
    let j := (folioGaths f).idxOf (gathOf slot.core)
    (j * (z / max 1 g), (j + 1) * (z / max 1 g))

/-- What the checks of R380 find: a trap of the leading set, a trap of the active threads, or none. -/
inductive MatCheck where
  | ok
  | lead (code : Nat)
  | act (code : Nat)
  | range (va : Nat)
  deriving DecidableEq, Repr

/-- The scalars of the B block (R378). -/
def matBlock (op : Nat) (f : Mat) (q : Quire) (cur : Cur) : List Word :=
  (List.range ((if matGl op then 4 else 1) + (if matMmas op then 1 else 0))).map fun i =>
    sReg q cur (cur.act.headD 0) (f.sb.toNat + i)

/-- The checks of R380 after those of the encoding. R244 traps a register field beyond the count whatever the guards are, and R380 names
C only here and gives a word without an active thread no effect: such a word whose C lies beyond the count traps only where a
thread is active (DEDUCED, log 116). -/
def matCheck (s : State) (op : Nat) (f : Mat) (q : Quire) (cur : Cur) (w : Nat) (same : Bool) : MatCheck :=
  let mmas := matMmas op
  let n := matN op
  let blk := matBlock op f q cur
  let c := f.c.toNat
  let cn := rowRegs n (fmO w)
  let a := f.a.toNat
  let an := if scaleA mmas w then 9 else 8
  let off := (blk.getD 0 0).toNat
  let so := matScaleOff op blk
  let pr := portionOf s cur.slot
  if cur.act.any q.member then .act 0x28
  else if f.sf = false ∧ same = false then .act 0x18
  else if fmtOk mmas w = false then .act 0x19
  else if q.regs < c + cn ∨ q.regs < a + an ∨ overlaps c cn a an ∨ (f.sf = false ∧ overlaps c cn f.f.toNat 1) then .lead 0x02
  else if f.bv ∧ (barFind (s.folio q.folio) f.bar.toNat (relCore (s.folio q.folio) cur.slot.core)).isNone then .act 0x1C
  else if matGl op = false ∧ off % 128 ≠ 0 then .act 0x08
  else if scaleB mmas w ∧ so % 16 ≠ 0 then .act 0x08
  else if matGl op = false ∧ (off < pr.1 ∨ pr.2 < off + matK w * n * matBytes (fmB w)) then .range off
  else if scaleB mmas w ∧ (so < pr.1 ∨ pr.2 < so + 2 * n) then .range so
  else .ok

/-- Entry of a matrix word into the bench (R381, R383): a `.gl` entry that is eligible at once takes its record next (R384). -/
def matEnter (op : Nat) (f : Mat) (w : Nat) (s : State) (cur : Cur) (q : Quire) : State :=
  let mmas := matMmas op
  let latched := q.latch.filter fun l => l.a == f.a.toNat
  let rowOf (t : Nat) : List Word :=
    match latched with
    | some l => l.rows.getD t []
    | none => (List.range 8).map fun i => vReg q cur t (f.a.toNat + i)
  let scOf (t : Nat) : Nat :=
    if scaleA mmas w then
      match latched with
      | some l => if l.scales = [] then (vReg q cur t (f.a.toNat + 8)).toNat % 65536 else l.scales.getD t 0
      | none => (vReg q cur t (f.a.toNat + 8)).toNat % 65536
    else 0x3F80
  let ts := List.range q.w
  let cn := rowRegs (matN op) (fmO w)
  let bar := if f.bv then barFind (s.folio q.folio) f.bar.toNat (relCore (s.folio q.folio) cur.slot.core) else none
  let e : Bench :=
    { id := s.nextId, seq := q.seq, slot := cur.slot, op := op, f := f, pc := cur.pc, fmt := w, act := cur.act
      arow := ts.map fun t => if cur.act.contains t then rowOf t else List.replicate 8 0
      sa := ts.map fun t => if cur.act.contains t then scOf t else 0x3F80
      cin := ts.map fun t => (List.range cn).map fun i => vReg q cur t (f.c.toNat + i)
      useLatch := latched.isSome, sblk := matBlock op f q cur
      bar := bar.map fun b => (b.num, b.ph)
      eligible := if f.bv then none else some s.cycle, prio := rcPrio (s.rcdOf cur.slot), parked := false, rcd := none }
  let s1 := s.setGath (gathOf cur.slot.core) fun g => { g with bench := g.bench ++ [e] }
  let s2 := match bar with
            | some b => setBar s1 q.folio b fun x => { x with wait := x.wait + 1 }
            | none => s1
  let due : List Move := if matGl op && !f.bv then [.event (.benchEntryEligible (gathOf cur.slot.core) e.id)] else []
  { (s2.setQuire cur.slot fun q =>
      let q1 := if f.cen then ctrUp q f.csel.toNat else q
      { q1 with
        latch :=
          if f.ra then
            (if latched.isSome then latched
             else some { a := f.a.toNat, rows := ts.map rowOf, scales := if scaleA mmas w then ts.map scOf else [] })
          else none }) with
    nextId := s2.nextId + 1, agenda := due ++ s2.agenda }

/-- A matrix word (R380 to R383). -/
def matWord (op : Nat) (f : Mat) (s : State) : Host.Outcome State Fault Refusal :=
  match s.active with
  | none => .next s
  | some cur =>
    match s.quire cur.slot with
    | none => .next s
    | some q =>
      let fm (t : Nat) : Nat := if f.sf then (sReg q cur t f.f.toNat).toNat else (vReg q cur t f.f.toNat).toNat
      let w := fm (cur.act.headD 0)
      match matCheck s op f q cur w (cur.act.all fun t => fm t == w) with
      | .lead k => .next { takeTrap s cur.slot cur.pc k cur.lead 0 0 0 with cur := some { cur with act := [] } }
      | .act k => .next (dropTraps s cur (cur.act.map fun t => ⟨t, k, 0, 0⟩)).1
      | .range va =>
        .next (dropTraps (faultRecord s q.ctx (whoSlot cur.slot) va 8 0 0 false) cur
          (cur.act.map fun t => ⟨t, 0x11, 8, va⟩)).1
      | .ok =>
        let key := (f.c.toNat, matN op, matMmas op, w)
        let cont := matAcc op && openKey s q == some key
        let mine := benchOf s cur.slot
        let reads := (List.range (if scaleA (matMmas op) w then 9 else 8)).map (f.a.toNat + ·)
          ++ (if f.sf then [] else [f.f.toNat])
          ++ (if cont then [] else (List.range (rowRegs (matN op) (fmO w))).map (f.c.toNat + ·))
        if 64 ≤ (s.gath (gathOf cur.slot.core)).bench.length then .next (againCur s cur)
        else if !cont && (openKey s q).isSome then
          if mine ≠ [] then .next (againCur s cur)
          else
            let s1 := s.setQuire cur.slot closeChain
            match s1.quire cur.slot with
            | some q1 => .next (matEnter op f w s1 cur q1)
            | none => .next s1
        else if mine.any fun b => (benchC b).any reads.contains && !(cont && b.f.hc) then .next (againCur s cur)
        else .next (matEnter op f w s cur q)

/-- A bench entry's count of active octets (R173, R213). -/
def octets (b : Bench) : Nat := ((b.act.map fun t => t / 8).dedup).length

/-- An entry is the earliest of its quire (R213). -/
def firstOfQuire (l : List Bench) (b : Bench) : Bool := (l.find? fun x => x.slot == b.slot) == some b

/-- Chains held open in a gathering (R382). -/
def openChains (s : State) (g : Nat) : Nat :=
  (s.quires.filter fun q => gathOf q.slot.core == g && q.chain.isSome).length

/-- An entry opens a chain (R382). -/
def opensChain (s : State) (b : Bench) : Bool := b.f.hc && (((s.quire b.slot).map fun q => q.chain.isNone).getD false)

/-- An entry would open a chain where none is free, beside the entries of one pass (R382). -/
def chainBlocked (s : State) (g : Nat) (beside : List Bench) (b : Bench) : Bool :=
  let opened := ((beside.filter (opensChain s)).map (·.slot)).dedup
  opensChain s b && !opened.contains b.slot && 64 ≤ openChains s g + opened.length

/-- The key that a pass shares (R213). -/
def benchKey (s : State) (b : Bench) : List Nat :=
  let src := if matGl b.op then
      [1, ((s.quire b.slot).map (·.ctx)).getD 0] ++ (b.sblk.take 4).map (·.toNat)
    else [0, ((s.quire b.slot).map (·.folio)).getD 0, (b.sblk.getD 0 0).toNat]
  src ++ [b.fmt, matN b.op, matK b.fmt]

/-- The leader of the next pass (R213). -/
def passLeader (s : State) (g : Nat) : Option Bench :=
  let l := (s.gath g).bench
  let able := l.filter fun b => b.eligible.isSome && !b.parked && firstOfQuire l b && !chainBlocked s g [] b && !benchBehind s b
  let el (b : Bench) : Nat := b.eligible.getD 0
  let old := able.filter fun b => el b + 4096 ≤ s.cycle
  match old with
  | b :: bs => some (bs.foldl (fun m x => if el x < el m then x else m) b)
  | [] =>
    match able with
    | [] => none
    | b :: bs => some (bs.foldl (fun m x => if m.prio < x.prio then x else m) b)

/-- The members of a pass in order of issue, the leader among them (R213). DESIGN CHOICE, log 93: an entry that would take the
active octets past 16 is passed over, and later ones are still taken. Entries that have taken their record at different fills do
not share B (R120, DEDUCED, log 107). -/
def passMembers (s : State) (g : Nat) (lead : Bench) : List Bench :=
  let l := (s.gath g).bench
  let ms := l.foldl
    (fun (acc : List Bench) b =>
      let earlier := (l.takeWhile (· != b)).filter fun x => x.slot == b.slot
      if b != lead && b.eligible.isSome && !b.parked && benchKey s b == benchKey s lead && b.rcd == lead.rcd
          && decide (acc.foldl (fun n x => n + octets x) (octets b) ≤ 16)
          && earlier.all acc.contains && !chainBlocked s g acc b && !benchBehind s b then acc ++ [b]
      else acc) [lead]
  l.filter ms.contains

/-- Why B cannot be read: the fault of a fetch, by address, reason and route, or an invalid record (R384). -/
inductive BFail where
  | fault (va reason route : Nat)
  | shape
  deriving DecidableEq, Repr

/-- One element of a global B, on route 3 (R127): its bits, or a fault. The gathering's own route 3 writes of its line come first
(R69). -/
def readElem (s : State) (g c r : Nat) (x y : Int) : State × Except BFail Nat :=
  match elemAddr r [x, y] with
  | none => (s, .ok (shFill r))
  | some va =>
    match xlate s { core := none, gath := some g } c va .read with
    | (s1, .error e) => (s1, .error (.fault va e 3))
    | (s1, .ok p) => let z := tileRead s1 g p (shElem r); (z.1, .ok z.2)

/-- A `.gl` entry takes its record through the record cache of its gathering (R65, R120, R384), once. -/
def takeRecord (s : State) (g : Nat) (b : Bench) : State × Except BFail Nat :=
  match b.rcd, s.quire b.slot with
  | some r, _ => (s, .ok r)
  | none, none => (s, .error .shape)
  | none, some q =>
    let addr := wordsVal (b.sblk.take 2)
    if addr % 64 ≠ 0 then (s, .error .shape)
    else
      match recordUse s g q.ctx addr with
      | (s1, .error e) => (s1, .error (.fault e.1 e.2 0))
      | (s1, .ok r) =>
        (s1.setGath g fun x => { x with bench := updWhere (fun y => y.id == b.id) (fun y => { y with rcd := some r }) x.bench }, .ok r)

/-- The record of a `.gl` entry describes its B (R378, R384). -/
def glFits (b : Bench) (r : Nat) : Bool :=
  shapeOk (wordsVal (b.sblk.take 2)) r && shRank r == 2 && shFmt r == fmB b.fmt && shBox r 0 == matN b.op && shBox r 1 == matK b.fmt

/-- Element (k, j) of an entry's B, by u = N k + j (R127, R378, R384). -/
def readUnitB (s : State) (g : Nat) (b : Bench) (u : Nat) : State × Except BFail Nat :=
  let n := matN b.op
  match s.quire b.slot with
  | none => (s, .error .shape)
  | some q =>
    if matGl b.op then
      match b.rcd.filter (glFits b) with
      | none => (s, .error .shape)
      | some r =>
        readElem s g q.ctx r (sInt 32 (b.sblk.getD 2 0).toNat + (u % n : Nat)) (sInt 32 (b.sblk.getD 3 0).toNat + (u / n : Nat))
    else
      let eb := matBytes (fmB b.fmt)
      let off := (b.sblk.getD 0 0).toNat + eb * u
      let s1 := scratchFill s q.folio off
      (s1, .ok (bytesVal (scratchRead s1 q.folio off eb)))

/-- Bind the units of B that `pick` names and that are not bound, in order (R107, R127): what is bound then. -/
def bindB (s : State) (g : Nat) (b : Bench) (pick : Nat → Bool) :
    List Nat → List (Option Nat) → State × Except BFail (List (Option Nat))
  | [], _ => (s, .ok [])
  | u :: us, bound =>
    let x : State × Except BFail (Option Nat) :=
      match bound.headD none with
      | some v => (s, .ok (some v))
      | none =>
        if pick u then
          match readUnitB s g b u with
          | (s1, .error e) => (s1, .error e)
          | (s1, .ok v) => (s1, .ok (some v))
        else (s, .ok none)
    match x with
    | (s1, .error e) => (s1, .error e)
    | (s1, .ok v) =>
      match bindB s1 g b pick us bound.tail with
      | (s2, .error e) => (s2, .error e)
      | (s2, .ok l) => (s2, .ok (v :: l))

/-- Perform one entry with its B (R381). -/
def passEntry (s : State) (g : Nat) (b : Bench) (rows : List (List Nat)) : State :=
  let mmas := matMmas b.op
  let n := matN b.op
  let w := b.fmt
  match s.quire b.slot with
  | none => s
  | some q =>
    let so := matScaleOff b.op b.sblk
    let s0 := if scaleB mmas w then (spanLines so (2 * n)).foldl (fun s i => scratchFill s q.folio (128 * i)) s else s
    let sb (j : Nat) : Nat := if scaleB mmas w then bytesVal (scratchRead s0 q.folio (so + 2 * j) 2) else 0x3F80
    let cont := matAcc b.op && (q.chain.map (chainKey b.f.c.toNat n mmas w)).getD false
    let zero : List Nat := List.replicate n 0
    let col (j : Nat) : List Nat := rows.map fun r => r.getD j 0
    let start (t : Nat) : List Nat :=
      if cont then (q.chain.map fun ch => ch.held.getD t zero).getD zero
      else if matAcc b.op ∨ !(b.act.contains t) then widenRow n (fmO w) (b.cin.getD t [])
      else zero
    let row (t : Nat) : List Nat :=
      if b.act.contains t then
        let as := rowElems w (b.arow.getD t [])
        (start t).zipIdx.map fun e => sliceAdd mmas w e.1 as (col e.2) (b.sa.getD t 0x3F80) (sb e.2)
      else start t
    let was := if cont then (q.chain.map (·.touched)).getD [] else []
    let touched := (List.range q.w).filter fun t => was.contains t || b.act.contains t
    let ch : Chain :=
      { c := b.f.c.toNat, n := n, mmas := mmas, fmt := w, held := (List.range q.w).map row, touched := touched }
    let s1 := s0.setQuire b.slot fun q =>
      let q1 := { q with chain := some ch }
      -- after the last thread's exit nothing continues the chain (R382)
      let q2 := if b.f.hc && (q.notExited != [] || (benchOf s b.slot).length != 1) then q1 else closeChain q1
      if b.f.cen then ctrDown q2 b.f.csel.toNat else q2
    s1.setGath g fun x => { x with bench := x.bench.filter fun y => y.id != b.id }

/-- Remove a quire's entries from one on, without effect: counters come down, barrier waits end (R384). -/
def dropEntries (s : State) (g : Nat) (slot : Slot) (frm : Nat) : State :=
  let out := (s.gath g).bench.filter fun b => b.slot == slot && decide (frm ≤ b.id)
  let s1 := out.foldl (fun s b =>
    let s1 := s.setQuire slot fun q => if b.f.cen then ctrDown q b.f.csel.toNat else q
    match b.bar, b.eligible, s1.quire slot with
    | some (num, _), none, some q =>
      match barFind (s1.folio q.folio) num (relCore (s1.folio q.folio) slot.core) with
      | some x => setBar s1 q.folio x fun y => { y with wait := y.wait - 1 }
      | none => s1
    | _, _, _ => s1) s
  s1.setGath g fun x => { x with bench := x.bench.filter fun b => !(b.slot == slot && decide (frm ≤ b.id)) }

/-- A trap from the bench at an entry: deferred on every non-exited thread of its quire (R384, R398). -/
def benchTrap (s : State) (g : Nat) (b : Bench) (code reason va : Nat) : State :=
  (dropEntries s g b.slot b.id).setQuire b.slot fun q =>
    { q with chain := none, deferred := q.deferred ++ [(q.notExited, code, reason, va, b.pc)] }

/-- A trap from the bench at the entries of a pass (R384): one that an earlier entry of its quire has removed meets none. -/
def benchTraps (s : State) (g : Nat) (ms : List Bench) (code reason va : Nat) : State :=
  ms.foldl (fun s b => if (s.gath g).bench.any fun x => x.id == b.id then benchTrap s g b code reason va else s) s

/-- A pass's interval by formats (R385). -/
def passInterval (w : Nat) : Nat :=
  let wide (x : Nat) : Bool := x ≤ 1
  if (fmA w = 4 ∧ fmB w = 2) ∨ (fmA w = 2 ∧ fmB w = 4) then 2 else if wide (fmA w) = wide (fmB w) then 4 else 8

/-- The pass under way in a gathering, its entries in order of issue and the units of B it has bound; where there is none, the
engine starts one as soon as it can, and chooses then (R213, R385). -/
def passUnderWay (s : State) (g : Nat) : Option (State × List Bench × List (Option Nat)) :=
  let now := (s.gath g).passNow.bind fun p =>
    let ms := (s.gath g).bench.filter fun b => p.1.contains b.id
    if ms = [] then none else some (s, ms, p.2)
  now.orElse fun _ =>
    let s1 := { s with cycle := max s.cycle (s.gath g).passAt }
    (passLeader s1 g).map fun lead =>
      let ms := passMembers s1 g lead
      (s1.setGath g fun x => { x with passAt := s1.cycle + passInterval lead.fmt + s1.extra, passNow := some (ms.map (·.id), []) },
        ms, [])

/-- B of some entries, or its record, cannot be read (R42, R384): they wait for the page, or their quires trap. -/
def benchFails (s1 : State) (g : Nat) (ms : List Bench) (e : BFail) : State :=
  match e, ms with
  | .fault va r route, lead :: _ =>
    let s2 := faultRecord s1 (((s1.quire lead.slot).map (·.ctx)).getD 0) (whoEngine g) va r 5 route (r == 0)
    if r = 0 then
      s2.setGath g fun x =>
        { x with bench := updWhere (fun b => ms.any fun m => m.id == b.id) (fun b => { b with parked := true }) x.bench }
    else benchTraps s2 g ms (reasonTrap r) r va
  | _, _ => benchTraps s1 g ms 0x1A 0 0

/-- The pass under way ends with it. -/
def passFails (s : State) (g : Nat) (ms : List Bench) (e : BFail) : State :=
  benchFails (s.setGath g fun x => { x with passNow := none }) g ms e

/-- A pass binds the units of B that `pick` names; when it has bound every one its entries are performed (R107, R127, R213, R381,
R384). -/
def benchStep (s : State) (g : Nat) (pick : Nat → Bool) : State :=
  match passUnderWay s g with
  | none => s
  | some (s0, ms, bound) =>
    match ms with
    | [] => s0
    | lead :: _ =>
      match (if matGl lead.op then takeRecord s0 g lead else (s0, .ok 0)) with
      | (s1, .error e) => passFails s1 g ms e
      | (s1, .ok r) =>
        match bindB s1 g { lead with rcd := if matGl lead.op then some r else none } pick (List.range (matK lead.fmt * matN lead.op)) bound with
        | (s2, .error e) => passFails s2 g ms e
        | (s2, .ok l) =>
          if l.all (·.isSome) then
            ms.foldl (fun s b => passEntry s g b (chunks (matN lead.op) (matK lead.fmt) (l.map (·.getD 0))))
              (s2.setGath g fun x => { x with passNow := none })
          else s2.setGath g fun x => { x with passNow := some (ms.map (·.id), l) }

/-- BENCH_PASS: the engine carries a pass through (R213, R381, R384, R385). -/
def execBenchPass (g : Nat) (s : State) : Host.Outcome State Fault Refusal := .next (benchStep s g fun _ => true)

/-- An eligible `.gl` entry takes its record, unless an older acquire of its threads has still to take its value; a page of it that
is not valid makes the entry wait, and any other fault is met at the pass (R115, R384). -/
def entryTakes (s : State) (g n : Nat) : State :=
  match (s.gath g).bench.find? fun b => b.id == n with
  | none => s
  | some b =>
    if matGl b.op && b.eligible.isSome && b.rcd.isNone && !b.parked && !benchBehind s b then
      match takeRecord s g b with
      | (s1, .error (.fault va 0 route)) => benchFails s1 g [b] (.fault va 0 route)
      | (s1, .ok _) => s1
      | (_, .error _) => s
    else s

/-- BENCH_ENTRY_ELIGIBLE: the entry's barrier phase has moved, if it names one (R163), and it takes its record (R384). -/
def execBenchEntryEligible (g n : Nat) (s : State) : Host.Outcome State Fault Refusal :=
  match (s.gath g).bench.find? fun b => b.id == n with
  | none => .next s
  | some b =>
    match b.bar, b.eligible, s.quire b.slot with
    | some (num, ph), none, some q =>
      match barFind (s.folio q.folio) num (relCore (s.folio q.folio) b.slot.core) with
      | some x =>
        if x.ph = ph then .next s
        else
          .next (entryTakes ((setBar s q.folio x fun y => { y with wait := y.wait - 1 }).setGath g fun z =>
            { z with bench := updWhere (fun y => y.id == n) (fun y => { y with eligible := some s.cycle }) z.bench }) g n)
      | none => .next s
    | _, _, _ => .next (entryTakes s g n)

def execMmaN8Sp (_ : Hdr) (f : Mat) (s : State) : Host.Outcome State Fault Refusal := matWord 0x180 f s
def execMmaN16Sp (_ : Hdr) (f : Mat) (s : State) : Host.Outcome State Fault Refusal := matWord 0x181 f s
def execMmaN32Sp (_ : Hdr) (f : Mat) (s : State) : Host.Outcome State Fault Refusal := matWord 0x182 f s
def execMmaN64Sp (_ : Hdr) (f : Mat) (s : State) : Host.Outcome State Fault Refusal := matWord 0x183 f s
def execMmaN8SpAcc (_ : Hdr) (f : Mat) (s : State) : Host.Outcome State Fault Refusal := matWord 0x184 f s
def execMmaN16SpAcc (_ : Hdr) (f : Mat) (s : State) : Host.Outcome State Fault Refusal := matWord 0x185 f s
def execMmaN32SpAcc (_ : Hdr) (f : Mat) (s : State) : Host.Outcome State Fault Refusal := matWord 0x186 f s
def execMmaN64SpAcc (_ : Hdr) (f : Mat) (s : State) : Host.Outcome State Fault Refusal := matWord 0x187 f s
def execMmaN8Gl (_ : Hdr) (f : Mat) (s : State) : Host.Outcome State Fault Refusal := matWord 0x188 f s
def execMmaN16Gl (_ : Hdr) (f : Mat) (s : State) : Host.Outcome State Fault Refusal := matWord 0x189 f s
def execMmaN32Gl (_ : Hdr) (f : Mat) (s : State) : Host.Outcome State Fault Refusal := matWord 0x18A f s
def execMmaN64Gl (_ : Hdr) (f : Mat) (s : State) : Host.Outcome State Fault Refusal := matWord 0x18B f s
def execMmaN8GlAcc (_ : Hdr) (f : Mat) (s : State) : Host.Outcome State Fault Refusal := matWord 0x18C f s
def execMmaN16GlAcc (_ : Hdr) (f : Mat) (s : State) : Host.Outcome State Fault Refusal := matWord 0x18D f s
def execMmaN32GlAcc (_ : Hdr) (f : Mat) (s : State) : Host.Outcome State Fault Refusal := matWord 0x18E f s
def execMmaN64GlAcc (_ : Hdr) (f : Mat) (s : State) : Host.Outcome State Fault Refusal := matWord 0x18F f s
def execMmasN8Sp (_ : Hdr) (f : Mat) (s : State) : Host.Outcome State Fault Refusal := matWord 0x190 f s
def execMmasN16Sp (_ : Hdr) (f : Mat) (s : State) : Host.Outcome State Fault Refusal := matWord 0x191 f s
def execMmasN32Sp (_ : Hdr) (f : Mat) (s : State) : Host.Outcome State Fault Refusal := matWord 0x192 f s
def execMmasN64Sp (_ : Hdr) (f : Mat) (s : State) : Host.Outcome State Fault Refusal := matWord 0x193 f s
def execMmasN8SpAcc (_ : Hdr) (f : Mat) (s : State) : Host.Outcome State Fault Refusal := matWord 0x194 f s
def execMmasN16SpAcc (_ : Hdr) (f : Mat) (s : State) : Host.Outcome State Fault Refusal := matWord 0x195 f s
def execMmasN32SpAcc (_ : Hdr) (f : Mat) (s : State) : Host.Outcome State Fault Refusal := matWord 0x196 f s
def execMmasN64SpAcc (_ : Hdr) (f : Mat) (s : State) : Host.Outcome State Fault Refusal := matWord 0x197 f s
def execMmasN8Gl (_ : Hdr) (f : Mat) (s : State) : Host.Outcome State Fault Refusal := matWord 0x198 f s
def execMmasN16Gl (_ : Hdr) (f : Mat) (s : State) : Host.Outcome State Fault Refusal := matWord 0x199 f s
def execMmasN32Gl (_ : Hdr) (f : Mat) (s : State) : Host.Outcome State Fault Refusal := matWord 0x19A f s
def execMmasN64Gl (_ : Hdr) (f : Mat) (s : State) : Host.Outcome State Fault Refusal := matWord 0x19B f s
def execMmasN8GlAcc (_ : Hdr) (f : Mat) (s : State) : Host.Outcome State Fault Refusal := matWord 0x19C f s
def execMmasN16GlAcc (_ : Hdr) (f : Mat) (s : State) : Host.Outcome State Fault Refusal := matWord 0x19D f s
def execMmasN32GlAcc (_ : Hdr) (f : Mat) (s : State) : Host.Outcome State Fault Refusal := matWord 0x19E f s
def execMmasN64GlAcc (_ : Hdr) (f : Mat) (s : State) : Host.Outcome State Fault Refusal := matWord 0x19F f s

end Sys2Proof.Machine
end

