-- ==== Sys2Proof/Machine/Dispatch.lean ====
section
/-! DEFINITION. The dispatch: one arm for each constructor of Instr. -/

namespace Sys2Proof.Machine

/-- What each instruction, operation and event does. -/
def exec (i : Instr) (s : State) : Host.Outcome State Fault Refusal :=
  match i with
  | .powerOnReset p => Sys2Proof.Machine.execPowerOnReset p s
  | .gddr7TrainingDone bytes => Sys2Proof.Machine.execGddr7TrainingDone bytes s
  | .hostLinkTrained cache mem => Sys2Proof.Machine.execHostLinkTrained cache mem s
  | .functionLevelReset m => Sys2Proof.Machine.execFunctionLevelReset m s
  | .hotResetLinkDown => Sys2Proof.Machine.execHotResetLinkDown s
  | .fabEnWrite m v => Sys2Proof.Machine.execFabEnWrite m v s
  | .fabricPortTrained port dev authentic => Sys2Proof.Machine.execFabricPortTrained port dev authentic s
  | .gcmRekey port => Sys2Proof.Machine.execGcmRekey port s
  | .flitCheckFail port => Sys2Proof.Machine.execFlitCheckFail port s
  | .portReplayLimit port => Sys2Proof.Machine.execPortReplayLimit port s
  | .peerLinkDown dev => Sys2Proof.Machine.execPeerLinkDown dev s
  | .getVersion => Sys2Proof.Machine.execGetVersion s
  | .getCapabilities => Sys2Proof.Machine.execGetCapabilities s
  | .negotiateAlgorithms => Sys2Proof.Machine.execNegotiateAlgorithms s
  | .getDigests => Sys2Proof.Machine.execGetDigests s
  | .getCertificate => Sys2Proof.Machine.execGetCertificate s
  | .challenge nonce => Sys2Proof.Machine.execChallenge nonce s
  | .getMeasurements index nonce => Sys2Proof.Machine.execGetMeasurements index nonce s
  | .keyExchange nonce => Sys2Proof.Machine.execKeyExchange nonce s
  | .finish session => Sys2Proof.Machine.execFinish session s
  | .endSession session => Sys2Proof.Machine.execEndSession session s
  | .registerWrite m off wide v => Sys2Proof.Machine.execRegisterWrite m off wide v s
  | .ctxFqCtlWrite m c v => Sys2Proof.Machine.execCtxFqCtlWrite m c v s
  | .ctxFqBaseWrite m c v => Sys2Proof.Machine.execCtxFqBaseWrite m c v s
  | .ctxFqGetWrite m c v => Sys2Proof.Machine.execCtxFqGetWrite m c v s
  | .ctxResumeGo m c => Sys2Proof.Machine.execCtxResumeGo m c s
  | .invalVa m c => Sys2Proof.Machine.execInvalVa m c s
  | .invalContext m c => Sys2Proof.Machine.execInvalContext m c s
  | .invalidationComplete c => Sys2Proof.Machine.execInvalidationComplete c s
  | .walkComplete n => Sys2Proof.Machine.execWalkComplete n s
  | .ctxTgCtlWrite m c v => Sys2Proof.Machine.execCtxTgCtlWrite m c v s
  | .ctxGhAddrWrite m c v => Sys2Proof.Machine.execCtxGhAddrWrite m c v s
  | .ctxWake m c => Sys2Proof.Machine.execCtxWake m c s
  | .graphHeadMonitorWake c => Sys2Proof.Machine.execGraphHeadMonitorWake c s
  | .recordConsume c => Sys2Proof.Machine.execRecordConsume c s
  | .nodeFinish n => Sys2Proof.Machine.execNodeFinish n s
  | .folioPlacement => Sys2Proof.Machine.execFolioPlacement s
  | .bankDrainComplete g bank => Sys2Proof.Machine.execBankDrainComplete g bank s
  | .folioStart fo => Sys2Proof.Machine.execFolioStart fo s
  | .quireEnd q => Sys2Proof.Machine.execQuireEnd q s
  | .folioRetirement fo => Sys2Proof.Machine.execFolioRetirement fo s
  | .ctxPreemptGo m c => Sys2Proof.Machine.execCtxPreemptGo m c s
  | .watchdogExpiry c => Sys2Proof.Machine.execWatchdogExpiry c s
  | .ctxWdogWrite m c v => Sys2Proof.Machine.execCtxWdogWrite m c v s
  | .rallyGrant core => Sys2Proof.Machine.execRallyGrant core s
  | .ctxTrapctlResume m c => Sys2Proof.Machine.execCtxTrapctlResume m c s
  | .ctxStateDead m c => Sys2Proof.Machine.execCtxStateDead m c s
  | .contextReclamation c => Sys2Proof.Machine.execContextReclamation c s
  | .ctxStateRevive m c => Sys2Proof.Machine.execCtxStateRevive m c s
  | .ctxOwnerAssign m c owner => Sys2Proof.Machine.execCtxOwnerAssign m c owner s
  | .ctxOwnerRelease m c => Sys2Proof.Machine.execCtxOwnerRelease m c s
  | .ctxRayPoolWrite m c ctl v => Sys2Proof.Machine.execCtxRayPoolWrite m c ctl v s
  | .diagBselWrite m g v => Sys2Proof.Machine.execDiagBselWrite m g v s
  | .diagBviewSnapshot m g => Sys2Proof.Machine.execDiagBviewSnapshot m g s
  | .tryAbortRestore q t => Sys2Proof.Machine.execTryAbortRestore q t s
  | .commitCollection q => Sys2Proof.Machine.execCommitCollection q s
  | .commitCollectTimeout q => Sys2Proof.Machine.execCommitCollectTimeout q s
  | .transientReadRequest n => Sys2Proof.Machine.execTransientReadRequest n s
  | .transientWriteRequest n => Sys2Proof.Machine.execTransientWriteRequest n s
  | .forwardedRead n => Sys2Proof.Machine.execForwardedRead n s
  | .forwardedWrite n => Sys2Proof.Machine.execForwardedWrite n s
  | .tokenArrival n => Sys2Proof.Machine.execTokenArrival n s
  | .transientRequestTimeout agent line => Sys2Proof.Machine.execTransientRequestTimeout agent line s
  | .persistentRequestRegister n => Sys2Proof.Machine.execPersistentRequestRegister n s
  | .persistentBroadcast n => Sys2Proof.Machine.execPersistentBroadcast n s
  | .persistentDeactivation n => Sys2Proof.Machine.execPersistentDeactivation n s
  | .homeResponseTimeout agent line => Sys2Proof.Machine.execHomeResponseTimeout agent line s
  | .fillArrival n => Sys2Proof.Machine.execFillArrival n s
  | .leaseRequest w line k => Sys2Proof.Machine.execLeaseRequest w line k s
  | .leaseRenewal w line => Sys2Proof.Machine.execLeaseRenewal w line s
  | .leaseRecall line => Sys2Proof.Machine.execLeaseRecall line s
  | .ncAccessAtHome q seq t => Sys2Proof.Machine.execNcAccessAtHome q seq t s
  | .route3WriteAtHome n => Sys2Proof.Machine.execRoute3WriteAtHome n s
  | .postedWritePerform n => Sys2Proof.Machine.execPostedWritePerform n s
  | .flushReadReturn q => Sys2Proof.Machine.execFlushReadReturn q s
  | .snpinv line half => Sys2Proof.Machine.execSnpinv line half s
  | .snpdata line half => Sys2Proof.Machine.execSnpdata line half s
  | .snpcur line half => Sys2Proof.Machine.execSnpcur line half s
  | .hostCacheGrant line half exclusive => Sys2Proof.Machine.execHostCacheGrant line half exclusive s
  | .cxlMemRead pa len => Sys2Proof.Machine.execCxlMemRead pa len s
  | .cxlMemWrite pa bytes => Sys2Proof.Machine.execCxlMemWrite pa bytes s
  | .peerAccessAtExporter imp off write len => Sys2Proof.Machine.execPeerAccessAtExporter imp off write len s
  | .peerRecallTimeout dev => Sys2Proof.Machine.execPeerRecallTimeout dev s
  | .gatheringSleep g => Sys2Proof.Machine.execGatheringSleep g s
  | .gatheringWake g => Sys2Proof.Machine.execGatheringWake g s
  | .governorWindowEnd est => Sys2Proof.Machine.execGovernorWindowEnd est s
  | .copyComplete core tag => Sys2Proof.Machine.execCopyComplete core tag s
  | .copyFaultEnd core tag => Sys2Proof.Machine.execCopyFaultEnd core tag s
  | .benchEntryEligible g n => Sys2Proof.Machine.execBenchEntryEligible g n s
  | .benchPass g => Sys2Proof.Machine.execBenchPass g s
  | .fpushReserve q => Sys2Proof.Machine.execFpushReserve q s
  | .fpopReserve q => Sys2Proof.Machine.execFpopReserve q s
  | .barwaitRelease q => Sys2Proof.Machine.execBarwaitRelease q s
  | .tagwaitRelease q => Sys2Proof.Machine.execTagwaitRelease q s
  | .fbarRoundComplete fo => Sys2Proof.Machine.execFbarRoundComplete fo s
  | .regqGrowGrant q => Sys2Proof.Machine.execRegqGrowGrant q s
  | .osenterGrant q => Sys2Proof.Machine.execOsenterGrant q s
  | .twaitRelease q => Sys2Proof.Machine.execTwaitRelease q s
  | .stageBoundary n => Sys2Proof.Machine.execStageBoundary n s
  | .tileDeal n => Sys2Proof.Machine.execTileDeal n s
  | .tileRasterisation n tile => Sys2Proof.Machine.execTileRasterisation n tile s
  | .listAppendApply n k => Sys2Proof.Machine.execListAppendApply n k s
  | .mergeRoutineLaunch n => Sys2Proof.Machine.execMergeRoutineLaunch n s
  | .reconstructionFill fo => Sys2Proof.Machine.execReconstructionFill fo s
  | .traversalService g => Sys2Proof.Machine.execTraversalService g s
  | .routineFolioLaunch g => Sys2Proof.Machine.execRoutineFolioLaunch g s
  | .bisnpResponse line half => Sys2Proof.Machine.execBisnpResponse line half s
  | .pformWord last stall p r => Sys2Proof.Machine.execPformWord last stall p r s
  | .iadd h f => Sys2Proof.Machine.execIadd h f s
  | .isub h f => Sys2Proof.Machine.execIsub h f s
  | .ineg h f => Sys2Proof.Machine.execIneg h f s
  | .iabs h f => Sys2Proof.Machine.execIabs h f s
  | .imul h f => Sys2Proof.Machine.execImul h f s
  | .imulh h f => Sys2Proof.Machine.execImulh h f s
  | .imad h f => Sys2Proof.Machine.execImad h f s
  | .imadw h f => Sys2Proof.Machine.execImadw h f s
  | .imin h f => Sys2Proof.Machine.execImin h f s
  | .imax h f => Sys2Proof.Machine.execImax h f s
  | .isad h f => Sys2Proof.Machine.execIsad h f s
  | .icmp h f => Sys2Proof.Machine.execIcmp h f s
  | .iaddc h f => Sys2Proof.Machine.execIaddc h f s
  | .andBits h f => Sys2Proof.Machine.execAndBits h f s
  | .orBits h f => Sys2Proof.Machine.execOrBits h f s
  | .xorBits h f => Sys2Proof.Machine.execXorBits h f s
  | .notBits h f => Sys2Proof.Machine.execNotBits h f s
  | .bop3 h f => Sys2Proof.Machine.execBop3 h f s
  | .shl h f => Sys2Proof.Machine.execShl h f s
  | .shr h f => Sys2Proof.Machine.execShr h f s
  | .sar h f => Sys2Proof.Machine.execSar h f s
  | .rotl h f => Sys2Proof.Machine.execRotl h f s
  | .shf h f => Sys2Proof.Machine.execShf h f s
  | .popc h f => Sys2Proof.Machine.execPopc h f s
  | .clz h f => Sys2Proof.Machine.execClz h f s
  | .ctz h f => Sys2Proof.Machine.execCtz h f s
  | .brev h f => Sys2Proof.Machine.execBrev h f s
  | .bfx h f => Sys2Proof.Machine.execBfx h f s
  | .bfi h f => Sys2Proof.Machine.execBfi h f s
  | .bypr h f => Sys2Proof.Machine.execBypr h f s
  | .bilv h f => Sys2Proof.Machine.execBilv h f s
  | .bdlv h f => Sys2Proof.Machine.execBdlv h f s
  | .aadd h f => Sys2Proof.Machine.execAadd h f s
  | .amad h f => Sys2Proof.Machine.execAmad h f s
  | .iaddI h f => Sys2Proof.Machine.execIaddI h f s
  | .imulI h f => Sys2Proof.Machine.execImulI h f s
  | .andI h f => Sys2Proof.Machine.execAndI h f s
  | .orI h f => Sys2Proof.Machine.execOrI h f s
  | .xorI h f => Sys2Proof.Machine.execXorI h f s
  | .icmpI h f => Sys2Proof.Machine.execIcmpI h f s
  | .fadd h f => Sys2Proof.Machine.execFadd h f s
  | .fmul h f => Sys2Proof.Machine.execFmul h f s
  | .ffma h f => Sys2Proof.Machine.execFfma h f s
  | .fmin h f => Sys2Proof.Machine.execFmin h f s
  | .fmax h f => Sys2Proof.Machine.execFmax h f s
  | .fminn h f => Sys2Proof.Machine.execFminn h f s
  | .fmaxn h f => Sys2Proof.Machine.execFmaxn h f s
  | .fcmp h f => Sys2Proof.Machine.execFcmp h f s
  | .fclass h f => Sys2Proof.Machine.execFclass h f s
  | .frnd h f => Sys2Proof.Machine.execFrnd h f s
  | .ffrac h f => Sys2Proof.Machine.execFfrac h f s
  | .frcp h f => Sys2Proof.Machine.execFrcp h f s
  | .frsq h f => Sys2Proof.Machine.execFrsq h f s
  | .fsqrt h f => Sys2Proof.Machine.execFsqrt h f s
  | .fexp2 h f => Sys2Proof.Machine.execFexp2 h f s
  | .flog2 h f => Sys2Proof.Machine.execFlog2 h f s
  | .fsin h f => Sys2Proof.Machine.execFsin h f s
  | .fcos h f => Sys2Proof.Machine.execFcos h f s
  | .ftanh h f => Sys2Proof.Machine.execFtanh h f s
  | .dadd h f => Sys2Proof.Machine.execDadd h f s
  | .dmul h f => Sys2Proof.Machine.execDmul h f s
  | .dfma h f => Sys2Proof.Machine.execDfma h f s
  | .dcmp h f => Sys2Proof.Machine.execDcmp h f s
  | .faddX2 h f => Sys2Proof.Machine.execFaddX2 h f s
  | .fmulX2 h f => Sys2Proof.Machine.execFmulX2 h f s
  | .ffmaX2 h f => Sys2Proof.Machine.execFfmaX2 h f s
  | .fminX2 h f => Sys2Proof.Machine.execFminX2 h f s
  | .fmaxX2 h f => Sys2Proof.Machine.execFmaxX2 h f s
  | .fminnX2 h f => Sys2Proof.Machine.execFminnX2 h f s
  | .fmaxnX2 h f => Sys2Proof.Machine.execFmaxnX2 h f s
  | .frndX2 h f => Sys2Proof.Machine.execFrndX2 h f s
  | .fcmpX2 h f => Sys2Proof.Machine.execFcmpX2 h f s
  | .faddI h f => Sys2Proof.Machine.execFaddI h f s
  | .fmulI h f => Sys2Proof.Machine.execFmulI h f s
  | .ffmaI h f => Sys2Proof.Machine.execFfmaI h f s
  | .fminI h f => Sys2Proof.Machine.execFminI h f s
  | .fmaxI h f => Sys2Proof.Machine.execFmaxI h f s
  | .fcmpI h f => Sys2Proof.Machine.execFcmpI h f s
  | .hadd2 h f => Sys2Proof.Machine.execHadd2 h f s
  | .hmul2 h f => Sys2Proof.Machine.execHmul2 h f s
  | .hfma2 h f => Sys2Proof.Machine.execHfma2 h f s
  | .hmin2 h f => Sys2Proof.Machine.execHmin2 h f s
  | .hmax2 h f => Sys2Proof.Machine.execHmax2 h f s
  | .badd2 h f => Sys2Proof.Machine.execBadd2 h f s
  | .bmul2 h f => Sys2Proof.Machine.execBmul2 h f s
  | .bfma2 h f => Sys2Proof.Machine.execBfma2 h f s
  | .hadd2X2 h f => Sys2Proof.Machine.execHadd2X2 h f s
  | .hmul2X2 h f => Sys2Proof.Machine.execHmul2X2 h f s
  | .hfma2X2 h f => Sys2Proof.Machine.execHfma2X2 h f s
  | .hmin2X2 h f => Sys2Proof.Machine.execHmin2X2 h f s
  | .hmax2X2 h f => Sys2Proof.Machine.execHmax2X2 h f s
  | .badd2X2 h f => Sys2Proof.Machine.execBadd2X2 h f s
  | .bmul2X2 h f => Sys2Proof.Machine.execBmul2X2 h f s
  | .bfma2X2 h f => Sys2Proof.Machine.execBfma2X2 h f s
  | .hadd2I h f => Sys2Proof.Machine.execHadd2I h f s
  | .hmul2I h f => Sys2Proof.Machine.execHmul2I h f s
  | .badd2I h f => Sys2Proof.Machine.execBadd2I h f s
  | .bmul2I h f => Sys2Proof.Machine.execBmul2I h f s
  | .fcmpF16 h f => Sys2Proof.Machine.execFcmpF16 h f s
  | .fcmpBf16 h f => Sys2Proof.Machine.execFcmpBf16 h f s
  | .cvt1 h f => Sys2Proof.Machine.execCvt1 h f s
  | .cvt2 h f => Sys2Proof.Machine.execCvt2 h f s
  | .cvt4 h f => Sys2Proof.Machine.execCvt4 h f s
  | .cvt2w h f => Sys2Proof.Machine.execCvt2w h f s
  | .cvt4w h f => Sys2Proof.Machine.execCvt4w h f s
  | .pack h f => Sys2Proof.Machine.execPack h f s
  | .packB8 h f => Sys2Proof.Machine.execPackB8 h f s
  | .unpk h f => Sys2Proof.Machine.execUnpk h f s
  | .unpkB8 h f => Sys2Proof.Machine.execUnpkB8 h f s
  | .mov h f => Sys2Proof.Machine.execMov h f s
  | .mov2 h f => Sys2Proof.Machine.execMov2 h f s
  | .mov4 h f => Sys2Proof.Machine.execMov4 h f s
  | .ldiV h f => Sys2Proof.Machine.execLdiV h f s
  | .ldiS h f => Sys2Proof.Machine.execLdiS h f s
  | .sel h f => Sys2Proof.Machine.execSel h f s
  | .selI h f => Sys2Proof.Machine.execSelI h f s
  | .plop h f => Sys2Proof.Machine.execPlop h f s
  | .plopQ h f => Sys2Proof.Machine.execPlopQ h f s
  | .v2p h f => Sys2Proof.Machine.execV2p h f s
  | .p2v h f => Sys2Proof.Machine.execP2v h f s
  | .v2pQ h f => Sys2Proof.Machine.execV2pQ h f s
  | .p2vQ h f => Sys2Proof.Machine.execP2vQ h f s
  | .bra h f => Sys2Proof.Machine.execBra h f s
  | .brau h f => Sys2Proof.Machine.execBrau h f s
  | .jmpi h f => Sys2Proof.Machine.execJmpi h f s
  | .call h f => Sys2Proof.Machine.execCall h f s
  | .calli h f => Sys2Proof.Machine.execCalli h f s
  | .ret h f => Sys2Proof.Machine.execRet h f s
  | .meet h f => Sys2Proof.Machine.execMeet h f s
  | .brk h f => Sys2Proof.Machine.execBrk h f s
  | .yield h f => Sys2Proof.Machine.execYield h f s
  | .exitThread h f => Sys2Proof.Machine.execExitThread h f s
  | .nop h f => Sys2Proof.Machine.execNop h f s
  | .trap h f => Sys2Proof.Machine.execTrap h f s
  | .bpt h f => Sys2Proof.Machine.execBpt h f s
  | .vote h f => Sys2Proof.Machine.execVote h f s
  | .shfl h f => Sys2Proof.Machine.execShfl h f s
  | .shflI h f => Sys2Proof.Machine.execShflI h f s
  | .qred h f => Sys2Proof.Machine.execQred h f s
  | .qredF h f => Sys2Proof.Machine.execQredF h f s
  | .qscan h f => Sys2Proof.Machine.execQscan h f s
  | .qscanF h f => Sys2Proof.Machine.execQscanF h f s
  | .matchBits h f => Sys2Proof.Machine.execMatchBits h f s
  | .rdlane h f => Sys2Proof.Machine.execRdlane h f s
  | .wrlane h f => Sys2Proof.Machine.execWrlane h f s
  | .tryBegin h f => Sys2Proof.Machine.execTryBegin h f s
  | .commit h f => Sys2Proof.Machine.execCommit h f s
  | .abortTry h f => Sys2Proof.Machine.execAbortTry h f s
  | .tstat h f => Sys2Proof.Machine.execTstat h f s
  | .regq h f => Sys2Proof.Machine.execRegq h f s
  | .mode h f => Sys2Proof.Machine.execMode h f s
  | .movs h f => Sys2Proof.Machine.execMovs h f s
  | .ld h f => Sys2Proof.Machine.execLd h f s
  | .ldAcq h f => Sys2Proof.Machine.execLdAcq h f s
  | .st h f => Sys2Proof.Machine.execSt h f s
  | .stRel h f => Sys2Proof.Machine.execStRel h f s
  | .ldChk h f => Sys2Proof.Machine.execLdChk h f s
  | .ldX h f => Sys2Proof.Machine.execLdX h f s
  | .ldAcqX h f => Sys2Proof.Machine.execLdAcqX h f s
  | .stX h f => Sys2Proof.Machine.execStX h f s
  | .stRelX h f => Sys2Proof.Machine.execStRelX h f s
  | .lds h f => Sys2Proof.Machine.execLds h f s
  | .ldsAcq h f => Sys2Proof.Machine.execLdsAcq h f s
  | .sts h f => Sys2Proof.Machine.execSts h f s
  | .stsRel h f => Sys2Proof.Machine.execStsRel h f s
  | .ldsX h f => Sys2Proof.Machine.execLdsX h f s
  | .ldsAcqX h f => Sys2Proof.Machine.execLdsAcqX h f s
  | .stsX h f => Sys2Proof.Machine.execStsX h f s
  | .stsRelX h f => Sys2Proof.Machine.execStsRelX h f s
  | .ldp h f => Sys2Proof.Machine.execLdp h f s
  | .stp h f => Sys2Proof.Machine.execStp h f s
  | .ldpX h f => Sys2Proof.Machine.execLdpX h f s
  | .stpX h f => Sys2Proof.Machine.execStpX h f s
  | .ldc h f => Sys2Proof.Machine.execLdc h f s
  | .ldcX h f => Sys2Proof.Machine.execLdcX h f s
  | .ldt h f => Sys2Proof.Machine.execLdt h f s
  | .pref h f => Sys2Proof.Machine.execPref h f s
  | .prefX h f => Sys2Proof.Machine.execPrefX h f s
  | .atom h f => Sys2Proof.Machine.execAtom h f s
  | .atomF h f => Sys2Proof.Machine.execAtomF h f s
  | .atomCas h f => Sys2Proof.Machine.execAtomCas h f s
  | .red h f => Sys2Proof.Machine.execRed h f s
  | .redF h f => Sys2Proof.Machine.execRedF h f s
  | .atoms h f => Sys2Proof.Machine.execAtoms h f s
  | .atomsF h f => Sys2Proof.Machine.execAtomsF h f s
  | .atomsCas h f => Sys2Proof.Machine.execAtomsCas h f s
  | .fpush h f => Sys2Proof.Machine.execFpush h f s
  | .fpop h f => Sys2Proof.Machine.execFpop h f s
  | .fpushNb h f => Sys2Proof.Machine.execFpushNb h f s
  | .fpopNb h f => Sys2Proof.Machine.execFpopNb h f s
  | .tex h f => Sys2Proof.Machine.execTex h f s
  | .texL h f => Sys2Proof.Machine.execTexL h f s
  | .texG h f => Sys2Proof.Machine.execTexG h f s
  | .texC h f => Sys2Proof.Machine.execTexC h f s
  | .tex4 h f => Sys2Proof.Machine.execTex4 h f s
  | .tld h f => Sys2Proof.Machine.execTld h f s
  | .tldMs h f => Sys2Proof.Machine.execTldMs h f s
  | .tqry h f => Sys2Proof.Machine.execTqry h f s
  | .tqryLod h f => Sys2Proof.Machine.execTqryLod h f s
  | .imld h f => Sys2Proof.Machine.execImld h f s
  | .imldRaw h f => Sys2Proof.Machine.execImldRaw h f s
  | .imst h f => Sys2Proof.Machine.execImst h f s
  | .imstRaw h f => Sys2Proof.Machine.execImstRaw h f s
  | .fence h f => Sys2Proof.Machine.execFence h f s
  | .pfence h f => Sys2Proof.Machine.execPfence h f s
  | .rfence h f => Sys2Proof.Machine.execRfence h f s
  | .barinit h f => Sys2Proof.Machine.execBarinit h f s
  | .bararr h f => Sys2Proof.Machine.execBararr h f s
  | .bararrN h f => Sys2Proof.Machine.execBararrN h f s
  | .barwait h f => Sys2Proof.Machine.execBarwait h f s
  | .bartest h f => Sys2Proof.Machine.execBartest h f s
  | .barinval h f => Sys2Proof.Machine.execBarinval h f s
  | .fbar h f => Sys2Proof.Machine.execFbar h f s
  | .tagwait h f => Sys2Proof.Machine.execTagwait h f s
  | .tagany h f => Sys2Proof.Machine.execTagany h f s
  | .tagffr h f => Sys2Proof.Machine.execTagffr h f s
  | .tagtest h f => Sys2Proof.Machine.execTagtest h f s
  | .tagrd h f => Sys2Proof.Machine.execTagrd h f s
  | .mmaN8Sp h f => Sys2Proof.Machine.execMmaN8Sp h f s
  | .mmaN16Sp h f => Sys2Proof.Machine.execMmaN16Sp h f s
  | .mmaN32Sp h f => Sys2Proof.Machine.execMmaN32Sp h f s
  | .mmaN64Sp h f => Sys2Proof.Machine.execMmaN64Sp h f s
  | .mmaN8SpAcc h f => Sys2Proof.Machine.execMmaN8SpAcc h f s
  | .mmaN16SpAcc h f => Sys2Proof.Machine.execMmaN16SpAcc h f s
  | .mmaN32SpAcc h f => Sys2Proof.Machine.execMmaN32SpAcc h f s
  | .mmaN64SpAcc h f => Sys2Proof.Machine.execMmaN64SpAcc h f s
  | .mmaN8Gl h f => Sys2Proof.Machine.execMmaN8Gl h f s
  | .mmaN16Gl h f => Sys2Proof.Machine.execMmaN16Gl h f s
  | .mmaN32Gl h f => Sys2Proof.Machine.execMmaN32Gl h f s
  | .mmaN64Gl h f => Sys2Proof.Machine.execMmaN64Gl h f s
  | .mmaN8GlAcc h f => Sys2Proof.Machine.execMmaN8GlAcc h f s
  | .mmaN16GlAcc h f => Sys2Proof.Machine.execMmaN16GlAcc h f s
  | .mmaN32GlAcc h f => Sys2Proof.Machine.execMmaN32GlAcc h f s
  | .mmaN64GlAcc h f => Sys2Proof.Machine.execMmaN64GlAcc h f s
  | .mmasN8Sp h f => Sys2Proof.Machine.execMmasN8Sp h f s
  | .mmasN16Sp h f => Sys2Proof.Machine.execMmasN16Sp h f s
  | .mmasN32Sp h f => Sys2Proof.Machine.execMmasN32Sp h f s
  | .mmasN64Sp h f => Sys2Proof.Machine.execMmasN64Sp h f s
  | .mmasN8SpAcc h f => Sys2Proof.Machine.execMmasN8SpAcc h f s
  | .mmasN16SpAcc h f => Sys2Proof.Machine.execMmasN16SpAcc h f s
  | .mmasN32SpAcc h f => Sys2Proof.Machine.execMmasN32SpAcc h f s
  | .mmasN64SpAcc h f => Sys2Proof.Machine.execMmasN64SpAcc h f s
  | .mmasN8Gl h f => Sys2Proof.Machine.execMmasN8Gl h f s
  | .mmasN16Gl h f => Sys2Proof.Machine.execMmasN16Gl h f s
  | .mmasN32Gl h f => Sys2Proof.Machine.execMmasN32Gl h f s
  | .mmasN64Gl h f => Sys2Proof.Machine.execMmasN64Gl h f s
  | .mmasN8GlAcc h f => Sys2Proof.Machine.execMmasN8GlAcc h f s
  | .mmasN16GlAcc h f => Sys2Proof.Machine.execMmasN16GlAcc h f s
  | .mmasN32GlAcc h f => Sys2Proof.Machine.execMmasN32GlAcc h f s
  | .mmasN64GlAcc h f => Sys2Proof.Machine.execMmasN64GlAcc h f s
  | .cpy h f => Sys2Proof.Machine.execCpy h f s
  | .cpyR h f => Sys2Proof.Machine.execCpyR h f s
  | .cpyw h f => Sys2Proof.Machine.execCpyw h f s
  | .cpywR h f => Sys2Proof.Machine.execCpywR h f s
  | .cpym h f => Sys2Proof.Machine.execCpym h f s
  | .cpyp h f => Sys2Proof.Machine.execCpyp h f s
  | .cpypM h f => Sys2Proof.Machine.execCpypM h f s
  | .cpyrd h f => Sys2Proof.Machine.execCpyrd h f s
  | .cpyrdP h f => Sys2Proof.Machine.execCpyrdP h f s
  | .cpyg h f => Sys2Proof.Machine.execCpyg h f s
  | .rng h f => Sys2Proof.Machine.execRng h f s
  | .spawn h f => Sys2Proof.Machine.execSpawn h f s
  | .gsig h f => Sys2Proof.Machine.execGsig h f s
  | .recld h f => Sys2Proof.Machine.execRecld h f s
  | .osenter h f => Sys2Proof.Machine.execOsenter h f s
  | .osexit h f => Sys2Proof.Machine.execOsexit h f s
  | .lappend h f => Sys2Proof.Machine.execLappend h f s
  | .lfirst h f => Sys2Proof.Machine.execLfirst h f s
  | .lnext h f => Sys2Proof.Machine.execLnext h f s
  | .interp h f => Sys2Proof.Machine.execInterp h f s
  | .interpO h f => Sys2Proof.Machine.execInterpO h f s
  | .interpF h f => Sys2Proof.Machine.execInterpF h f s
  | .discard h f => Sys2Proof.Machine.execDiscard h f s
  | .discardH h f => Sys2Proof.Machine.execDiscardH h f s
  | .meshoutV h f => Sys2Proof.Machine.execMeshoutV h f s
  | .meshoutP h f => Sys2Proof.Machine.execMeshoutP h f s
  | .meshoutN h f => Sys2Proof.Machine.execMeshoutN h f s
  | .trace h f => Sys2Proof.Machine.execTrace h f s
  | .traceRec h f => Sys2Proof.Machine.execTraceRec h f s
  | .twait h f => Sys2Proof.Machine.execTwait h f s
  | .twaitAll h f => Sys2Proof.Machine.execTwaitAll h f s
  | .thit h f => Sys2Proof.Machine.execThit h f s
  | .ireport h f => Sys2Proof.Machine.execIreport h f s
  | .ireportA h f => Sys2Proof.Machine.execIreportA h f s
  | .iresume h f => Sys2Proof.Machine.execIresume h f s
  | .iresumeN h f => Sys2Proof.Machine.execIresumeN h f s
  | .tcancel h f => Sys2Proof.Machine.execTcancel h f s
  | .tcancelAll h f => Sys2Proof.Machine.execTcancelAll h f s

end Sys2Proof.Machine
end

