-- ==== Sys2Proof/Machine/Fast.lean ====
section
/-! DEFINITION. The word of an instruction run from its fields: `runWord` is exec of the decoded instruction, and the
twin below is the same function without building the instruction, which compiled code cannot hold. -/

namespace Sys2Proof.Machine

/-- Execute the instruction of a word that has passed issue, if it is one. -/
def runInstr (i : Option Instr) (s : State) : Host.Outcome State Fault Refusal :=
  match i with
  | some i => exec i s
  | none => .next s

/-- Execute the instruction of a word that has passed issue. -/
noncomputable def runWord (x : WordParts) (s : State) : Host.Outcome State Fault Refusal := runInstr x.instr s

/-- The full0 layout. -/
def runFull0 (op : Nat) (h : Hdr) (f : Full) (s : State) : Host.Outcome State Fault Refusal :=
  match op with
  | 0x000 => execIadd h f s
  | 0x001 => execIsub h f s
  | 0x002 => execIneg h f s
  | 0x003 => execIabs h f s
  | 0x004 => execImul h f s
  | 0x005 => execImulh h f s
  | 0x006 => execImad h f s
  | 0x007 => execImadw h f s
  | 0x008 => execImin h f s
  | 0x009 => execImax h f s
  | 0x00a => execIsad h f s
  | 0x00b => execIcmp h f s
  | 0x00c => execIaddc h f s
  | 0x00d => execAndBits h f s
  | 0x00e => execOrBits h f s
  | 0x00f => execXorBits h f s
  | 0x010 => execNotBits h f s
  | 0x011 => execBop3 h f s
  | 0x012 => execShl h f s
  | 0x013 => execShr h f s
  | 0x014 => execSar h f s
  | 0x015 => execRotl h f s
  | 0x016 => execShf h f s
  | 0x017 => execPopc h f s
  | 0x018 => execClz h f s
  | 0x019 => execCtz h f s
  | 0x01a => execBrev h f s
  | 0x01b => execBfx h f s
  | 0x01c => execBfi h f s
  | 0x01d => execBypr h f s
  | 0x01e => execBilv h f s
  | 0x01f => execBdlv h f s
  | 0x020 => execAadd h f s
  | 0x021 => execAmad h f s
  | _ => .next s

theorem runFull0_eq (op : Nat) (h : Hdr) (f : Full) (s : State) :
    runInstr (instrOfFull0 op h f) s = runFull0 op h f s := by
  unfold instrOfFull0 runFull0
  split <;> first | rfl | simp [runInstr]

/-- The full1 layout. -/
def runFull1 (op : Nat) (h : Hdr) (f : Full) (s : State) : Host.Outcome State Fault Refusal :=
  match op with
  | 0x040 => execFadd h f s
  | 0x041 => execFmul h f s
  | 0x042 => execFfma h f s
  | 0x043 => execFmin h f s
  | 0x044 => execFmax h f s
  | 0x045 => execFminn h f s
  | 0x046 => execFmaxn h f s
  | 0x047 => execFcmp h f s
  | 0x048 => execFclass h f s
  | 0x049 => execFrnd h f s
  | 0x04a => execFfrac h f s
  | 0x04b => execFrcp h f s
  | 0x04c => execFrsq h f s
  | 0x04d => execFsqrt h f s
  | 0x04e => execFexp2 h f s
  | 0x04f => execFlog2 h f s
  | 0x050 => execFsin h f s
  | 0x051 => execFcos h f s
  | 0x052 => execFtanh h f s
  | 0x053 => execDadd h f s
  | 0x054 => execDmul h f s
  | 0x055 => execDfma h f s
  | 0x056 => execDcmp h f s
  | 0x058 => execFaddX2 h f s
  | 0x059 => execFmulX2 h f s
  | 0x05a => execFfmaX2 h f s
  | 0x05b => execFminX2 h f s
  | 0x05c => execFmaxX2 h f s
  | 0x05d => execFminnX2 h f s
  | 0x05e => execFmaxnX2 h f s
  | 0x05f => execFrndX2 h f s
  | 0x060 => execFcmpX2 h f s
  | _ => .next s

theorem runFull1_eq (op : Nat) (h : Hdr) (f : Full) (s : State) :
    runInstr (instrOfFull1 op h f) s = runFull1 op h f s := by
  unfold instrOfFull1 runFull1
  split <;> first | rfl | simp [runInstr]

/-- The full2 layout. -/
def runFull2 (op : Nat) (h : Hdr) (f : Full) (s : State) : Host.Outcome State Fault Refusal :=
  match op with
  | 0x080 => execHadd2 h f s
  | 0x081 => execHmul2 h f s
  | 0x082 => execHfma2 h f s
  | 0x083 => execHmin2 h f s
  | 0x084 => execHmax2 h f s
  | 0x085 => execBadd2 h f s
  | 0x086 => execBmul2 h f s
  | 0x087 => execBfma2 h f s
  | 0x088 => execHadd2X2 h f s
  | 0x089 => execHmul2X2 h f s
  | 0x08a => execHfma2X2 h f s
  | 0x08b => execHmin2X2 h f s
  | 0x08c => execHmax2X2 h f s
  | 0x08d => execBadd2X2 h f s
  | 0x08e => execBmul2X2 h f s
  | 0x08f => execBfma2X2 h f s
  | 0x094 => execFcmpF16 h f s
  | 0x095 => execFcmpBf16 h f s
  | 0x098 => execCvt1 h f s
  | 0x099 => execCvt2 h f s
  | 0x09a => execCvt4 h f s
  | 0x09b => execCvt2w h f s
  | 0x09c => execCvt4w h f s
  | 0x0a0 => execPack h f s
  | 0x0a1 => execPackB8 h f s
  | 0x0a2 => execUnpk h f s
  | 0x0a3 => execUnpkB8 h f s
  | 0x0a4 => execMov h f s
  | 0x0a5 => execMov2 h f s
  | 0x0a6 => execMov4 h f s
  | 0x0aa => execSel h f s
  | 0x0b0 => execPlop h f s
  | 0x0b1 => execPlopQ h f s
  | 0x0b2 => execV2p h f s
  | 0x0b3 => execP2v h f s
  | 0x0b4 => execV2pQ h f s
  | 0x0b5 => execP2vQ h f s
  | _ => .next s

theorem runFull2_eq (op : Nat) (h : Hdr) (f : Full) (s : State) :
    runInstr (instrOfFull2 op h f) s = runFull2 op h f s := by
  unfold instrOfFull2 runFull2
  split <;> first | rfl | simp [runInstr]

/-- The full3 layout. -/
def runFull3 (op : Nat) (h : Hdr) (f : Full) (s : State) : Host.Outcome State Fault Refusal :=
  match op with
  | 0x0c2 => execJmpi h f s
  | 0x0c4 => execCalli h f s
  | 0x0c5 => execRet h f s
  | 0x0c8 => execYield h f s
  | 0x0c9 => execExitThread h f s
  | 0x0ca => execNop h f s
  | 0x0cb => execTrap h f s
  | 0x0cc => execBpt h f s
  | 0x0d0 => execVote h f s
  | 0x0d1 => execShfl h f s
  | 0x0d3 => execQred h f s
  | 0x0d4 => execQredF h f s
  | 0x0d5 => execQscan h f s
  | 0x0d6 => execQscanF h f s
  | 0x0d7 => execMatchBits h f s
  | 0x0d8 => execRdlane h f s
  | 0x0d9 => execWrlane h f s
  | 0x0e1 => execCommit h f s
  | 0x0e2 => execAbortTry h f s
  | 0x0e3 => execTstat h f s
  | 0x0e8 => execRegq h f s
  | 0x0e9 => execMode h f s
  | 0x0ea => execMovs h f s
  | _ => .next s

theorem runFull3_eq (op : Nat) (h : Hdr) (f : Full) (s : State) :
    runInstr (instrOfFull3 op h f) s = runFull3 op h f s := by
  unfold instrOfFull3 runFull3
  split <;> first | rfl | simp [runInstr]

/-- The full4 layout. -/
def runFull4 (op : Nat) (h : Hdr) (f : Full) (s : State) : Host.Outcome State Fault Refusal :=
  match op with
  | 0x100 => execLd h f s
  | 0x101 => execLdAcq h f s
  | 0x102 => execSt h f s
  | 0x103 => execStRel h f s
  | 0x104 => execLdChk h f s
  | 0x108 => execLdX h f s
  | 0x109 => execLdAcqX h f s
  | 0x10a => execStX h f s
  | 0x10b => execStRelX h f s
  | 0x110 => execLds h f s
  | 0x111 => execLdsAcq h f s
  | 0x112 => execSts h f s
  | 0x113 => execStsRel h f s
  | 0x118 => execLdsX h f s
  | 0x119 => execLdsAcqX h f s
  | 0x11a => execStsX h f s
  | 0x11b => execStsRelX h f s
  | 0x120 => execLdp h f s
  | 0x121 => execStp h f s
  | 0x122 => execLdpX h f s
  | 0x123 => execStpX h f s
  | 0x124 => execLdc h f s
  | 0x125 => execLdcX h f s
  | 0x126 => execLdt h f s
  | 0x128 => execPref h f s
  | 0x129 => execPrefX h f s
  | _ => .next s

theorem runFull4_eq (op : Nat) (h : Hdr) (f : Full) (s : State) :
    runInstr (instrOfFull4 op h f) s = runFull4 op h f s := by
  unfold instrOfFull4 runFull4
  split <;> first | rfl | simp [runInstr]

/-- The full5 layout. -/
def runFull5 (op : Nat) (h : Hdr) (f : Full) (s : State) : Host.Outcome State Fault Refusal :=
  match op with
  | 0x140 => execAtom h f s
  | 0x141 => execAtomF h f s
  | 0x142 => execAtomCas h f s
  | 0x143 => execRed h f s
  | 0x144 => execRedF h f s
  | 0x145 => execAtoms h f s
  | 0x146 => execAtomsF h f s
  | 0x147 => execAtomsCas h f s
  | 0x148 => execFpush h f s
  | 0x149 => execFpop h f s
  | 0x14a => execFpushNb h f s
  | 0x14b => execFpopNb h f s
  | 0x150 => execTex h f s
  | 0x151 => execTexL h f s
  | 0x152 => execTexG h f s
  | 0x153 => execTexC h f s
  | 0x154 => execTex4 h f s
  | 0x155 => execTld h f s
  | 0x156 => execTldMs h f s
  | 0x158 => execTqry h f s
  | 0x159 => execTqryLod h f s
  | 0x15a => execImld h f s
  | 0x15b => execImldRaw h f s
  | 0x15c => execImst h f s
  | 0x15d => execImstRaw h f s
  | 0x160 => execFence h f s
  | 0x161 => execPfence h f s
  | 0x162 => execRfence h f s
  | 0x168 => execBarinit h f s
  | 0x169 => execBararr h f s
  | 0x16a => execBararrN h f s
  | 0x16b => execBarwait h f s
  | 0x16c => execBartest h f s
  | 0x16d => execBarinval h f s
  | 0x16e => execFbar h f s
  | 0x170 => execTagwait h f s
  | 0x171 => execTagany h f s
  | 0x172 => execTagffr h f s
  | 0x173 => execTagtest h f s
  | 0x174 => execTagrd h f s
  | _ => .next s

theorem runFull5_eq (op : Nat) (h : Hdr) (f : Full) (s : State) :
    runInstr (instrOfFull5 op h f) s = runFull5 op h f s := by
  unfold instrOfFull5 runFull5
  split <;> first | rfl | simp [runInstr]

/-- The full6 layout. -/
def runFull6 (op : Nat) (h : Hdr) (f : Full) (s : State) : Host.Outcome State Fault Refusal :=
  match op with
  | 0x1b0 => execRng h f s
  | 0x1b1 => execSpawn h f s
  | 0x1b2 => execGsig h f s
  | 0x1b3 => execRecld h f s
  | _ => .next s

theorem runFull6_eq (op : Nat) (h : Hdr) (f : Full) (s : State) :
    runInstr (instrOfFull6 op h f) s = runFull6 op h f s := by
  unfold instrOfFull6 runFull6
  split <;> first | rfl | simp [runInstr]

/-- The full7 layout. -/
def runFull7 (op : Nat) (h : Hdr) (f : Full) (s : State) : Host.Outcome State Fault Refusal :=
  match op with
  | 0x1c0 => execOsenter h f s
  | 0x1c1 => execOsexit h f s
  | 0x1c2 => execLappend h f s
  | 0x1c3 => execLfirst h f s
  | 0x1c4 => execLnext h f s
  | 0x1c5 => execInterp h f s
  | 0x1c6 => execInterpO h f s
  | 0x1c7 => execInterpF h f s
  | 0x1c8 => execDiscard h f s
  | 0x1c9 => execDiscardH h f s
  | 0x1ca => execMeshoutV h f s
  | 0x1cb => execMeshoutP h f s
  | 0x1cc => execMeshoutN h f s
  | 0x1d0 => execTrace h f s
  | 0x1d1 => execTraceRec h f s
  | 0x1d2 => execTwait h f s
  | 0x1d3 => execTwaitAll h f s
  | 0x1d4 => execThit h f s
  | 0x1d5 => execIreport h f s
  | 0x1d6 => execIreportA h f s
  | 0x1d7 => execIresume h f s
  | 0x1d8 => execIresumeN h f s
  | 0x1d9 => execTcancel h f s
  | 0x1da => execTcancelAll h f s
  | _ => .next s

theorem runFull7_eq (op : Nat) (h : Hdr) (f : Full) (s : State) :
    runInstr (instrOfFull7 op h f) s = runFull7 op h f s := by
  unfold instrOfFull7 runFull7
  split <;> first | rfl | simp [runInstr]

/-- The full layout. -/
def runFull (op : Nat) (h : Hdr) (f : Full) (s : State) : Host.Outcome State Fault Refusal :=
  match op / 64 with
  | 0 => runFull0 op h f s
  | 1 => runFull1 op h f s
  | 2 => runFull2 op h f s
  | 3 => runFull3 op h f s
  | 4 => runFull4 op h f s
  | 5 => runFull5 op h f s
  | 6 => runFull6 op h f s
  | 7 => runFull7 op h f s
  | _ => .next s

theorem runFull_eq (op : Nat) (h : Hdr) (f : Full) (s : State) :
    runInstr (instrOfFull op h f) s = runFull op h f s := by
  unfold instrOfFull runFull
  generalize op / 64 = c
  split
  · exact runFull0_eq op h f s
  · exact runFull1_eq op h f s
  · exact runFull2_eq op h f s
  · exact runFull3_eq op h f s
  · exact runFull4_eq op h f s
  · exact runFull5_eq op h f s
  · exact runFull6_eq op h f s
  · exact runFull7_eq op h f s
  · simp [runInstr]

/-- The imm layout. -/
def runImm (op : Nat) (h : Hdr) (f : Imm) (s : State) : Host.Outcome State Fault Refusal :=
  match op with
  | 0x028 => execIaddI h f s
  | 0x029 => execImulI h f s
  | 0x02a => execAndI h f s
  | 0x02b => execOrI h f s
  | 0x02c => execXorI h f s
  | 0x02d => execIcmpI h f s
  | 0x068 => execFaddI h f s
  | 0x069 => execFmulI h f s
  | 0x06a => execFfmaI h f s
  | 0x06b => execFminI h f s
  | 0x06c => execFmaxI h f s
  | 0x06d => execFcmpI h f s
  | 0x090 => execHadd2I h f s
  | 0x091 => execHmul2I h f s
  | 0x092 => execBadd2I h f s
  | 0x093 => execBmul2I h f s
  | 0x0ab => execSelI h f s
  | 0x0d2 => execShflI h f s
  | _ => .next s

theorem runImm_eq (op : Nat) (h : Hdr) (f : Imm) (s : State) :
    runInstr (instrOfImm op h f) s = runImm op h f s := by
  unfold instrOfImm runImm
  split <;> first | rfl | simp [runInstr]

/-- The ldi layout. -/
def runLdi (op : Nat) (h : Hdr) (f : Ldi) (s : State) : Host.Outcome State Fault Refusal :=
  match op with
  | 0x0a8 => execLdiV h f s
  | 0x0a9 => execLdiS h f s
  | _ => .next s

theorem runLdi_eq (op : Nat) (h : Hdr) (f : Ldi) (s : State) :
    runInstr (instrOfLdi op h f) s = runLdi op h f s := by
  unfold instrOfLdi runLdi
  split <;> first | rfl | simp [runInstr]

/-- The direct layout. -/
def runDirect (op : Nat) (h : Hdr) (f : Direct) (s : State) : Host.Outcome State Fault Refusal :=
  match op with
  | 0x0c0 => execBra h f s
  | 0x0c1 => execBrau h f s
  | 0x0c3 => execCall h f s
  | 0x0c6 => execMeet h f s
  | 0x0c7 => execBrk h f s
  | 0x0e0 => execTryBegin h f s
  | _ => .next s

theorem runDirect_eq (op : Nat) (h : Hdr) (f : Direct) (s : State) :
    runInstr (instrOfDirect op h f) s = runDirect op h f s := by
  unfold instrOfDirect runDirect
  split <;> first | rfl | simp [runInstr]

/-- The mat layout. -/
def runMat (op : Nat) (h : Hdr) (f : Mat) (s : State) : Host.Outcome State Fault Refusal :=
  match op with
  | 0x180 => execMmaN8Sp h f s
  | 0x181 => execMmaN16Sp h f s
  | 0x182 => execMmaN32Sp h f s
  | 0x183 => execMmaN64Sp h f s
  | 0x184 => execMmaN8SpAcc h f s
  | 0x185 => execMmaN16SpAcc h f s
  | 0x186 => execMmaN32SpAcc h f s
  | 0x187 => execMmaN64SpAcc h f s
  | 0x188 => execMmaN8Gl h f s
  | 0x189 => execMmaN16Gl h f s
  | 0x18a => execMmaN32Gl h f s
  | 0x18b => execMmaN64Gl h f s
  | 0x18c => execMmaN8GlAcc h f s
  | 0x18d => execMmaN16GlAcc h f s
  | 0x18e => execMmaN32GlAcc h f s
  | 0x18f => execMmaN64GlAcc h f s
  | 0x190 => execMmasN8Sp h f s
  | 0x191 => execMmasN16Sp h f s
  | 0x192 => execMmasN32Sp h f s
  | 0x193 => execMmasN64Sp h f s
  | 0x194 => execMmasN8SpAcc h f s
  | 0x195 => execMmasN16SpAcc h f s
  | 0x196 => execMmasN32SpAcc h f s
  | 0x197 => execMmasN64SpAcc h f s
  | 0x198 => execMmasN8Gl h f s
  | 0x199 => execMmasN16Gl h f s
  | 0x19a => execMmasN32Gl h f s
  | 0x19b => execMmasN64Gl h f s
  | 0x19c => execMmasN8GlAcc h f s
  | 0x19d => execMmasN16GlAcc h f s
  | 0x19e => execMmasN32GlAcc h f s
  | 0x19f => execMmasN64GlAcc h f s
  | _ => .next s

theorem runMat_eq (op : Nat) (h : Hdr) (f : Mat) (s : State) :
    runInstr (instrOfMat op h f) s = runMat op h f s := by
  unfold instrOfMat runMat
  split <;> first | rfl | simp [runInstr]

/-- The copy layout. -/
def runCopy (op : Nat) (h : Hdr) (f : Copy) (s : State) : Host.Outcome State Fault Refusal :=
  match op with
  | 0x1a0 => execCpy h f s
  | 0x1a1 => execCpyR h f s
  | 0x1a2 => execCpyw h f s
  | 0x1a3 => execCpywR h f s
  | 0x1a4 => execCpym h f s
  | 0x1a5 => execCpyp h f s
  | 0x1a6 => execCpypM h f s
  | 0x1a7 => execCpyrd h f s
  | 0x1a8 => execCpyrdP h f s
  | 0x1a9 => execCpyg h f s
  | _ => .next s

theorem runCopy_eq (op : Nat) (h : Hdr) (f : Copy) (s : State) :
    runInstr (instrOfCopy op h f) s = runCopy op h f s := by
  unfold instrOfCopy runCopy
  split <;> first | rfl | simp [runInstr]

/-- The twin of `runWord`. -/
def runWordFast (x : WordParts) (s : State) : Host.Outcome State Fault Refusal :=
  match x with
  | .pair last stall p r => execPformWord last stall p r s
  | .form op h (.full f) => runFull op h f s
  | .form op h (.imm f) => runImm op h f s
  | .form op h (.ldi f) => runLdi op h f s
  | .form op h (.direct f) => runDirect op h f s
  | .form op h (.mat f) => runMat op h f s
  | .form op h (.copy f) => runCopy op h f s

@[csimp] theorem runWord_eq : @runWord = @runWordFast := by
  funext x s
  cases x with
  | pair last stall p r => rfl
  | form op h p =>
    cases p with
    | full f => exact runFull_eq op h f s
    | imm f => exact runImm_eq op h f s
    | ldi f => exact runLdi_eq op h f s
    | direct f => exact runDirect_eq op h f s
    | mat f => exact runMat_eq op h f s
    | copy f => exact runCopy_eq op h f s

end Sys2Proof.Machine
end

