-- ==== Sys2Proof/Machine/Order.lean ====
section
/-! DEFINITION. Which moves the device can make when the agenda holds none (log 3), and how a program placed from outside
comes to run its first word (log 28). -/

namespace Sys2Proof.Machine

/-- Words of running rallies, tried again where they wait to be. -/
def wordMoves (s : State) : List Move :=
  (s.quires.filter fun q => q.rally.isSome && !(s.ctx q.ctx).dead && (q.wait.map fun w => w.why == .again).getD true).map fun q =>
    .word q.slot false

/-- Operand logs with an access that waits, or an entry that is done. -/
def serveMoves (s : State) : List Move :=
  (s.quires.filter fun q => q.log.any fun e => (e.acc.any fun a => a.st == .waiting) || e.acc.all fun a => a.st == .done).map fun q =>
    .serve q.slot

/-- What releases a quire blocked in an instruction. -/
def releaseMove (q : Quire) : Option Instr :=
  match q.wait.map (fun (w : Wait) => w.why) with
  | some .fpush => some (.fpushReserve q.slot)
  | some .fpop => some (.fpopReserve q.slot)
  | some .barwait => some (.barwaitRelease q.slot)
  | some .tagwait => some (.tagwaitRelease q.slot)
  | some .regq => some (.regqGrowGrant q.slot)
  | some .osenter => some (.osenterGrant q.slot)
  | some .twait => some (.twaitRelease q.slot)
  | _ => none

/-- Grants, releases and ends of quires (R212, R312, R188, R87). -/
def quireMoves (s : State) : List Instr :=
  (((s.quires.filter (slotReady s)).map fun q => q.slot.core).dedup.map fun c => Instr.rallyGrant c)
    ++ s.quires.filterMap releaseMove
    ++ ((s.quires.filter (quireEnds s)).map fun q => Instr.quireEnd q.slot)
    ++ (s.quires.flatMap fun q =>
          if q.rally.isSome then []
          else ((List.range q.th.length).filter (abortDue q)).map fun t => Instr.tryAbortRestore q.slot t)
    ++ ((s.quires.filter fun q => q.rally.isNone && q.region.isSome && allHeld q).map fun q => Instr.commitCollection q.slot)

/-- The event that receives a message; the host answers what its bridge waits for (R78 to R80, R98, R101). -/
def msgMoves (s : State) (m : Msg) : List Instr :=
  let host (excl : Bool) : List Instr :=
    if bridgeReady s m.line (if excl then .write else .read) then []
    else [.hostCacheGrant m.line 0 excl, .hostCacheGrant m.line 1 excl]
  let back : List Instr := if hostCaches s m.line then [.bisnpResponse m.line 0, .bisnpResponse m.line 1] else []
  match m.kind with
  | .request .read => host false ++ [.transientReadRequest m.id]
  | .request .write => host true ++ [.transientWriteRequest m.id]
  | .forward .read => (if m.dst = some 48 then back else []) ++ [.forwardedRead m.id]
  | .forward .write => (if m.dst = some 48 then back else []) ++ [.forwardedWrite m.id]
  | .tokens _ _ _ _ fill => if fill then [.fillArrival m.id] else [.tokenArrival m.id]
  | .persist _ => [.persistentRequestRegister m.id]
  | .activate r => host (r == .write) ++ back ++ [.persistentBroadcast m.id]
  | .deactivate => [.persistentDeactivation m.id]
  | .write3 .. => [.route3WriteAtHome m.id]
  | .posted .. => [.postedWritePerform m.id]
  | .recall => []

/-- Messages, walks, and requests that have waited for 1,024 cycles (R34, R79). -/
def memoryMoves (s : State) : List Instr :=
  s.msgs.flatMap (msgMoves s) ++ ((s.walks.filter fun w => w.root.isSome || w.discard).map fun w => Instr.walkComplete w.id)
    ++ (s.held.filterMap fun h =>
          match h.req with
          | some (r, c) => if c + 1024 ≤ s.cycle ∧ persHas h r = false then some (Instr.transientRequestTimeout h.agent h.line) else none
          | none => none)

/-- The executor, the distributor and the life of folios (R205 to R209, R53, R55, R25). -/
def folioMoves (s : State) : List Instr :=
  ((List.range 64).filter fun c => (mayConsume s c || (waitingSpawn s c).isSome)).map (fun c => Instr.recordConsume c)
    ++ ((s.nodes.filter fun n => nodeDone s n && !(s.ctx n.ctx).dead).map fun n => Instr.nodeFinish n.id)
    ++ (if !placing s && s.nodes.any fun n => (nodePlan s n).isSome then [Instr.folioPlacement] else [])
    ++ (s.gaths.zipIdx.flatMap fun g => g.1.banks.zipIdx.filterMap fun b =>
          match b.1 with
          | .drain .. => some (Instr.bankDrainComplete g.2 b.2)
          | _ => none)
    ++ (s.folios.filterMap fun f =>
          if (f.st = .draining ∧ needsFill f) ∧ banksReady s f.id then some (Instr.reconstructionFill f.id)
          else if (f.st = .draining ∨ f.st = .filling) ∧ banksReady s f.id then some (Instr.folioStart f.id)
          else if f.fbar ≠ [] ∧ fbarDone s f.id then some (Instr.fbarRoundComplete f.id)
          else if folioDone s f then some (Instr.folioRetirement f.id)
          else none)

/-- Copies and the bench (R123, R163, R213). -/
def engineMoves (s : State) : List Instr :=
  (s.folios.flatMap fun f =>
      (f.tags.filter fun t => t.st == .running && !t.paused).map fun t => Instr.copyComplete t.core (tagName f.id t.num))
    ++ (s.gaths.zipIdx.flatMap fun g =>
          if g.1.bench = [] then []
          else
            Instr.benchPass g.2 :: (g.1.bench.filter fun b => b.bar.isSome && b.eligible.isNone).map fun b => Instr.benchEntryEligible g.2 b.id)

/-- Passes, lists and rays (R420, R421, R435, R439, R461, R463). -/
def graphicsMoves (s : State) : List Instr :=
  (s.passes.flatMap fun p =>
      (if stageDone s p then [Instr.stageBoundary p.id] else [])
        ++ (if p.st = .raster then
              (if p.imm then (if p.nextTile < tileCount p.desc then [Instr.tileRasterisation p.id p.nextTile] else [])
               else
                (if p.nextTile < tileCount p.desc then [Instr.tileDeal p.id] else [])
                  ++ ((p.tiles.filter fun t => !t.rastered && banksReady s (tileOwner p.id t.n)).map fun t => Instr.tileRasterisation p.id t.n))
            else [])
        ++ ((p.appends.filter fun a => !(a.merging && a.result.isNone) && appendReady s p a).map fun (a : Append) => Instr.listAppendApply p.id a.id)
        ++ (if waitingMerges s p ≠ [] ∧ placing s = false then [Instr.mergeRoutineLaunch p.id] else []))
    ++ ((s.serving.map (·.huddle.gath) ++ (s.huddles.filter fun u => !u.susp).map (·.gath) ++ (s.rays.filter (·.wpend)).map (·.gath)
          ++ (s.quires.filter fun q => q.th.any fun t => t.x && (t.ray.map (·.held)).getD false).map fun q => gathOf q.slot.core).dedup.map
        fun g => Instr.traversalService g)
    ++ (if placing s then []
        else ((s.rays.filter fun r => r.at_ == .routineQ && !r.wpend).map (·.gath)).dedup.map fun g => Instr.routineFolioLaunch g)

/-- Invalidations, reclamations and watchdogs (R38, R410, R216). -/
def contextMoves (s : State) : List Instr :=
  ((List.range 64).filter fun c => (s.ctx c).invalBusy).map (fun c => Instr.invalidationComplete c)
    ++ ((List.range 64).filter fun c => (s.ctx c).v && (s.ctx c).dead && !(s.ctx c).recl && !draining s c).map (fun c => Instr.contextReclamation c)
    ++ ((List.range 64).filter fun c =>
          let x := s.ctx c
          x.wdogLimit != 0 && hasResident s c && decide (x.wdogStart + x.wdogLimit * 65536 ≤ s.cycle)).map
        (fun c => Instr.watchdogExpiry c)

/-- Every move the device can make of itself. -/
def allMoves (s : State) : List Move :=
  wordMoves s ++ serveMoves s ++ evictMoves s ++ recallMoves s
    ++ (quireMoves s ++ memoryMoves s ++ folioMoves s ++ engineMoves s ++ graphicsMoves s ++ contextMoves s).map Move.event

/-- The default next move: each in turn (DESIGN CHOICE, log 3). -/
def defaultMove (s : State) : Option Move :=
  let l := allMoves s
  l[s.turn % max 1 l.length]?

/-- The launch record of a program placed from outside: one folio of 16 threads, one core, code at generic address 0. -/
def placedRecord : Nat :=
  setField (setField (setField (setField (setField (setField (setField (setField (setField 0 159 128 1) 175 160 1) 191 176 1) 208 192 16)
    221 214 255) 226 224 1) 230 227 1) 236 234 4) 287 256 1024

/-- The slot it runs in. -/
def placedSlot : Slot := { core := 0, lane := 0, q := 0 }

/-- Tables that map generic page 0 to the 64 KiB at physical 0x1_0000, readable, writable, executable and open (R28 to R32). -/
def placedTables : List (Nat × Byte) :=
  cellsAt 0x1000 (bytesOf 8 (0x2000 + 3)) ++ cellsAt 0x2000 (bytesOf 8 (0x3000 + 3)) ++ cellsAt 0x3000 (bytesOf 8 (0x4000 + 3))
    ++ cellsAt 0x4000 (bytesOf 8 (0x5000 + 3)) ++ cellsAt 0x5000 (bytesOf 8 (0x10000 + 0x2E1))

/-- Its folio, running. -/
def placedFolio (n : Nat) : Folio :=
  { id := n + 1, node := n, ctx := 0, rcd := placedRecord, recAddr := 0, recSlot := 0, fid := 0, stage := .compute, pass := 0
    tile := 0, st := .running, cores := [0], seats := [(placedSlot, 0)], scr := [], win := [], fifos := [{ ring := [] }]
    bars := [], tags := [], ringN := 0, fbar := [], mverts := [], mprims := [], vc := 0, pc := 0, start := [], preempt := false }

/-- Its node, RUNNING and wholly placed. -/
def placedNode (n : Nat) : Node :=
  { id := n, ctx := 0, slot := 0, addr := 0, rcd := placedRecord, index := some 0, tgBase := 0, hsize := 4, qsize := 0
    dep := 0, ready := some 0, nextFid := 1, requeued := [], pass := none, failed := none, gang := [], fin := 0 }

/-- The rally that runs its first word. -/
def placedRally : Rally :=
  { lead := List.range 16, depth := 0, head := 0, next := 0, words := 0, begun := 0, sweep := 0, stall := 0, issues := [] }

end Sys2Proof.Machine
end

