-- ==== Sys2Proof/Machine/SoftError.lean ====
section
/-! DEFINITION. Errors of on-chip stores and of device memory (R31, R73, R411, R413, R414). Nothing in the device makes one: an
error strikes when the agenda says so, at the moment at which it is detected (log 67). -/

namespace Sys2Proof.Machine

/-- A corrected-error counter counts, saturating (R414). -/
def countCorrected (s : State) (unit : Nat) : State :=
  { s with corrected := s.corrected.modify unit fun x => if x = 0xFFFFFFFF then x else x + 1 }

/-- An error record to the master that owns the context, else to the management master (R73, R412, R413); AGENT is the gathering
for a unit of a gathering, 0xFF for the L2, the memory and the tables. -/
def softRecord (s : State) (cls unit g : Nat) (c : Option Nat) (addr : Nat) : State :=
  errorRecord s (errorMaster s c) cls unit (if unit ≤ 5 then g else 0xFF) c addr

/-- Threads meet an uncorrectable error at a word: members abort with FAULT, the others trap UNCORRECTABLE (R73, R187, R398). -/
def strikeThreads (s : State) (slot : Slot) (pc : DWord) (ts : List Nat) (reason va : Nat) : State :=
  let mem := ts.filter fun t => ((s.quire slot).map fun q => q.member t).getD false
  let s1 := s.setQuire slot fun q => mem.foldl (fun q t => abortThread q t 5 (reason * 2 ^ 24 + 0x12 * 2 ^ 16 + 5)) q
  takeTrap s1 slot pc 0x12 (ts.filter fun t => !mem.contains t) 0 reason va

/-- The next word of a rally is one that a trap of any thread leaves without effect: a cross-thread one (R315), or a copy word, whose
slice is then not contributed (R149). -/
def nextWhole (s : State) (slot : Slot) (q : Quire) (r : Rally) : Bool :=
  match (fetchWord s slot q.ctx r.next.toNat).2 with
  | .ok x =>
    match readWord (BitVec.ofNat 64 x) with
    | .ok i => ((wordInfo (fifoBytes (s.rcdOf slot) / 4) i).op.map fun op => isCross op || (decide (0x1A0 ≤ op) && decide (op < 0x1B0))).getD false
    | .error _ => false
  | .error _ => false

/-- The threads that are left go past such a word, of which no thread's destination is written (R315, R149). -/
def passWord (s : State) (slot : Slot) : State :=
  match issueWord s slot false with
  | (s1, some _) => finishWord { s1 with cur := s1.cur.map fun c => { c with act := [] } }
  | (s1, none) => s1

/-- The active threads of the next word of a rally: those of its leading set at which a guard is true (R172). -/
def nextActive (s : State) (slot : Slot) (q : Quire) (r : Rally) : List Nat :=
  match (fetchWord s slot q.ctx r.next.toNat).2 with
  | .ok x =>
    match readWord (BitVec.ofNat 64 x) with
    | .ok i => r.lead.filter fun t => (wordInfo (fifoBytes (s.rcdOf slot) / 4) i).strands.any (guardTrue q [] t)
    | .error _ => []
  | .error _ => []

/-- The next word of a quire's rally reads a damaged unit, or an access of it needs damaged bytes: before it has any effect,
threads `ts` of its leading set are struck (R73, R398, R411), every active
one by an error of the scalar file; a cross-thread or copy word then has no effect on the others (R315, R149). -/
def strikeWord (s : State) (slot : Slot) (scalar : Bool) (ts : List Nat) (reason va : Nat) (note : State → State) : State :=
  match s.quire slot with
  | none => s
  | some q =>
    match q.rally with
    | none => s
    | some r =>
      let hit := (if scalar then nextActive s slot q r else ts).filter fun t => r.lead.contains t && thGet q t false (·.alive)
      if hit = [] ∨ (s.ctx q.ctx).dead ∨ (q.wait.map fun w => w.why != .again).getD false then s
      else
        let s1 := afterTrap (strikeThreads (note s) slot r.next hit.dedup reason va) slot
        if nextWhole s slot q r && ((s1.quire slot).bind (·.rally)).isSome then passWord s1 slot else s1

/-- A parked access is struck at its replay (R41): its threads trap at the next rally head. -/
def strikeParked (s : State) (slot : Slot) (seq t unit addr : Nat) : State :=
  match s.quire slot with
  | none => s
  | some q =>
    match q.log.find? fun e => e.seq == seq with
    | none => s
    | some e =>
      match e.acc.find? fun a => a.t == t && a.st == .parked with
      | none => s
      | some a =>
        let s1 := softRecord s 1 unit (gathOf slot.core) (some q.ctx) addr
        (settlePlaced s1 slot e a { acc := none, trap := some (0x12, 0), va := a.va }).setQuire slot sweepLog

/-- A dirty line of a gathering's cache is written back without its damaged 8-byte words: for them the home keeps its earlier
contents (R73). -/
def writeBackDamaged (s : State) (g line words : Nat) : State :=
  if (heldOf s g line).dirty then
    let lost (c : Loc × Byte) : Bool := lineOf c.1 == line && words.testBit (c.1 % 128 / 8)
    let c := match (homeOf s line).ckey with
      | some (.ofCtx c _) => some c
      | _ => none
    let s1 : State := { s with mem := memSetAll s.mem (s.stale.filter lost), stale := s.stale.filter fun c => !lost c }
    softRecord (tokensHome s1 g line) 2 3 g c (line * 128)
  else s

/-- A line that is dirty in the L2 is written back without its damaged words: memory keeps its earlier contents for them, which the
move names, as the state does not hold what memory holds below the L2 (R73). -/
def l2BackDamaged (s : State) (line words : Nat) (old : List Byte) : State :=
  if isDev (line * 128) ∧ (homeOf s line).ht = 64 then
    let k := (homeOf s line).ckey.getD .opened
    let c := match k with
      | .ofCtx c _ => some c
      | .opened => none
    let cells := ((cellsAt (line * 128) old).take 128).filter fun e => words.testBit (e.1 % 128 / 8)
    softRecord (physWriteAll (bumpVer (dropLeases s line) line) k cells) 2 6 0 c (line * 128)
  else s

/-- A running copy meets an uncorrectable error and ends with status FAULT (R152, R166). -/
def strikeCopy (s : State) (core tag unit va addr : Nat) : State :=
  match runningCopy s core tag with
  | none => s
  | some (fo, t) => copyFails (softRecord s 1 unit (gathOf core) (some fo.ctx) addr) core fo t va badData

/-- B of a bench entry meets an uncorrectable error: its quire traps, with those of every entry of the pass under way that shares
it (R384). -/
def strikeBench (s : State) (g id unit va addr : Nat) : State :=
  match (s.gath g).bench.find? fun b => b.id == id with
  | none => s
  | some b =>
    let s1 := softRecord s 1 unit g ((s.quire b.slot).map (·.ctx)) addr
    match (s1.gath g).passNow.filter fun p => p.1.contains id with
    | some p =>
      benchTraps (s1.setGath g fun x => { x with passNow := none }) g ((s1.gath g).bench.filter fun x => p.1.contains x.id) 0x12 0 va
    | none => benchTrap s1 g b 0x12 0 va

/-- An error strikes. -/
def softError (e : SoftErr) (s : State) : State :=
  match e with
  | .corrected unit => countCorrected s unit
  | .copyLost w line unit =>
    countCorrected { s with leases := s.leases.filter fun l => !(l.at_ == w && l.line == line) } unit
  | .tlbLost none g c page unit =>
    countCorrected (s.setGath g fun x => { x with tlb := x.tlb.filter fun e => !(e.ctx == c && e.page == page) }) unit
  | .tlbLost (some k) _ c page unit =>
    countCorrected (s.setCore k fun x => { x with tlb := x.tlb.filter fun e => !(e.ctx == c && e.page == page) }) unit
  | .recordLost g c addr unit =>
    countCorrected (s.setGath g fun x => { x with recs := x.recs.filter fun e => !(e.ctx == c && e.addr == addr) }) unit
  | .word q ts unit va addr =>
    strikeWord s q (unit == 1) ts 0 va fun s => softRecord s 1 unit (gathOf q.core) ((s.quire q).map (·.ctx)) addr
  | .walk c page addr => { s with badWalks := s.badWalks ++ [(c, page, addr)] }
  | .read word unit => { s with badReads := s.badReads ++ [(word, unit)] }
  | .parked q seq t unit addr => strikeParked s q seq t unit addr
  | .buffer q t addr =>
    match s.quire q with
    | some x =>
      if x.member t then
        softRecord (s.setQuire q fun y => abortThread y t 5 (0x12 * 2 ^ 16 + 5)) 1 5 (gathOf q.core) (some x.ctx) addr
      else s
    | none => s
  | .writeBack g line words => writeBackDamaged s g line words
  | .l2Back line words old => l2BackDamaged s line words old
  | .copy core tag unit va addr => strikeCopy s core tag unit va addr
  | .bench g id unit va addr => strikeBench s g id unit va addr

end Sys2Proof.Machine
end

