-- ==== Sys2Proof/Machine/Step.lean ====
section
/-! DEFINITION. One step of the device: the next move of the agenda, or of the default order. -/

namespace Sys2Proof.Machine

/-- Issue a word of a quire and execute its instruction. -/
def stepWord (s : State) (q : Slot) (lazy : Bool) : Host.Outcome State Fault Refusal :=
  match issueWord s q lazy with
  | (s1, none) => .next s1
  | (s1, some x) =>
    match runWord x s1 with
    | .next s2 => .next (finishWord s2)
    | .fault e => .fault e
    | .refused e => .refused e

/-- Make one move. -/
def runMove (m : Move) (s : State) : Host.Outcome State Fault Refusal :=
  match m with
  | .word q lazy => stepWord s q lazy
  | .walked q c page r =>
    match stepWord { s with walked := some (q.core, c, page, r) } q false with
    | .next s1 => .next { s1 with walked := none }
    | x => x
  | .event e => exec e { s with cycle := s.cycle + 1 }
  | .serve q => .next { serveQuire s q with cycle := s.cycle + 1 }
  | .access q seq t piece => .next { serveOne s q seq t piece with cycle := s.cycle + 1 }
  | .outside l bytes => .next { outsideStore s l bytes with cycle := s.cycle + 1 }
  | .benchUnit g u => .next { benchStep s g (· == u) with cycle := s.cycle + 1 }
  | .copyRead core tag i => .next { copyStep core tag i none s with cycle := s.cycle + 1 }
  | .copyWrite core tag i d => .next { copyStep core tag i (some d) s with cycle := s.cycle + 1 }
  | .copyArrive core tag dest => .next { copyArrive core tag dest s with cycle := s.cycle + 1 }
  | .streamBlock g i => .next { streamBlock g i s with cycle := s.cycle + 1 }
  | .copyIndex core tag b r => .next { copyIndex core tag b r s with cycle := s.cycle + 1 }
  | .evictCache g line => .next { evictCache s g line with cycle := s.cycle + 1 }
  | .recall line => .next { recallLine s line with cycle := s.cycle + 1 }
  | .recallAnswer n => .next { recallAnswer s n with cycle := s.cycle + 1 }
  | .evictBridge line => .next { evictBridge s line with cycle := s.cycle + 1 }
  | .soft e => .next { softError e s with cycle := s.cycle + 1 }

/-- What a move leaves: the L2's sets fit their ways (R70), and the rally slots that have become ready by then are noted (R212). -/
def settled (o : Host.Outcome State Fault Refusal) : Host.Outcome State Fault Refusal :=
  match o with
  | .next s => .next (noteReady (fitL2 s))
  | .fault e => .fault e
  | .refused e => .refused e

/-- One step: a move, and what the device notes after it. -/
def step (s : State) : Host.Outcome State Fault Refusal :=
  match s.agenda with
  | m :: rest => settled (runMove m { s with agenda := rest })
  | [] =>
    match defaultMove s with
    | some m => settled (runMove m { s with turn := s.turn + 1 })
    | none => settled (.next { s with cycle := s.cycle + 1 })

/-- A program's first word is placed and is the next thing to run (log 28): the device is up, context 0 is assigned and has
tables, one folio of 16 threads runs on core 0 with its rally at generic address 0, and the word lies there. `nbits` of an
instruction word is at most 64: every word is one 8-byte word. -/
def State.withFetchWord (s : State) (_nbits w : Nat) : State :=
  let n := s.nextId
  let s1 : State :=
    { s with
      boot := 3, fwOk := true, ready := true, installed := max s.installed 0x100000, nextId := n + 2, cur := none
      mem := memSetAll s.mem (placedTables ++ cellsAt 0x10000 (bytesOf 8 w))
      keyTags := s.keyTags.filter fun e => !(decide (e.1 < 0x2000)), stale := s.stale.filter fun e => !(decide (e.1 < 0x20000))
      nodes := placedNode n :: s.nodes, folios := placedFolio n :: s.folios, agenda := [.word placedSlot false] }
  let s2 := s1.setCtx 0 fun x => { x with v := true, master := 0, ptbase := 0x1001, ran := true, dead := false }
  let s3 := s2.setGath 0 fun g =>
    { g with banks := takeBanks (n + 1) false 2 g.banks |>.map fun b => match b with | .drain o f => if f then .fifo o else .scratch o | x => x, tlb := [] }
  let q := startQuire s3 (placedFolio n) (placedSlot, 0)
  { (s3.setCore 0 fun c => { c with tlb := [] }) with
    quires := { q with rally := some placedRally } :: s3.quires.filter fun x => x.slot != placedSlot }

end Sys2Proof.Machine
end

