-- ==== Sys2Proof/Safety.lean ====
section
/-! DEFINITION. The terms that statements about the machine use: a word in hand, what changes in a quire and what does
not, the results of the words by the rules' tables, the forms of a family, and what an event finds and leaves. -/

namespace Sys2Proof.Machine

/-- The word `cur` is in hand in quire `q` and runs for its active threads (R172); results still under way are of older words (R257). -/
def Running (s : State) (cur : Cur) (q : Quire) : Prop :=
  s.cur = some cur ∧ cur.act ≠ [] ∧ s.quire cur.slot = some q ∧ (∀ t ∈ cur.act, t < q.th.length) ∧ ∀ v ∈ q.varp, v.seq < q.seq

/-- A quire changes in vector registers alone: register r of thread t becomes `w t r`, or keeps its value. -/
def OnlyVec (q q' : Quire) (w : Nat → Nat → Option Word) : Prop :=
  q' = { q with th := q'.th } ∧ q'.th.length = q.th.length ∧
    ∀ (t : Nat) (th : Thread), q.th[t]? = some th →
      ∃ th' : Thread, q'.th[t]? = some th' ∧ th' = { th with v := th'.v } ∧
        ∀ r : Nat, th'.v[r]? = (th.v[r]?).map fun old => (w t r).getD old

/-- A quire changes in scalar registers alone. -/
def OnlySca (q q' : Quire) (w : Nat → Option Word) : Prop :=
  q' = { q with s := q'.s } ∧ ∀ r : Nat, q'.s[r]? = (q.s[r]?).map fun old => (w r).getD old

/-- A quire changes in predicates of its threads alone. -/
def OnlyPrd (q q' : Quire) (w : Nat → Nat → Option Bool) : Prop :=
  q' = { q with th := q'.th } ∧ q'.th.length = q.th.length ∧
    ∀ (t : Nat) (th : Thread), q.th[t]? = some th →
      ∃ th' : Thread, q'.th[t]? = some th' ∧ th' = { th with pr := th'.pr } ∧
        ∀ k : Nat, k < 16 → th'.pr.getLsbD k = (w t k).getD (th.pr.getLsbD k)

/-- A quire changes in uniform predicates alone. -/
def OnlyUni (q q' : Quire) (w : Nat → Option Bool) : Prop :=
  q' = { q with q := q'.q } ∧ ∀ k : Nat, k < 8 → q'.q.getLsbD k = (w k).getD (q.q.getLsbD k)

/-- A quire changes in the control fields of threads alone: thread t becomes `f t` of itself (R174, R177). -/
def OnlyThr (q q' : Quire) (f : Nat → Thread → Thread) : Prop :=
  q' = { q with th := q'.th } ∧ q'.th.length = q.th.length ∧
    ∀ (t : Nat) (th : Thread), q.th[t]? = some th → q'.th[t]? = some (f t th)

/-- Word i of a value of several registers, the lowest first (R275). -/
def wordAt (x i : Nat) : Word := BitVec.ofNat 32 (x / 2 ^ (32 * i))

/-- A destination block of `n` registers from D is written: in each active thread's vector registers, or, under U, in
the quire's scalars with the value of the first active thread; nothing else changes (R172, R274, R275). -/
def WritesBlock (q q' : Quire) (cur : Cur) (u : Bool) (d n : Nat) (val : Nat → Nat) : Prop :=
  if u then
    OnlySca q q' fun r => if d ≤ r ∧ r < d + n then some (wordAt (val (cur.act.headD 0)) (r - d)) else none
  else
    OnlyVec q q' fun t r => if t ∈ cur.act ∧ d ≤ r ∧ r < d + n then some (wordAt (val t) (r - d)) else none

/-- Predicates are written: of each active thread, or, under U, the uniform ones with the first active thread's values;
predicate 0 and everything else keep their values (R48, R276). -/
def WritesPreds (q q' : Quire) (cur : Cur) (u : Bool) (val : Nat → Nat → Option Bool) : Prop :=
  if u then OnlyUni q q' fun k => if k = 0 then none else val (cur.act.headD 0) k
  else OnlyPrd q q' fun t k => if t ∈ cur.act ∧ k ≠ 0 then val t k else none

/-- The source block of a word as thread t reads it, n registers as one number (R275). -/
abbrev src (q : Quire) (cur : Cur) (scalar : Bool) (t : Nat) (r : BitVec 8) (n : Nat) : Nat := block q cur scalar t r.toNat n

/-- The same where every thread reads a scalar block alike: its one value, as the first active thread reads it (R306, R317, R318). -/
abbrev srcAll (q : Quire) (cur : Cur) (scalar : Bool) (t : Nat) (r : BitVec 8) (n : Nat) : Nat :=
  block q cur scalar (if scalar then cur.act.headD t else t) r.toNat n

/-- A source register as a word. -/
abbrev srcW (q : Quire) (cur : Cur) (scalar : Bool) (t : Nat) (r : BitVec 8) : Word := BitVec.ofNat 32 (block q cur scalar t r.toNat 1)

/-- Where a word's result goes and what it is: U, the first register, the registers it takes, the value for a thread. -/
structure Result where
  u : Bool
  d : Nat
  n : Nat
  val : Nat → Nat

/-- The byte at a location as a route 0 read of a gathering binds it (R109). -/
abbrev byteSeen (s : State) (g : Option Nat) (k : Key) (l : Loc) : Byte := readByte s g k l

/-! Results of the arithmetic words, as the rules' tables give them. -/

/-- A class-0 source as a number: unsigned under UNS, else two's complement (R280). -/
def ruleInt (uns : Bool) (x : Word) : Int := if uns then (x.toNat : Int) else x.toInt

/-- IntRes of R280: the exact result clamped under SAT, else its low 32 bits. -/
def ruleRes (sat uns : Bool) (x : Int) : Nat :=
  (if sat then (if uns then BitVec.ofInt 32 (max 0 (min x 4294967295)) else BitVec.ofInt 32 (max (-2147483648) (min x 2147483647)))
   else BitVec.ofInt 32 x : Word).toNat

/-- Bit i of BOP3 as an or of the minterms whose bit of the table is set (R283). -/
def ruleBop3 (lut : BitVec 8) (a b d : Word) : Word :=
  (List.range 8).foldl
    (fun x m =>
      if lut.getLsbD m then
        x ||| ((if m / 4 = 1 then a else ~~~a) &&& (if m / 2 % 2 = 1 then b else ~~~b) &&& (if m % 2 = 1 then d else ~~~d))
      else x) 0

/-- BFX (R285). -/
def ruleBfx (sgn : Bool) (a b : Word) : Word :=
  let pos := b.toNat % 256
  let len := min (b.toNat / 256 % 256) (32 - pos)
  if 32 ≤ pos ∨ b.toNat / 256 % 256 = 0 then 0
  else if sgn then (a.extractLsb' pos len).signExtend 32 else (a.extractLsb' pos len).setWidth 32

/-- BFI: the bits of C from pos up are replaced by the low bits of A (R285). -/
def ruleBfi (a b c : Word) : Word :=
  let pos := b.toNat % 256
  let len := min (b.toNat / 256 % 256) (32 - pos)
  let mask : Word := BitVec.ofNat 32 ((2 ^ len - 1) * 2 ^ pos)
  if 32 ≤ pos ∨ b.toNat / 256 % 256 = 0 then c else (c &&& ~~~mask) ||| ((a <<< pos) &&& mask)

/-- One byte of BYPR (R285). -/
def ruleByte (a b c : Word) (i : Nat) : Nat :=
  let sel := c.toNat / 16 ^ i % 16
  let v : Nat := (if sel % 8 < 4 then a.toNat / 256 ^ (sel % 4) else b.toNat / 256 ^ (sel % 4)) % 256
  if sel < 8 then v else if 128 ≤ v then 255 else 0

/-- The number whose bit k, below n, is `f k`. -/
def bitsWhere (n : Nat) (f : Nat → Bool) : Nat := ((List.range n).map fun k => if f k then 2 ^ k else 0).sum

/-- The results of class 0 (R280, R282 to R286): the destination, how many registers it takes, and the value for a thread. -/
def intRule (i : Instr) (q : Quire) (cur : Cur) : Option Result :=
  match i with
  | .iadd _ f => some ⟨f.u, f.d.toNat, 1, fun t => ruleRes (clsBit f 1) (clsBit f 0)
      (ruleInt (clsBit f 0) (srcW q cur f.sa t f.a) + ruleInt (clsBit f 0) (srcW q cur f.sb t f.b))⟩
  | .isub _ f => some ⟨f.u, f.d.toNat, 1, fun t => ruleRes (clsBit f 1) (clsBit f 0)
      (ruleInt (clsBit f 0) (srcW q cur f.sa t f.a) - ruleInt (clsBit f 0) (srcW q cur f.sb t f.b))⟩
  | .ineg _ f => some ⟨f.u, f.d.toNat, 1, fun t => ruleRes (clsBit f 1) false (-(srcW q cur f.sa t f.a).toInt)⟩
  | .iabs _ f => some ⟨f.u, f.d.toNat, 1, fun t => ruleRes (clsBit f 1) false |(srcW q cur f.sa t f.a).toInt|⟩
  | .imul _ f => some ⟨f.u, f.d.toNat, 1, fun t => ruleRes (clsBit f 1) (clsBit f 0)
      (ruleInt (clsBit f 0) (srcW q cur f.sa t f.a) * ruleInt (clsBit f 0) (srcW q cur f.sb t f.b))⟩
  | .imulh _ f => some ⟨f.u, f.d.toNat, 1, fun t => ((BitVec.ofInt 64
      (ruleInt (clsBit f 0) (srcW q cur f.sa t f.a) * ruleInt (clsBit f 0) (srcW q cur f.sb t f.b))).extractLsb' 32 32).toNat⟩
  | .imad _ f => some ⟨f.u, f.d.toNat, 1, fun t => ruleRes (clsBit f 1) (clsBit f 0)
      (ruleInt (clsBit f 0) (srcW q cur f.sa t f.a) * ruleInt (clsBit f 0) (srcW q cur f.sb t f.b)
        + ruleInt (clsBit f 0) (srcW q cur f.sc t f.c))⟩
  | .imadw _ f => some ⟨f.u, f.d.toNat, 2, fun t => (BitVec.ofInt 64
      (ruleInt (clsBit f 0) (srcW q cur f.sa t f.a) * ruleInt (clsBit f 0) (srcW q cur f.sb t f.b)
        + ruleInt (clsBit f 0) (srcW q cur f.sc t f.c))).toNat⟩
  | .imin _ f => some ⟨f.u, f.d.toNat, 1, fun t =>
      if ruleInt (clsBit f 0) (srcW q cur f.sa t f.a) ≤ ruleInt (clsBit f 0) (srcW q cur f.sb t f.b)
      then (srcW q cur f.sa t f.a).toNat else (srcW q cur f.sb t f.b).toNat⟩
  | .imax _ f => some ⟨f.u, f.d.toNat, 1, fun t =>
      if ruleInt (clsBit f 0) (srcW q cur f.sa t f.a) ≤ ruleInt (clsBit f 0) (srcW q cur f.sb t f.b)
      then (srcW q cur f.sb t f.b).toNat else (srcW q cur f.sa t f.a).toNat⟩
  | .isad _ f => some ⟨f.u, f.d.toNat, 1, fun t => (BitVec.ofInt 32
      (|ruleInt (clsBit f 0) (srcW q cur f.sa t f.a) - ruleInt (clsBit f 0) (srcW q cur f.sb t f.b)|
        + (srcW q cur f.sc t f.c).toNat) : Word).toNat⟩
  | .andBits _ f => some ⟨f.u, f.d.toNat, 1, fun t => (srcW q cur f.sa t f.a &&& srcW q cur f.sb t f.b).toNat⟩
  | .orBits _ f => some ⟨f.u, f.d.toNat, 1, fun t => (srcW q cur f.sa t f.a ||| srcW q cur f.sb t f.b).toNat⟩
  | .xorBits _ f => some ⟨f.u, f.d.toNat, 1, fun t => (srcW q cur f.sa t f.a ^^^ srcW q cur f.sb t f.b).toNat⟩
  | .notBits _ f => some ⟨f.u, f.d.toNat, 1, fun t => (~~~ srcW q cur f.sa t f.a).toNat⟩
  | .bop3 _ f => some ⟨f.u, f.d.toNat, 1, fun t =>
      (ruleBop3 f.c (srcW q cur f.sa t f.a) (srcW q cur f.sb t f.b) (srcW q cur f.u t f.d)).toNat⟩
  | .shl _ f => some ⟨f.u, f.d.toNat, 1, fun t => (srcW q cur f.sa t f.a <<< ((srcW q cur f.sb t f.b).toNat % 256)).toNat⟩
  | .shr _ f => some ⟨f.u, f.d.toNat, 1, fun t => (srcW q cur f.sa t f.a >>> ((srcW q cur f.sb t f.b).toNat % 256)).toNat⟩
  | .sar _ f => some ⟨f.u, f.d.toNat, 1, fun t =>
      ((srcW q cur f.sa t f.a).sshiftRight ((srcW q cur f.sb t f.b).toNat % 256)).toNat⟩
  | .rotl _ f => some ⟨f.u, f.d.toNat, 1, fun t =>
      ((srcW q cur f.sa t f.a).rotateLeft ((srcW q cur f.sb t f.b).toNat % 32)).toNat⟩
  | .shf _ f => some ⟨f.u, f.d.toNat, 1, fun t =>
      let h : DWord := srcW q cur f.sa t f.a ++ srcW q cur f.sb t f.b
      let n := min ((srcW q cur f.sc t f.c).toNat % 256) 32
      (if clsBit f 0 then (h >>> n).extractLsb' 0 32 else (h <<< n).extractLsb' 32 32).toNat⟩
  | .popc _ f => some ⟨f.u, f.d.toNat, 1, fun t =>
      (List.range (w64 f)).countP fun k => (src q cur f.sa t f.a (w64 f / 32)).testBit k⟩
  | .clz _ f => some ⟨f.u, f.d.toNat, 1, fun t =>
      (List.range (w64 f)).countP fun k => src q cur f.sa t f.a (w64 f / 32) < 2 ^ k⟩
  | .ctz _ f => some ⟨f.u, f.d.toNat, 1, fun t =>
      (List.range (w64 f)).countP fun k => src q cur f.sa t f.a (w64 f / 32) % 2 ^ (k + 1) = 0⟩
  | .brev _ f => some ⟨f.u, f.d.toNat, w64 f / 32, fun t =>
      bitsWhere (w64 f) fun k => (src q cur f.sa t f.a (w64 f / 32)).testBit (w64 f - 1 - k)⟩
  | .bfx _ f => some ⟨f.u, f.d.toNat, 1, fun t =>
      (ruleBfx (clsBit f 0) (srcW q cur f.sa t f.a) (srcW q cur f.sb t f.b)).toNat⟩
  | .bfi _ f => some ⟨f.u, f.d.toNat, 1, fun t =>
      (ruleBfi (srcW q cur f.sa t f.a) (srcW q cur f.sb t f.b) (srcW q cur f.sc t f.c)).toNat⟩
  | .bypr _ f => some ⟨f.u, f.d.toNat, 1, fun t =>
      ((List.range 4).map fun k =>
        ruleByte (srcW q cur f.sa t f.a) (srcW q cur f.sb t f.b) (srcW q cur f.sc t f.c) k * 256 ^ k).sum⟩
  | .bilv _ f => some ⟨f.u, f.d.toNat, 1, fun t =>
      if clsBit f 0 then
        bitsWhere 30 fun k =>
          (if k % 3 = 0 then srcW q cur f.sa t f.a else if k % 3 = 1 then srcW q cur f.sb t f.b
            else srcW q cur f.sc t f.c).getLsbD (k / 3)
      else bitsWhere 32 fun k => (if k % 2 = 0 then srcW q cur f.sa t f.a else srcW q cur f.sb t f.b).getLsbD (k / 2)⟩
  | .bdlv _ f => some ⟨f.u, f.d.toNat, 1, fun t =>
      let k := (srcW q cur f.sb t f.b).toNat % 256
      if clsBit f 0 then bitsWhere 10 fun j => decide (k < 3) && (srcW q cur f.sa t f.a).getLsbD (3 * j + k)
      else bitsWhere 16 fun j => decide (k < 2) && (srcW q cur f.sa t f.a).getLsbD (2 * j + k)⟩
  | .aadd _ f => some ⟨f.u, f.d.toNat, 2, fun t =>
      (BitVec.ofInt 64 (src q cur f.sa t f.a 2 + ruleInt (clsBit f 0) (srcW q cur f.sb t f.b))).toNat⟩
  | .amad _ f => some ⟨f.u, f.d.toNat, 2, fun t =>
      (BitVec.ofInt 64 (ruleInt (clsBit f 0) (srcW q cur f.sa t f.a) * ruleInt (clsBit f 0) (srcW q cur f.sb t f.b)
        + src q cur f.sc t f.c 2)).toNat⟩
  | .iaddI _ f => some ⟨f.u, f.d.toNat, 1, fun t => ruleRes (clbBit f 1) (clbBit f 0)
      (ruleInt (clbBit f 0) (srcW q cur f.sa t f.a) + ruleInt (clbBit f 0) (f.imm.signExtend 32))⟩
  | .imulI _ f => some ⟨f.u, f.d.toNat, 1, fun t => ruleRes (clbBit f 1) (clbBit f 0)
      (ruleInt (clbBit f 0) (srcW q cur f.sa t f.a) * ruleInt (clbBit f 0) (f.imm.signExtend 32))⟩
  | .andI _ f => some ⟨f.u, f.d.toNat, 1, fun t => (srcW q cur f.sa t f.a &&& f.imm.signExtend 32).toNat⟩
  | .orI _ f => some ⟨f.u, f.d.toNat, 1, fun t => (srcW q cur f.sa t f.a ||| f.imm.signExtend 32).toNat⟩
  | .xorI _ f => some ⟨f.u, f.d.toNat, 1, fun t => (srcW q cur f.sa t f.a ^^^ f.imm.signExtend 32).toNat⟩
  | _ => none

/-- FRND, FFRAC and the arithmetic of one format under FTZ and a rounding mode, as FpOp of R287 gives it. -/
def fp1Rule (m : Fmt) (ftz : Bool) (rm : Nat) (g : Fpv → Fpv) (a : Nat) : Nat :=
  flush m ftz (fpRound m rm (g (fpRead m (flush m ftz a))))
/-- The same for two sources. -/
def fp2Rule (m : Fmt) (ftz : Bool) (rm : Nat) (g : Fpv → Fpv → Fpv) (a b : Nat) : Nat :=
  flush m ftz (fpRound m rm (g (fpRead m (flush m ftz a)) (fpRead m (flush m ftz b))))
/-- A × B + C rounded once. -/
def fmaRule (m : Fmt) (ftz : Bool) (rm a b c : Nat) : Nat :=
  flush m ftz (fpRound m rm (fpAdd rm (fpMul (fpRead m (flush m ftz a)) (fpRead m (flush m ftz b))) (fpRead m (flush m ftz c))))
/-- Element k of `w` bits of a block. -/
def elem (w k x : Nat) : Nat := x / 2 ^ (w * k) % 2 ^ w
/-- `n` elements of `w` bits, each computed from its number. -/
def elems (w n : Nat) (g : Nat → Nat) : Nat := ((List.range n).map fun k => g k * 2 ^ (w * k)).sum

/-- The results of class 1 that go to registers (R287 to R291): FP32, its pair forms, transcendentals, FP64. -/
def floatRule (i : Instr) (q : Quire) (cur : Cur) : Option Result :=
  match i with
  | .fadd _ f => some ⟨f.u, f.d.toNat, 1, fun t => fp2Rule fp32 q.ftz (rnd f) (fpAdd (rnd f)) (src q cur f.sa t f.a 1) (src q cur f.sb t f.b 1)⟩
  | .fmul _ f => some ⟨f.u, f.d.toNat, 1, fun t => fp2Rule fp32 q.ftz (rnd f) fpMul (src q cur f.sa t f.a 1) (src q cur f.sb t f.b 1)⟩
  | .ffma _ f => some ⟨f.u, f.d.toNat, 1, fun t => fmaRule fp32 q.ftz (rnd f) (src q cur f.sa t f.a 1) (src q cur f.sb t f.b 1) (src q cur f.sc t f.c 1)⟩
  | .fmin _ f => some ⟨f.u, f.d.toNat, 1, fun t => fp2Rule fp32 q.ftz 0 (fpMinMax false false) (src q cur f.sa t f.a 1) (src q cur f.sb t f.b 1)⟩
  | .fmax _ f => some ⟨f.u, f.d.toNat, 1, fun t => fp2Rule fp32 q.ftz 0 (fpMinMax true false) (src q cur f.sa t f.a 1) (src q cur f.sb t f.b 1)⟩
  | .fminn _ f => some ⟨f.u, f.d.toNat, 1, fun t => fp2Rule fp32 q.ftz 0 (fpMinMax false true) (src q cur f.sa t f.a 1) (src q cur f.sb t f.b 1)⟩
  | .fmaxn _ f => some ⟨f.u, f.d.toNat, 1, fun t => fp2Rule fp32 q.ftz 0 (fpMinMax true true) (src q cur f.sa t f.a 1) (src q cur f.sb t f.b 1)⟩
  | .fclass _ f => some ⟨f.u, f.d.toNat, 1, fun t =>
      if rnd f = 0 then fpClass fp32 (src q cur f.sa t f.a 1) else if rnd f = 1 then fpClass fp64 (src q cur f.sa t f.a 2)
      else if rnd f = 2 then fpClass fp16 (elem 16 0 (src q cur f.sa t f.a 1)) else fpClass bf16 (elem 16 0 (src q cur f.sa t f.a 1))⟩
  | .frnd _ f => some ⟨f.u, f.d.toNat, 1, fun t => fp1Rule fp32 q.ftz (rnd f) (fpIntegral (rnd f)) (src q cur f.sa t f.a 1)⟩
  | .ffrac _ f => some ⟨f.u, f.d.toNat, 1, fun t => fp1Rule fp32 q.ftz 0 fpFrac (src q cur f.sa t f.a 1)⟩
  | .frcp _ f => some ⟨f.u, f.d.toNat, 1, fun t => flush fp32 q.ftz (trRcp (fpRead fp32 (flush fp32 q.ftz (src q cur f.sa t f.a 1))))⟩
  | .frsq _ f => some ⟨f.u, f.d.toNat, 1, fun t => flush fp32 q.ftz (trRsq (fpRead fp32 (flush fp32 q.ftz (src q cur f.sa t f.a 1))))⟩
  | .fsqrt _ f => some ⟨f.u, f.d.toNat, 1, fun t => flush fp32 q.ftz (trSqrt (fpRead fp32 (flush fp32 q.ftz (src q cur f.sa t f.a 1))))⟩
  | .fexp2 _ f => some ⟨f.u, f.d.toNat, 1, fun t => flush fp32 q.ftz (trExp2 (fpRead fp32 (flush fp32 q.ftz (src q cur f.sa t f.a 1))))⟩
  | .flog2 _ f => some ⟨f.u, f.d.toNat, 1, fun t => flush fp32 q.ftz (trLog2 (fpRead fp32 (flush fp32 q.ftz (src q cur f.sa t f.a 1))))⟩
  | .fsin _ f => some ⟨f.u, f.d.toNat, 1, fun t => flush fp32 q.ftz (trTrig false (fpRead fp32 (flush fp32 q.ftz (src q cur f.sa t f.a 1))))⟩
  | .fcos _ f => some ⟨f.u, f.d.toNat, 1, fun t => flush fp32 q.ftz (trTrig true (fpRead fp32 (flush fp32 q.ftz (src q cur f.sa t f.a 1))))⟩
  | .ftanh _ f => some ⟨f.u, f.d.toNat, 1, fun t => flush fp32 q.ftz (trTanh (fpRead fp32 (flush fp32 q.ftz (src q cur f.sa t f.a 1))))⟩
  | .dadd _ f => some ⟨f.u, f.d.toNat, 2, fun t => fp2Rule fp64 false (rnd f) (fpAdd (rnd f)) (src q cur f.sa t f.a 2) (src q cur f.sb t f.b 2)⟩
  | .dmul _ f => some ⟨f.u, f.d.toNat, 2, fun t => fp2Rule fp64 false (rnd f) fpMul (src q cur f.sa t f.a 2) (src q cur f.sb t f.b 2)⟩
  | .dfma _ f => some ⟨f.u, f.d.toNat, 2, fun t => fmaRule fp64 false (rnd f) (src q cur f.sa t f.a 2) (src q cur f.sb t f.b 2) (src q cur f.sc t f.c 2)⟩
  | .faddX2 _ f => some ⟨f.u, f.d.toNat, 2, fun t => elems 32 2 fun k =>
      fp2Rule fp32 q.ftz (rnd f) (fpAdd (rnd f)) (elem 32 k (src q cur f.sa t f.a 2)) (elem 32 k (src q cur f.sb t f.b 2))⟩
  | .fmulX2 _ f => some ⟨f.u, f.d.toNat, 2, fun t => elems 32 2 fun k =>
      fp2Rule fp32 q.ftz (rnd f) fpMul (elem 32 k (src q cur f.sa t f.a 2)) (elem 32 k (src q cur f.sb t f.b 2))⟩
  | .ffmaX2 _ f => some ⟨f.u, f.d.toNat, 2, fun t => elems 32 2 fun k =>
      fmaRule fp32 q.ftz (rnd f) (elem 32 k (src q cur f.sa t f.a 2)) (elem 32 k (src q cur f.sb t f.b 2)) (elem 32 k (src q cur f.sc t f.c 2))⟩
  | .fminX2 _ f => some ⟨f.u, f.d.toNat, 2, fun t => elems 32 2 fun k =>
      fp2Rule fp32 q.ftz 0 (fpMinMax false false) (elem 32 k (src q cur f.sa t f.a 2)) (elem 32 k (src q cur f.sb t f.b 2))⟩
  | .fmaxX2 _ f => some ⟨f.u, f.d.toNat, 2, fun t => elems 32 2 fun k =>
      fp2Rule fp32 q.ftz 0 (fpMinMax true false) (elem 32 k (src q cur f.sa t f.a 2)) (elem 32 k (src q cur f.sb t f.b 2))⟩
  | .fminnX2 _ f => some ⟨f.u, f.d.toNat, 2, fun t => elems 32 2 fun k =>
      fp2Rule fp32 q.ftz 0 (fpMinMax false true) (elem 32 k (src q cur f.sa t f.a 2)) (elem 32 k (src q cur f.sb t f.b 2))⟩
  | .fmaxnX2 _ f => some ⟨f.u, f.d.toNat, 2, fun t => elems 32 2 fun k =>
      fp2Rule fp32 q.ftz 0 (fpMinMax true true) (elem 32 k (src q cur f.sa t f.a 2)) (elem 32 k (src q cur f.sb t f.b 2))⟩
  | .frndX2 _ f => some ⟨f.u, f.d.toNat, 2, fun t => elems 32 2 fun k =>
      fp1Rule fp32 q.ftz (rnd f) (fpIntegral (rnd f)) (elem 32 k (src q cur f.sa t f.a 2))⟩
  | .faddI _ f => some ⟨f.u, f.d.toNat, 1, fun t => fp2Rule fp32 q.ftz (rndI f) (fpAdd (rndI f)) (src q cur f.sa t f.a 1) (f.imm ++ (0 : BitVec 12)).toNat⟩
  | .fmulI _ f => some ⟨f.u, f.d.toNat, 1, fun t => fp2Rule fp32 q.ftz (rndI f) fpMul (src q cur f.sa t f.a 1) (f.imm ++ (0 : BitVec 12)).toNat⟩
  | .ffmaI _ f => some ⟨f.u, f.d.toNat, 1, fun t =>
      fmaRule fp32 q.ftz (rndI f) (src q cur f.sa t f.a 1) (f.imm ++ (0 : BitVec 12)).toNat (src q cur f.u t f.d 1)⟩
  | .fminI _ f => some ⟨f.u, f.d.toNat, 1, fun t => fp2Rule fp32 q.ftz 0 (fpMinMax false false) (src q cur f.sa t f.a 1) (f.imm ++ (0 : BitVec 12)).toNat⟩
  | .fmaxI _ f => some ⟨f.u, f.d.toNat, 1, fun t => fp2Rule fp32 q.ftz 0 (fpMinMax true false) (src q cur f.sa t f.a 1) (f.imm ++ (0 : BitVec 12)).toNat⟩
  | _ => none

/-- The results of the packed words of class 2 (R292): 16-bit elements, two or four to a block. -/
def packedRule (i : Instr) (q : Quire) (cur : Cur) : Option Result :=
  match i with
  | .hadd2 _ f => some ⟨f.u, f.d.toNat, 1, fun t => elems 16 2 fun k =>
      fp2Rule fp16 q.ftz (rnd f) (fpAdd (rnd f)) (elem 16 k (src q cur f.sa t f.a 1)) (elem 16 k (src q cur f.sb t f.b 1))⟩
  | .hmul2 _ f => some ⟨f.u, f.d.toNat, 1, fun t => elems 16 2 fun k =>
      fp2Rule fp16 q.ftz (rnd f) fpMul (elem 16 k (src q cur f.sa t f.a 1)) (elem 16 k (src q cur f.sb t f.b 1))⟩
  | .hfma2 _ f => some ⟨f.u, f.d.toNat, 1, fun t => elems 16 2 fun k =>
      fmaRule fp16 q.ftz (rnd f) (elem 16 k (src q cur f.sa t f.a 1)) (elem 16 k (src q cur f.sb t f.b 1)) (elem 16 k (src q cur f.sc t f.c 1))⟩
  | .hadd2X2 _ f => some ⟨f.u, f.d.toNat, 2, fun t => elems 16 4 fun k =>
      fp2Rule fp16 q.ftz (rnd f) (fpAdd (rnd f)) (elem 16 k (src q cur f.sa t f.a 2)) (elem 16 k (src q cur f.sb t f.b 2))⟩
  | .hmul2X2 _ f => some ⟨f.u, f.d.toNat, 2, fun t => elems 16 4 fun k =>
      fp2Rule fp16 q.ftz (rnd f) fpMul (elem 16 k (src q cur f.sa t f.a 2)) (elem 16 k (src q cur f.sb t f.b 2))⟩
  | .hfma2X2 _ f => some ⟨f.u, f.d.toNat, 2, fun t => elems 16 4 fun k =>
      fmaRule fp16 q.ftz (rnd f) (elem 16 k (src q cur f.sa t f.a 2)) (elem 16 k (src q cur f.sb t f.b 2)) (elem 16 k (src q cur f.sc t f.c 2))⟩
  | .hadd2I _ f => some ⟨f.u, f.d.toNat, 1, fun t => elems 16 2 fun k =>
      fp2Rule fp16 q.ftz (rndI f) (fpAdd (rndI f)) (elem 16 k (src q cur f.sa t f.a 1)) (f.imm.toNat % 65536)⟩
  | .hmul2I _ f => some ⟨f.u, f.d.toNat, 1, fun t => elems 16 2 fun k =>
      fp2Rule fp16 q.ftz (rndI f) fpMul (elem 16 k (src q cur f.sa t f.a 1)) (f.imm.toNat % 65536)⟩
  | .badd2 _ f => some ⟨f.u, f.d.toNat, 1, fun t => elems 16 2 fun k =>
      fp2Rule bf16 q.ftz (rnd f) (fpAdd (rnd f)) (elem 16 k (src q cur f.sa t f.a 1)) (elem 16 k (src q cur f.sb t f.b 1))⟩
  | .bmul2 _ f => some ⟨f.u, f.d.toNat, 1, fun t => elems 16 2 fun k =>
      fp2Rule bf16 q.ftz (rnd f) fpMul (elem 16 k (src q cur f.sa t f.a 1)) (elem 16 k (src q cur f.sb t f.b 1))⟩
  | .bfma2 _ f => some ⟨f.u, f.d.toNat, 1, fun t => elems 16 2 fun k =>
      fmaRule bf16 q.ftz (rnd f) (elem 16 k (src q cur f.sa t f.a 1)) (elem 16 k (src q cur f.sb t f.b 1)) (elem 16 k (src q cur f.sc t f.c 1))⟩
  | .badd2X2 _ f => some ⟨f.u, f.d.toNat, 2, fun t => elems 16 4 fun k =>
      fp2Rule bf16 q.ftz (rnd f) (fpAdd (rnd f)) (elem 16 k (src q cur f.sa t f.a 2)) (elem 16 k (src q cur f.sb t f.b 2))⟩
  | .bmul2X2 _ f => some ⟨f.u, f.d.toNat, 2, fun t => elems 16 4 fun k =>
      fp2Rule bf16 q.ftz (rnd f) fpMul (elem 16 k (src q cur f.sa t f.a 2)) (elem 16 k (src q cur f.sb t f.b 2))⟩
  | .bfma2X2 _ f => some ⟨f.u, f.d.toNat, 2, fun t => elems 16 4 fun k =>
      fmaRule bf16 q.ftz (rnd f) (elem 16 k (src q cur f.sa t f.a 2)) (elem 16 k (src q cur f.sb t f.b 2)) (elem 16 k (src q cur f.sc t f.c 2))⟩
  | .badd2I _ f => some ⟨f.u, f.d.toNat, 1, fun t => elems 16 2 fun k =>
      fp2Rule bf16 q.ftz (rndI f) (fpAdd (rndI f)) (elem 16 k (src q cur f.sa t f.a 1)) (f.imm.toNat % 65536)⟩
  | .bmul2I _ f => some ⟨f.u, f.d.toNat, 1, fun t => elems 16 2 fun k =>
      fp2Rule bf16 q.ftz (rndI f) fpMul (elem 16 k (src q cur f.sa t f.a 1)) (f.imm.toNat % 65536)⟩
  | .hmin2 _ f => some ⟨f.u, f.d.toNat, 1, fun t => elems 16 2 fun k =>
      fp2Rule (if f.cls.getLsbD 2 then bf16 else fp16) q.ftz 0 (fpMinMax false false) (elem 16 k (src q cur f.sa t f.a 1)) (elem 16 k (src q cur f.sb t f.b 1))⟩
  | .hmax2 _ f => some ⟨f.u, f.d.toNat, 1, fun t => elems 16 2 fun k =>
      fp2Rule (if f.cls.getLsbD 2 then bf16 else fp16) q.ftz 0 (fpMinMax true false) (elem 16 k (src q cur f.sa t f.a 1)) (elem 16 k (src q cur f.sb t f.b 1))⟩
  | .hmin2X2 _ f => some ⟨f.u, f.d.toNat, 2, fun t => elems 16 4 fun k =>
      fp2Rule (if f.cls.getLsbD 2 then bf16 else fp16) q.ftz 0 (fpMinMax false false) (elem 16 k (src q cur f.sa t f.a 2)) (elem 16 k (src q cur f.sb t f.b 2))⟩
  | .hmax2X2 _ f => some ⟨f.u, f.d.toNat, 2, fun t => elems 16 4 fun k =>
      fp2Rule (if f.cls.getLsbD 2 then bf16 else fp16) q.ftz 0 (fpMinMax true false) (elem 16 k (src q cur f.sa t f.a 2)) (elem 16 k (src q cur f.sb t f.b 2))⟩
  | _ => none

/-- Element k of a CVT word: destination type B 7:4, source type B 3:0, the random bits of element k in R (R293 to R295). -/
def cvtRule (f : Full) (q : Quire) (r k x : Nat) : Nat :=
  cvtElem q.ftz (f.b.toNat / 16) (f.b.toNat % 16) (rnd f) (if f.cls.getLsbD 2 then some (elem 16 k r) else none) (f.cls.getLsbD 3) x

/-- Conversions, packing, moves, selects and predicates as registers (R293 to R299). -/
def moveRule (i : Instr) (q : Quire) (cur : Cur) : Option Result :=
  match i with
  | .cvt1 _ f => some ⟨f.u, f.d.toNat, (if cvtWidth (f.b.toNat / 16) = 64 then 2 else 1), fun t =>
      cvtPut (f.b.toNat / 16) (cvtRule f q (if f.cls.getLsbD 2 then src q cur f.sc t f.c 1 else 0) 0
        (src q cur f.sa t f.a (if cvtWidth (f.b.toNat % 16) = 64 then 2 else 1)))⟩
  | .cvt2 _ f => some ⟨f.u, f.d.toNat, 1, fun t => elems (cvtWidth (f.b.toNat / 16)) 2 fun k =>
      cvtRule f q (if f.cls.getLsbD 2 then src q cur f.sc t f.c 1 else 0) k (elem 32 k (src q cur f.sa t f.a 2))⟩
  | .cvt4 _ f => some ⟨f.u, f.d.toNat, 1, fun t => elems (cvtWidth (f.b.toNat / 16)) 4 fun k =>
      cvtRule f q (if f.cls.getLsbD 2 then src q cur f.sc t f.c 2 else 0) k (elem 32 k (src q cur f.sa t f.a 4))⟩
  | .cvt2w _ f => some ⟨f.u, f.d.toNat, 2, fun t => elems 32 2 fun k =>
      cvtRule f q 0 k (elem (cvtWidth (f.b.toNat % 16)) k (src q cur f.sa t f.a 1))⟩
  | .cvt4w _ f => some ⟨f.u, f.d.toNat, 4, fun t => elems 32 4 fun k =>
      cvtRule f q 0 k (elem (cvtWidth (f.b.toNat % 16)) k (src q cur f.sa t f.a 1))⟩
  | .pack _ f => some ⟨f.u, f.d.toNat, 1, fun t =>
      ((srcW q cur f.sb t f.b).extractLsb' 0 16 ++ (srcW q cur f.sa t f.a).extractLsb' 0 16).toNat⟩
  | .packB8 _ f => some ⟨f.u, f.d.toNat, 1, fun t => elems 8 4 fun k => elem 32 k (src q cur f.sa t f.a 4) % 256⟩
  | .unpk _ f => some ⟨f.u, f.d.toNat, 2, fun t => elems 32 2 fun k =>
      let h : BitVec 16 := BitVec.ofNat 16 (elem 16 k (src q cur f.sa t f.a 1))
      (if f.cls.getLsbD 0 then h.signExtend 32 else h.setWidth 32).toNat⟩
  | .unpkB8 _ f => some ⟨f.u, f.d.toNat, 4, fun t => elems 32 4 fun k =>
      let h : BitVec 8 := BitVec.ofNat 8 (elem 8 k (src q cur f.sa t f.a 1))
      (if f.cls.getLsbD 0 then h.signExtend 32 else h.setWidth 32).toNat⟩
  | .mov _ f => some ⟨f.u, f.d.toNat, 1, fun t => src q cur f.sa t f.a 1⟩
  | .mov2 _ f => some ⟨f.u, f.d.toNat, 2, fun t => src q cur f.sa t f.a 2⟩
  | .mov4 _ f => some ⟨f.u, f.d.toNat, 4, fun t => src q cur f.sa t f.a 4⟩
  | .ldiV _ f => some ⟨false, f.d.toNat, 1, fun _ => f.imm.toNat⟩
  | .ldiS _ f => some ⟨true, f.d.toNat, 1, fun _ => f.imm.toNat⟩
  | .sel _ f => some ⟨f.u, f.d.toNat, 1, fun t =>
      if predOf q cur f.u t (f.c.toNat % 16) = f.cls.getLsbD 0 then src q cur f.sb t f.b 1 else src q cur f.sa t f.a 1⟩
  | .selI _ f => some ⟨f.u, f.d.toNat, 1, fun t =>
      if predOf q cur f.u t (f.clb.toNat % 16) = f.clb.getLsbD 4 then (f.imm.signExtend 32).toNat else src q cur f.sa t f.a 1⟩
  | .p2v _ f => some ⟨false, f.d.toNat, 1, fun t => bitsWhere 16 fun k => pReg q cur t k⟩
  | .p2vQ _ f => some ⟨true, f.d.toNat, 1, fun t => bitsWhere 8 fun k => qReg q cur t k⟩
  | _ => none

/-- Integer relations by their code (R279). -/
def relRule (cc : Nat) (x y : Int) : Bool :=
  if cc = 0 then x = y else if cc = 1 then x ≠ y else if cc = 2 then x < y else if cc = 3 then x ≤ y else if cc = 4 then y < x else y ≤ x

/-- What a word writes to predicates: U, and the value of each predicate it writes. -/
structure Preds where
  u : Bool
  val : Nat → Nat → Option Bool

/-- The words that write predicates (R231, R279, R280, R290, R292, R298, R299). -/
def predRule (i : Instr) (q : Quire) (cur : Cur) : Option Preds :=
  match i with
  | .icmp _ f => some ⟨f.u, fun t k => if k = f.d.toNat then
      some (relRule (f.cls.toNat % 16) (ruleInt (f.cls.getLsbD 4) (srcW q cur f.sa t f.a)) (ruleInt (f.cls.getLsbD 4) (srcW q cur f.sb t f.b)))
      else none⟩
  | .icmpI _ f => some ⟨f.u, fun t k => if k = f.d.toNat then
      some (relRule (f.clb.toNat % 16) (ruleInt (f.clb.getLsbD 4) (srcW q cur f.sa t f.a)) (ruleInt (f.clb.getLsbD 4) (f.imm.signExtend 32)))
      else none⟩
  | .fcmp _ f => some ⟨f.u, fun t k => if k = f.d.toNat then
      some (fpCompare f.cls.toNat (fpRead fp32 (flush fp32 q.ftz (src q cur f.sa t f.a 1))) (fpRead fp32 (flush fp32 q.ftz (src q cur f.sb t f.b 1))))
      else none⟩
  | .fcmpI _ f => some ⟨f.u, fun t k => if k = f.d.toNat then
      some (fpCompare (f.clb.toNat % 16) (fpRead fp32 (flush fp32 q.ftz (src q cur f.sa t f.a 1)))
        (fpRead fp32 (flush fp32 q.ftz (f.imm ++ (0 : BitVec 12)).toNat)))
      else none⟩
  | .dcmp _ f => some ⟨f.u, fun t k => if k = f.d.toNat then
      some (fpCompare f.cls.toNat (fpRead fp64 (src q cur f.sa t f.a 2)) (fpRead fp64 (src q cur f.sb t f.b 2)))
      else none⟩
  | .fcmpX2 _ f => some ⟨f.u, fun t k => if f.d.toNat ≤ k ∧ k < f.d.toNat + 2 then
      some (fpCompare f.cls.toNat (fpRead fp32 (flush fp32 q.ftz (elem 32 (k - f.d.toNat) (src q cur f.sa t f.a 2))))
        (fpRead fp32 (flush fp32 q.ftz (elem 32 (k - f.d.toNat) (src q cur f.sb t f.b 2)))))
      else none⟩
  | .fcmpF16 _ f => some ⟨f.u, fun t k => if f.d.toNat ≤ k ∧ k < f.d.toNat + 2 then
      some (fpCompare f.cls.toNat (fpRead fp16 (flush fp16 q.ftz (elem 16 (k - f.d.toNat) (src q cur f.sa t f.a 1))))
        (fpRead fp16 (flush fp16 q.ftz (elem 16 (k - f.d.toNat) (src q cur f.sb t f.b 1)))))
      else none⟩
  | .fcmpBf16 _ f => some ⟨f.u, fun t k => if f.d.toNat ≤ k ∧ k < f.d.toNat + 2 then
      some (fpCompare f.cls.toNat (fpRead bf16 (flush bf16 q.ftz (elem 16 (k - f.d.toNat) (src q cur f.sa t f.a 1))))
        (fpRead bf16 (flush bf16 q.ftz (elem 16 (k - f.d.toNat) (src q cur f.sb t f.b 1)))))
      else none⟩
  | .plop _ f => some ⟨false, fun t k => if k = f.d.toNat then
      some (f.c.getLsbD (4 * (pReg q cur t (f.a.toNat % 16)).toNat + 2 * (pReg q cur t (f.b.toNat % 16)).toNat
        + (pReg q cur t (f.b.toNat / 16)).toNat))
      else none⟩
  | .plopQ _ f => some ⟨true, fun t k => if k = f.d.toNat then
      some (f.c.getLsbD (4 * (qReg q cur t (f.a.toNat % 16)).toNat + 2 * (qReg q cur t (f.b.toNat % 16)).toNat
        + (qReg q cur t (f.b.toNat / 16)).toNat))
      else none⟩
  | .v2p _ f => some ⟨false, fun t k => if (f.c ++ f.b).getLsbD k then some ((src q cur false t f.a 1).testBit k) else none⟩
  | .v2pQ _ f => some ⟨true, fun t k => if f.b.getLsbD k then some ((src q cur true t f.a 1).testBit k) else none⟩
  | _ => none

/-- The threads of a word that bear a set bit of `f`. -/
def maskWhere (cur : Cur) (f : Nat → Bool) : Nat := bitMask (cur.act.filter f)

/-- The words that combine threads and write a vector register of each active one (R315 to R320). -/
def crossRule (i : Instr) (q : Quire) (cur : Cur) : Option Result :=
  match i with
  | .shfl _ f => some ⟨false, f.d.toNat, 1, fun t =>
      srcAll q cur f.sa (shflSrc (f.cls.toNat % 4) (shflSeg q.w (f.cls.toNat / 4)) t (srcAll q cur f.sb t f.b 1) cur.act) f.a 1⟩
  | .shflI _ f => some ⟨false, f.d.toNat, 1, fun t =>
      srcAll q cur f.sa (shflSrc (f.clb.toNat % 4) (shflSeg q.w (f.clb.toNat / 4 % 8)) t (f.imm.signExtend 32).toNat cur.act) f.a 1⟩
  | .qred _ f => some ⟨false, f.d.toNat, 1, fun _ =>
      (treeOf (redInt (f.cls.toNat % 8) (f.cls.getLsbD 3)) (fun j => srcAll q cur f.sa j f.a 1) cur.act q.w 64).getD 0⟩
  | .qredF _ f => some ⟨false, f.d.toNat, 1, fun _ =>
      (treeOf (redFp (f.cls.toNat % 8) (f.cls.toNat / 8) q.ftz) (fun j => flush fp32 q.ftz (srcAll q cur f.sa j f.a 1)) cur.act q.w 64).getD 0⟩
  | .qscan _ f => some ⟨false, f.d.toNat, 1, fun t =>
      (treeOf (redInt (f.cls.toNat % 8) (f.cls.getLsbD 3)) (fun j => srcAll q cur f.sa j f.a 1) cur.act q.w
        (if f.b.getLsbD 0 then t else t + 1)).getD (emptyInt (f.cls.toNat % 8) (f.cls.getLsbD 3))⟩
  | .qscanF _ f => some ⟨false, f.d.toNat, 1, fun t =>
      (treeOf (redFp (f.cls.toNat % 8) (f.cls.toNat / 8) q.ftz) (fun j => flush fp32 q.ftz (srcAll q cur f.sa j f.a 1)) cur.act q.w
        (if f.b.getLsbD 0 then t else t + 1)).getD (emptyFp (f.cls.toNat % 8))⟩
  | .matchBits _ f => some ⟨false, f.d.toNat, 2, fun t =>
      maskWhere cur fun j => decide (srcAll q cur f.sa j f.a (if f.cls.getLsbD 0 then 2 else 1) = srcAll q cur f.sa t f.a (if f.cls.getLsbD 0 then 2 else 1))⟩
  | .tstat _ f => some ⟨false, f.d.toNat, 1, fun t =>
      let td := ((q.th[t]?).map (·.td)).getD 0
      let lines := (q.region.map fun r => (r.reads ++ r.writes).dedup.length).getD 0
      let ents := (q.region.map fun r => r.entries.length).getD 0
      lines * 65536 + ents * 256 + (q.member t).toNat * 16 + q.region.isSome.toNat * 8 + td⟩
  | _ => none

/-- The target of a direct transfer (R302). -/
def ruleTarget (cur : Cur) (off : BitVec 24) : DWord := cur.pc + 8 * off.signExtend 64

/-- The link of a call: the next address and mr in four registers from D (R307). -/
def linkWords (cur : Cur) (th : Thread) : List Word :=
  [wordAt (cur.pc + 8).toNat 0, wordAt (cur.pc + 8).toNat 1, wordAt (mrBits th.mr) 0, wordAt (mrBits th.mr) 1]

/-- What a transfer of control, or a word that changes the control fields of its threads, does to each active thread, on the
conditions under which none of them traps (R302 to R313). -/
def controlRule (i : Instr) (s : State) (q : Quire) (cur : Cur) : Option (Prop × (Nat → Thread → Thread)) :=
  match i with
  | .bra _ f => some (True, fun _ th => { th with npc := some (ruleTarget cur f.off) })
  | .brau _ f => some (True, fun _ th =>
      if qReg q cur (cur.act.headD 0) (f.d.toNat % 8) = f.d.getLsbD 3 then th else { th with npc := some (ruleTarget cur f.off) })
  | .jmpi _ f => some (∀ t ∈ cur.act, 8 ∣ srcAll q cur f.sa t f.a 2,
      fun t th => { th with npc := some (BitVec.ofNat 64 (srcAll q cur f.sa t f.a 2)) })
  | .call _ f => some (∀ t ∈ cur.act, ∀ th, q.th[t]? = some th → th.depth ≠ 255,
      fun _ th =>
        { th with
          v := putWords th.v f.d.toNat (linkWords cur th), mr := none, depth := th.depth + 1
          npc := some (ruleTarget cur f.off) })
  | .calli _ f => some (∀ t ∈ cur.act, 8 ∣ srcAll q cur f.sa t f.a 2 ∧ ∀ th, q.th[t]? = some th → th.depth ≠ 255,
      fun t th =>
        { th with
          v := putWords th.v f.d.toNat (linkWords cur th), mr := none, depth := th.depth + 1
          npc := some (BitVec.ofNat 64 (srcAll q cur f.sa t f.a 2)) })
  | .ret _ f => some (∀ t ∈ cur.act, 8 ∣ srcAll q cur f.sa t f.a 2 ∧ ∀ th, q.th[t]? = some th → th.depth ≠ 0 ∧ ∀ y, th.tryTh = some y → y.depth0 ≤ th.depth - 1,
      fun t th =>
        let m := block q cur f.sa (if f.sa then cur.act.headD t else t) (f.a.toNat + 2) 2
        { th with
          mr := if m = 2 ^ 64 - 1 then none else some (BitVec.ofNat 64 (m % 2 ^ 57))
          depth := th.depth - 1, npc := some (BitVec.ofNat 64 (srcAll q cur f.sa t f.a 2)) })
  | .meet _ f => some (True, fun _ th =>
      { th with mr := if f.cls = 1 then none else some (BitVec.ofNat 64 ((ruleTarget cur f.off).toNat % 2 ^ 57)) })
  | .brk _ f => some (True, fun _ th =>
      { th with
        npc := some (ruleTarget cur f.off), mr := some (BitVec.ofNat 64 ((ruleTarget cur f.off).toNat % 2 ^ 57)) })
  | .exitThread _ _ => some (∀ t ∈ cur.act, q.member t = false ∧ sectionOpen s q t = false,
      fun _ th => { th with exiting := true })
  | .nop _ _ => some (True, fun _ th => th)
  | _ => none

/-- A thread that takes a trap at the word in hand (R398, R400). -/
def haltedAt (cur : Cur) (code : Nat) (th : Thread) : Thread :=
  { th with halt := some { code := code, pc := cur.pc }, pc := cur.pc, npc := none, tryTh := none, c := false }

/-- The fields of a trap record without a capture (R402). -/
def IsTrapRecord (r : Record) (cur : Cur) (code ucode : Nat) : Prop :=
  r.testBit 255 = true ∧ bitsOf r 254 249 = 0 ∧ bitsOf r 248 192 = cur.pc.toNat % 2 ^ 57
    ∧ (∀ t, t < 64 → ((bitsOf r 191 128).testBit t = true ↔ t ∈ cur.act)) ∧ bitsOf r 127 112 = ucode
    ∧ bitsOf r 111 104 = cur.slot.lane * 4 + cur.slot.q ∧ bitsOf r 103 96 = cur.slot.core % 4
    ∧ bitsOf r 95 88 = cur.slot.core / 4 ∧ bitsOf r 87 72 = 0xFFFF ∧ bitsOf r 71 64 = code ∧ bitsOf r 63 0 = 0

/-- A slot of the device: core 0 to 191, lane 0 to 63, quire slot 0 to 3. -/
def RealSlot (x : Slot) : Prop := x.core < 192 ∧ x.lane < 64 ∧ x.q < 4

/-- A record reaches a context's fault area (R40, R402): it is written at PUT when there is room and none waits, else it
waits in order and FULL is set. -/
def RecordGoes (s t : State) (c : Nat) (r : Record) : Prop :=
  if (s.ctx c).heldRecs = [] ∧ fqRoom s c then
    let a := bitsOf (s.ctx c).fqBase.toNat 51 12 * 4096 + 32 * ((s.ctx c).fqPut.toNat % 2 ^ (s.ctx c).fqSize)
    (t.ctx c).fqPut = (s.ctx c).fqPut + 1 ∧ (t.ctx c).heldRecs = [] ∧
      (memWf s.mem = true → winFind s a = none → ∀ k, k < 32 → memGet t.mem (a + k) = BitVec.ofNat 8 (r / 256 ^ k))
  else
    (t.ctx c).heldRecs = (s.ctx c).heldRecs ++ [r] ∧ (t.ctx c).fqFull = true ∧ (t.ctx c).fqPut = (s.ctx c).fqPut ∧ t.mem = s.mem

/-- No active thread of a word has an open fragment section (R433). -/
def NoSection (s : State) (cur : Cur) (q : Quire) : Prop := ∀ t ∈ cur.act, sectionOpen s q t = false

/-- A word that makes one access for each of its actors (R334 to R348): opcode, fields, the address of thread t, the bytes of an
access, the data it stores, its further operands, and the conditions under which no thread of it traps at its entry. -/
structure MemForm where
  op : Nat
  f : Full
  addr : Nat → Nat
  len : Nat
  data : Nat → Nat
  args : Nat → List Nat
  ok : Prop

/-- The offset of the address part (R335). -/
def ruleOffset (x ordered : Bool) (f : Full) (q : Quire) (cur : Cur) (t : Nat) : Int :=
  if x then (srcW q cur f.sb t f.b).toInt * 2 ^ (f.c.extractLsb' 3 3).toNat
  else if ordered then (f.b ++ f.c.extractLsb' 3 5 : BitVec 13).toInt
  else (f.b ++ f.c : BitVec 16).toInt

/-- The generic address or the offset of an access (R335). -/
def ruleAddr (narrow x ordered : Bool) (f : Full) (q : Quire) (cur : Cur) (t : Nat) : Nat :=
  if narrow then (BitVec.ofInt 32 (src q cur f.sa t f.a 1 + ruleOffset x ordered f q cur t)).toNat
  else (BitVec.ofInt 64 (src q cur f.sa t f.a 2 + ruleOffset x ordered f q cur t)).toNat

/-- Bytes of an access by its size code (R336). -/
def ruleBytes (cls : BitVec 5) : Nat := ([1, 2, 4, 8, 16, 1, 2] : List Nat).getD cls.toNat 0

/-- No actor is a member of an open region (R183). -/
def OutsideRegions (q : Quire) (cur : Cur) (u : Bool) : Prop := ∀ t ∈ actors cur u, q.member t = false

/-- A scope that traps nowhere (R112, R193, R339, R348). -/
def ScopeFine (rcd : Nat) (scratch det : Bool) (scope : Nat) : Prop :=
  scope ≠ 7 ∧ (scratch = true → rcMapped rcd = false → scope < 4) ∧ (det = true → rcDet rcd = true → scope = 0 ∨ scope = 2)

/-- A load or a store of R334: `narrow` outside generic memory, `x` with an index, `ord` with a scope, `alone` where it traps
inside a region. -/
def ldStForm (s : State) (q : Quire) (cur : Cur) (f : Full) (op : Nat) (narrow x ord alone store : Bool) : MemForm :=
  { op := op, f := f, addr := ruleAddr narrow x ord f q cur, len := ruleBytes f.cls
    data := fun t => if store then src q cur f.u t f.d (sizeRegs f.cls.toNat) % 2 ^ (8 * ruleBytes f.cls) else 0
    args := fun _ => []
    ok := f.cls.toNat < 7
      ∧ (ord = true → ScopeFine (s.rcdOf cur.slot) (narrow && decide (op < 0x120)) (!store) (f.c.toNat % 8))
      ∧ (ord = true ∨ alone = true → OutsideRegions q cur f.u) }

/-- An atomic or a reduction of R346: `n` registers an operand. -/
def atomForm (s : State) (q : Quire) (cur : Cur) (f : Full) (op n : Nat) (narrow cas : Bool) : MemForm :=
  { op := op, f := f, addr := fun t => src q cur f.sa t f.a (if narrow then 1 else 2), len := 4 * n, data := fun _ => 0
    args := fun t => block q cur f.sb t f.b.toNat n :: (if cas then [block q cur f.sb t (f.b.toNat + n) n] else [])
    ok := ScopeFine (s.rcdOf cur.slot) narrow true (f.c.toNat % 8) ∧ OutsideRegions q cur f.u }

/-- Registers of an integer atomic's operand, of a floating one's. -/
def intRegs (f : Full) : Nat := if f.cls.getLsbD 4 then 2 else 1
def fpRegs (f : Full) : Nat := if f.cls.toNat / 8 = 1 then 2 else 1

/-- The loads and stores of generic, scratchpad, private and constant space (R334). -/
def ldStRule (i : Instr) (s : State) (q : Quire) (cur : Cur) : Option MemForm :=
  match i with
  | .ld _ f => some (ldStForm s q cur f 0x100 false false false false false)
  | .ldAcq _ f => some (ldStForm s q cur f 0x101 false false true false false)
  | .st _ f => some (ldStForm s q cur f 0x102 false false false false true)
  | .stRel _ f => some (ldStForm s q cur f 0x103 false false true false true)
  | .ldChk _ f => some (ldStForm s q cur f 0x104 false false false false false)
  | .ldX _ f => some (ldStForm s q cur f 0x108 false true false false false)
  | .ldAcqX _ f => some (ldStForm s q cur f 0x109 false true true false false)
  | .stX _ f => some (ldStForm s q cur f 0x10A false true false false true)
  | .stRelX _ f => some (ldStForm s q cur f 0x10B false true true false true)
  | .lds _ f => some (ldStForm s q cur f 0x110 true false false false false)
  | .ldsAcq _ f => some (ldStForm s q cur f 0x111 true false true false false)
  | .sts _ f => some (ldStForm s q cur f 0x112 true false false true true)
  | .stsRel _ f => some (ldStForm s q cur f 0x113 true false true true true)
  | .ldsX _ f => some (ldStForm s q cur f 0x118 true true false false false)
  | .ldsAcqX _ f => some (ldStForm s q cur f 0x119 true true true false false)
  | .stsX _ f => some (ldStForm s q cur f 0x11A true true false true true)
  | .stsRelX _ f => some (ldStForm s q cur f 0x11B true true true true true)
  | .ldp _ f => some (ldStForm s q cur f 0x120 true false false false false)
  | .stp _ f => some (ldStForm s q cur f 0x121 true false false true true)
  | .ldpX _ f => some (ldStForm s q cur f 0x122 true true false false false)
  | .stpX _ f => some (ldStForm s q cur f 0x123 true true false true true)
  | .ldc _ f => some (ldStForm s q cur f 0x124 false false false false false)
  | .ldcX _ f => some (ldStForm s q cur f 0x125 false true false false false)
  | _ => none

/-- The atomics and reductions (R346). -/
def atomRule (i : Instr) (s : State) (q : Quire) (cur : Cur) : Option MemForm :=
  match i with
  | .atom _ f => some (atomForm s q cur f 0x140 (intRegs f) false false)
  | .atomF _ f => some (atomForm s q cur f 0x141 (fpRegs f) false false)
  | .atomCas _ f => some (atomForm s q cur f 0x142 (intRegs f) false true)
  | .red _ f => some (atomForm s q cur f 0x143 (intRegs f) false false)
  | .redF _ f => some (atomForm s q cur f 0x144 (fpRegs f) false false)
  | .atoms _ f => some (atomForm s q cur f 0x145 (intRegs f) true false)
  | .atomsF _ f => some (atomForm s q cur f 0x146 (fpRegs f) true false)
  | .atomsCas _ f => some (atomForm s q cur f 0x147 (intRegs f) true true)
  | _ => none

/-- A word of either table. -/
def memRule (i : Instr) (s : State) (q : Quire) (cur : Cur) : Option MemForm := (ldStRule i s q cur).orElse fun _ => atomRule i s q cur

/-- The lane's requests for translation (R33). -/
abbrev laneVia (x : Slot) : Via := { core := some x.core, gath := some (gathOf x.core) }

/-- The access of thread t before it is placed. -/
def MemForm.raw (m : MemForm) (t : Nat) : Acc :=
  { t := t, piece := 0, va := m.addr t, loc := 0, len := m.len, spans := [], inTry := false, got := none, vals := []
    key := .opened, nc := false, st := .waiting, data := m.data t, args := m.args t }

/-- Every address is aligned, as each active thread gives it (R337, R340). -/
def MemForm.aligned (m : MemForm) (cur : Cur) : Prop := ∀ t ∈ cur.act, m.len ∣ m.addr t

/-- The access of thread t where its checks pass (R13, R18, R21, R27, R32, R337): in generic memory at the translated address
`pg t`, in the scratchpad within its range, in the slice or at the backing address of private space. A route 0 access of a member
of a region is marked so (R185). -/
def MemForm.placed (m : MemForm) (s : State) (slot : Slot) (q : Quire) (pg : Nat → Page) (t : Nat) : Acc :=
  match opSpace m.op with
  | .scratch => { m.raw t with loc := scratchPlace (s.folioOf slot) (m.addr t) }
  | .priv =>
    if m.addr t < 64 then { m.raw t with loc := sliceLoc (m.addr t) }
    else
      { m.raw t with
        va := backingAddr (s.rcdOf slot) slot q.w t (m.addr t), loc := (pg t).loc, key := (pg t).key, nc := (pg t).nc }
  | .generic => { m.raw t with loc := (pg t).loc, key := (pg t).key, nc := (pg t).nc, inTry := q.member t }
  | _ => { m.raw t with loc := (pg t).loc, key := (pg t).key, nc := (pg t).nc }

/-- A 128-bit access enters as two of 8 bytes, the lower half first (R105). -/
def ruleHalves (a : Acc) : List Acc :=
  if a.len = 16 then
    [{ a with len := 8, data := a.data % 2 ^ 64 },
      { a with piece := 1, va := a.va + 8, loc := a.loc + 8, len := 8, data := a.data / 2 ^ 64 }]
  else [a]

/-- The checks of R337 pass for thread t, its translation held by a TLB or found by a walk that leaves the TLBs as they are. -/
def MemForm.fits (m : MemForm) (s : State) (slot : Slot) (q : Quire) (pg : Nat → Page) (t : Nat) : Prop :=
  let through (va : Nat) : Prop := (tlbLookup s (laneVia slot) q.ctx va).isSome ∧
    xlate s (laneVia slot) q.ctx va (opKind m.op) = (s, .ok (pg t)) ∧
    (q.member t = true → opStore m.op = true → (pg t).nc = false ∧ winFind s (pg t).loc = none)
  match opSpace m.op with
  | .scratch => m.addr t + m.len ≤ scratchBytes (s.rcdOf slot)
  | .priv => m.addr t + m.len ≤ rcPriv (s.rcdOf slot) ∧ (64 ≤ m.addr t → through (backingAddr (s.rcdOf slot) slot q.w t (m.addr t)))
  | _ => through (m.addr t)

/-- No posted write is under way (R106). -/
def NothingPosted (s : State) : Prop := ∀ x ∈ s.msgs, ∀ d k y, x.kind ≠ .posted d k y

/-- One actor makes a word's one access at once, with nothing older in the quire's log and no posted write under way. -/
def OneAccess (s : State) (cur : Cur) (q : Quire) (m : MemForm) (pg : Page) (t : Nat) : Prop :=
  Running s cur q ∧ NothingPosted s ∧ cur.lazy = false ∧ q.log = [] ∧ q.varp = [] ∧ actors cur m.f.u = [t] ∧ m.ok ∧ m.aligned cur ∧
    OutsideRegions q cur m.f.u ∧ (m.f.u = true → q.region = none) ∧ m.fits s cur.slot q (fun _ => pg) t ∧
    (m.f.u = false → ∃ th, q.th[t]? = some th ∧ th.x = false) ∧
    ∀ b ∈ (s.gath (gathOf cur.slot.core)).bench, b.slot ≠ cur.slot

/-- A line of generic memory in a settled state: no window line, a page without NC, its copies under the page's key, no store
pending in it, no posted write under way, one 16-byte block for the whole access. -/
def LineSettled (s : State) (g : Nat) (pg : Page) (n : Nat) : Prop :=
  winFind s pg.loc = none ∧ (homeOf s (lineOf pg.loc)).win = false ∧ pg.nc = false ∧ NothingPosted s ∧
    (homeOf s (lineOf pg.loc)).ckey = some pg.key ∧ hasPending s g (lineOf pg.loc) = false ∧
    pg.loc % 16 + n ≤ 16

/-- The value a load writes for the bytes it binds, the lowest first (R336). -/
def ruleLoad (cls : BitVec 5) (bs : List Byte) : Nat :=
  let x := (bs.zipIdx.map fun e => e.1.toNat * 256 ^ e.2).sum
  if cls = 5 then ((BitVec.ofNat 8 x).signExtend 32).toNat
  else if cls = 6 then ((BitVec.ofNat 16 x).signExtend 32).toNat
  else x

/-- A word that releases (R116, R339, R346): its scope's waits find nothing to wait for (R113, R115). -/
def MemForm.drained (m : MemForm) (s : State) (cur : Cur) : Prop :=
  m.op ∈ [0x103, 0x10B, 0x113, 0x11B] ∨ (0x140 ≤ m.op ∧ m.f.c.getLsbD 4 = true) →
    ∀ p ∈ s.pending, p.gath ≠ gathOf cur.slot.core

/-- A line is used in a gathering's cache: it is the most recently used one (R56). -/
def lineUsed (s : State) (g line : Nat) : State :=
  s.setGath g fun x => { x with lru := (false, line) :: x.lru.filter (· != (false, line)) }

/-- The memory changes in `n` bytes from `a`, which take the bytes of `x`, the lowest first, and nowhere else. -/
def BytesPut (m m' : Mem) (a n x : Nat) : Prop :=
  ∀ l, memGet m' l = if a ≤ l ∧ l < a + n then BitVec.ofNat 8 (x / 256 ^ (l - a)) else memGet m l

/-- One element of a floating atomic (R229, R230, R347): FTZ does not apply. -/
def ruleAtomFp (k : Nat) (m : Fmt) (old b : Nat) : Nat :=
  let x := fpRead m old
  let y := fpRead m b
  fpRound m 0 (if k = 0 then fpAdd 0 x y else fpMinMax (k = 2 ∨ 4 ≤ k) (3 ≤ k) x y)

/-- The new value of a unit under an atomic, none where a compare-and-swap fails (R347). -/
def ruleAtom (op : Nat) (f : Full) (old : Nat) (args : List Nat) : Option Nat :=
  let b := args.headD 0
  let n : Nat := if f.cls.getLsbD 4 then 64 else 32
  let k := f.cls.toNat % 8
  if op = 0x142 ∨ op = 0x147 then (if old = b then some (args.getD 1 0) else none)
  else if op = 0x141 ∨ op = 0x144 ∨ op = 0x146 then
    some
      (if f.cls.toNat / 8 = 0 then ruleAtomFp k fp32 old b
       else if f.cls.toNat / 8 = 1 then ruleAtomFp k fp64 old b
       else elems 16 2 fun e => ruleAtomFp k (if f.cls.toNat / 8 = 2 then fp16 else bf16) (elem 16 e old) (elem 16 e b))
  else
    let v (x : Nat) : Int := if f.cls.getLsbD 3 then x else (BitVec.ofNat n x).toInt
    some
      (if k = 0 then (BitVec.ofNat n (old + b)).toNat
       else if k = 1 then (if v b < v old then b else old)
       else if k = 2 then (if v old < v b then b else old)
       else if k = 3 then old &&& b
       else if k = 4 then old ||| b
       else if k = 5 then old ^^^ b
       else b)

/-- The registers of an operand of an atomic. -/
def MemForm.regs (m : MemForm) : Nat := m.len / 4

/-- Bytes as a number, the lowest first. -/
def numOf (bs : List Byte) : Nat := (bs.zipIdx.map fun e => e.1.toNat * 256 ^ e.2).sum

/-- The result of an atomic at a quire: D takes the old value, except for RED. -/
def AtomResult (q q' : Quire) (cur : Cur) (m : MemForm) (old : Nat) : Prop :=
  if m.op = 0x143 ∨ m.op = 0x144 then q' = q else WritesBlock q q' cur m.f.u m.f.d.toNat m.regs fun _ => old

/-- The value that `n` bytes of a lease copy give, from its byte `o` (R118). -/
def leaseNum (le : Lease) (o n : Nat) : Nat := numOf ((List.range n).map fun k => le.data.getD (o + k) 0)

/-- A copy that a path cache serves: the line and the key, not expired (R68). -/
def LiveLease (s : State) (w : LeaseAt) (line : Nat) (k : Key) (le : Lease) : Prop :=
  leaseOf s w line k = some le ∧ le.expired = false ∧ s.cycle < le.exp

/-- The line can be leased anew at once: no copy of it at the place, its copies under the key, a token at its home (R72, R89). -/
def LeaseMissing (s : State) (w : LeaseAt) (line : Nat) (k : Key) : Prop :=
  leaseOf s w line k = none ∧ (homeOf s line).ckey = some k ∧ (homeOf s line).ht ≠ 0

/-- The home has granted a copy (R89): the data as memory holds it, the version and the end. -/
def Granted (s u : State) (w : LeaseAt) (line : Nat) (k : Key) : Prop :=
  ∃ le : Lease, leaseOf u w line k = some le ∧ le.ver = (homeOf s line).ver ∧ le.exp = s.cycle + 65536 ∧ le.expired = false ∧
    le.data = physReadN s k (line * 128) 128 ∧ (homeOf u line).lexp = max (homeOf s line).lexp (s.cycle + 65536)

/-- The operand log of the quire is empty, so nothing of it waits. -/
def NothingOlder (q : Quire) : Prop := q.log = []

/-- A release by a core's gathering finds nothing to wait for (R113, R115). -/
def Drained (s : State) (slot : Slot) : Prop :=
  (∀ p ∈ s.pending, p.gath ≠ gathOf slot.core) ∧ NothingPosted s

/-- Entries go in at the ring's end, one for each thread in order (R350). -/
def Pushed (q : Quire) (cur : Cur) (f : Full) (n : Nat) (ring : List (List Word)) : List (List Word) :=
  ring ++ cur.act.map fun t => (List.range n).map fun k => BitVec.ofNat 32 (block q cur false t (f.d.toNat + k) 1)

/-- The oldest entries leave for the threads in order: register D + k of each takes word k of its entry (R350). -/
def Popped (q q' : Quire) (cur : Cur) (f : Full) (ring : List (List Word)) : Prop :=
  OnlyVec q q' fun t r =>
    if t ∈ cur.act ∧ f.d.toNat ≤ r then (ring.getD (cur.act.idxOf t) [])[r - f.d.toNat]? else none

/-- A FIFO of the folio: its ring, and no other quire waiting on it (R63, R350). -/
def RingFree (s : State) (q : Quire) (pop : Bool) (k : Nat) (order : Option Nat) (fo : Folio) (ring : List (List Word)) : Prop :=
  s.folio q.folio = some fo ∧ fo.fifos[k]? = some { ring := ring } ∧ fifoWaits s q (if pop then .fpop else .fpush) k order = false

/-- The read forms of the image words (R357 to R362) and the store forms (R363), by opcode. -/
def imageOp (i : Instr) : Option (Nat × Full) :=
  match i with
  | .tex _ f => some (0x150, f)
  | .texL _ f => some (0x151, f)
  | .texG _ f => some (0x152, f)
  | .texC _ f => some (0x153, f)
  | .tex4 _ f => some (0x154, f)
  | .tld _ f => some (0x155, f)
  | .tldMs _ f => some (0x156, f)
  | .tqry _ f => some (0x158, f)
  | .tqryLod _ f => some (0x159, f)
  | .imld _ f => some (0x15A, f)
  | .imldRaw _ f => some (0x15B, f)
  | .imst _ f => some (0x15C, f)
  | .imstRaw _ f => some (0x15D, f)
  | _ => none

/-- The entry an image word makes for its one active thread. -/
def imageEntry (q : Quire) (cur : Cur) (op : Nat) (f : Full) (a : Acc) : LogEntry :=
  { seq := q.seq, pc := cur.pc, op := op, f := f, uni := false, ctr := if f.cen then some f.csel.toNat else none, act := cur.act
    acc := [a] }

/-- The entry stands in the quire's log, its counter raised. -/
def imageLogged (s : State) (slot : Slot) (e : LogEntry) : State :=
  s.setQuire slot fun q =>
    { q with log := q.log ++ [e], ctr := match e.ctr with
                                         | some k => q.ctr.modify k (· + 1)
                                         | none => q.ctr }

/-- One thread runs an image word at once. -/
def OneImage (s : State) (cur : Cur) (q : Quire) (t : Nat) (f : Full) : Prop :=
  Running s cur q ∧ NothingPosted s ∧ cur.lazy = false ∧ q.log = [] ∧ q.varp = [] ∧ cur.act = [t] ∧ q.region = none ∧
    (∃ th, q.th[t]? = some th ∧ th.x = false) ∧ src q cur true t f.a 2 % 64 = 0

/-- The units of a footprint read one after another on route 2: their values, if none faults (R105, R364). -/
def unitsRead (slot : Slot) (c : Nat) : List (Nat × Nat) → State → Option (State × List Nat)
  | [], s => some (s, [])
  | u :: us, s =>
    match readUnit s slot c u.1 u.2 with
    | (s1, .ok x) => (unitsRead slot c us s1).map fun r => (r.1, x :: r.2)
    | (_, .error _) => none

/-- The instance a core's quire uses under a barrier number (R153, R368). -/
def UsesBar (fo : Folio) (core num : Nat) (b : Bar) : Prop :=
  fo.bars.find? (fun x => x.num == num && x.v && (x.core == none || x.core == some (fo.cores.idxOf core))) = some b

/-- No active thread is in a region or an open section. -/
def PlainThreads (s : State) (cur : Cur) (q : Quire) : Prop := ∀ t ∈ cur.act, q.member t = false ∧ sectionOpen s q t = false

/-- The folio's instance b changes by g. -/
def BarBecomes (fo fo' : Folio) (b : Bar) (g : Bar → Bar) : Prop :=
  fo' = { fo with bars := fo.bars.map fun x => if x.num = b.num ∧ x.core = b.core then g x else x }

/-- Units have unitsArrived: the phase moves when they complete it (R154, R370). -/
def unitsArrived (b : Bar) (n : Nat) : Bar :=
  if b.arr + n = b.a ∧ b.pend = 0 then
    { b with ph := (b.ph + 1) % 65536, lerr := b.err || b.got != b.decl, arr := 0, decl := 0, got := 0, err := false }
  else { b with arr := b.arr + n }

/-- The matrix words by opcode (R375): bits 1:0 give N, bit 2 the accumulating forms, bit 3 a B through a record, bit 4 scales. -/
def matOp (i : Instr) : Option (Nat × Mat) :=
  match i with
  | .mmaN8Sp _ f => some (0x180, f)
  | .mmaN16Sp _ f => some (0x181, f)
  | .mmaN32Sp _ f => some (0x182, f)
  | .mmaN64Sp _ f => some (0x183, f)
  | .mmaN8SpAcc _ f => some (0x184, f)
  | .mmaN16SpAcc _ f => some (0x185, f)
  | .mmaN32SpAcc _ f => some (0x186, f)
  | .mmaN64SpAcc _ f => some (0x187, f)
  | .mmaN8Gl _ f => some (0x188, f)
  | .mmaN16Gl _ f => some (0x189, f)
  | .mmaN32Gl _ f => some (0x18A, f)
  | .mmaN64Gl _ f => some (0x18B, f)
  | .mmaN8GlAcc _ f => some (0x18C, f)
  | .mmaN16GlAcc _ f => some (0x18D, f)
  | .mmaN32GlAcc _ f => some (0x18E, f)
  | .mmaN64GlAcc _ f => some (0x18F, f)
  | .mmasN8Sp _ f => some (0x190, f)
  | .mmasN16Sp _ f => some (0x191, f)
  | .mmasN32Sp _ f => some (0x192, f)
  | .mmasN64Sp _ f => some (0x193, f)
  | .mmasN8SpAcc _ f => some (0x194, f)
  | .mmasN16SpAcc _ f => some (0x195, f)
  | .mmasN32SpAcc _ f => some (0x196, f)
  | .mmasN64SpAcc _ f => some (0x197, f)
  | .mmasN8Gl _ f => some (0x198, f)
  | .mmasN16Gl _ f => some (0x199, f)
  | .mmasN32Gl _ f => some (0x19A, f)
  | .mmasN64Gl _ f => some (0x19B, f)
  | .mmasN8GlAcc _ f => some (0x19C, f)
  | .mmasN16GlAcc _ f => some (0x19D, f)
  | .mmasN32GlAcc _ f => some (0x19E, f)
  | .mmasN64GlAcc _ f => some (0x19F, f)
  | _ => none

/-- The conditions of R380 under which no thread of a matrix word traps, `w` being its format word and `blk` its B block. -/
def MatFine (s : State) (q : Quire) (cur : Cur) (op : Nat) (f : Mat) (w : Nat) (blk : List Word) : Prop :=
  let cn := rowRegs (matN op) (fmO w)
  let off := (blk.getD 0 0).toNat
  let so := matScaleOff op blk
  let pr := portionOf s cur.slot
  (∀ t ∈ cur.act, q.member t = false ∧ src q cur f.sf t f.f 1 = w) ∧ fmtOk (matMmas op) w = true ∧
    f.c.toNat + cn ≤ q.regs ∧ f.a.toNat + (if scaleA (matMmas op) w then 9 else 8) ≤ q.regs ∧
    (f.c.toNat + cn ≤ f.a.toNat ∨ f.a.toNat + (if scaleA (matMmas op) w then 9 else 8) ≤ f.c.toNat) ∧
    (f.sf = false → f.f.toNat < f.c.toNat ∨ f.c.toNat + cn ≤ f.f.toNat) ∧
    (f.bv = true → ∃ fo b, s.folio q.folio = some fo ∧ UsesBar fo cur.slot.core f.bar.toNat b) ∧
    (matGl op = false → off % 128 = 0 ∧ pr.1 ≤ off ∧ off + matK w * matN op * matBytes (fmB w) ≤ pr.2) ∧
    (scaleB (matMmas op) w = true → so % 16 = 0 ∧ pr.1 ≤ so ∧ so + 2 * matN op ≤ pr.2)

/-- The B block of a matrix word (R378): the offset or the record's pair and coordinates, then the scales' offset. -/
def ruleMatBlock (op : Nat) (f : Mat) (q : Quire) (cur : Cur) : List Word :=
  (List.range ((if matGl op then 4 else 1) + if matMmas op then 1 else 0)).map fun k =>
    BitVec.ofNat 32 (block q cur true (cur.act.headD 0) (f.sb.toNat + k) 1)

/-- The units of an entry's B read one after another: their elements, if none faults (R127, R378). -/
def unitsOfB (g : Nat) (b : Bench) : List Nat → State → Option (State × List Nat)
  | [], s => some (s, [])
  | k :: ks, s =>
    match readUnitB s g b k with
    | (s1, .ok x) => (unitsOfB g b ks s1).map fun r => (r.1, x :: r.2)
    | (_, .error _) => none

/-- The engine starts a pass of one entry as soon as it can (R213, R385): the next one waits for the interval. -/
def passBegun (s : State) (g : Nat) (b : Bench) : State :=
  let at_ := max s.cycle (s.gath g).passAt
  { s.setGath g fun x => { x with passAt := at_ + passInterval b.fmt + s.extra, passNow := some ([b.id], []) } with cycle := at_ }

/-- The scale of column j of a B (R378): 1 where the format has none. -/
def ruleColScale (fo : Folio) (b : Bench) (j : Nat) : Nat :=
  if scaleB (matMmas b.op) b.fmt then numOf (memGetN fo.scr (matScaleOff b.op b.sblk + 2 * j) 2) else 0x3F80

/-- The copy words by opcode (R386). -/
def copyOp (i : Instr) : Option (Nat × Copy) :=
  match i with
  | .cpy _ f => some (0x1A0, f)
  | .cpyR _ f => some (0x1A1, f)
  | .cpyw _ f => some (0x1A2, f)
  | .cpywR _ f => some (0x1A3, f)
  | .cpym _ f => some (0x1A4, f)
  | .cpyp _ f => some (0x1A5, f)
  | .cpypM _ f => some (0x1A6, f)
  | .cpyrd _ f => some (0x1A7, f)
  | .cpyrdP _ f => some (0x1A8, f)
  | .cpyg _ f => some (0x1A9, f)
  | _ => none

/-- The slice a leading set supplies (R388): a block of registers from A of each active thread, or, scalar, one of the quire. -/
def ruleSlice (op : Nat) (q : Quire) (cur : Cur) (f : Copy) : List (List Word) :=
  let n := copySlice op f.nc.toNat
  (if f.sa then cur.act.take 1 else cur.act).map fun t =>
    (List.range n).map fun k => BitVec.ofNat 32 (block q cur f.sa t (f.a.toNat + k) 1)

/-- The linear coordinate of an element (R241). -/
def ruleCoord (r : Nat) (xs : List Int) : Nat :=
  (BitVec.ofInt 64 ((List.range (shRank r)).map fun d => xs.getD d 0 * ((List.range d).map fun k => (shExt r k : Int)).prod).sum).toNat

/-- A shape record stands alone in the gathering's record cache (R65). -/
def CachedRecord (s : State) (g c a : Nat) (e : RecEntry) : Prop :=
  (s.gath g).recs = [e] ∧ e.ctx = c ∧ e.addr = a ∧ a % 64 = 0

/-- The executor reaches two bytes of a slot, outside windows and on a page without NC, under the key that holds them (R198,
R502). -/
def SlotReached (s : State) (c va : Nat) (pg : Page) : Prop :=
  (s.ctx c).execWait.contains (va / 65536) = false ∧
    (∀ k, k ∈ [XKind.read, XKind.write, XKind.atomic] → xlate s { core := none, gath := none } c va k = (s, .ok pg)) ∧
    winFind s pg.loc = none ∧ pg.nc = false ∧ keyTag s (pg.loc / 16) = pg.key ∧ pg.loc % 16 + 2 ≤ 16 ∧ memWf s.mem = true

/-- Thread t of the quire holds `fr` of pass p, and `pr` is its primitive in the pass's buffer. -/
def HoldsPrim (s : State) (q : Quire) (p : Pass) (t : Nat) (fr : FragTh) (pr : Prim) : Prop :=
  (∃ th, q.th[t]? = some th ∧ th.frag = some fr) ∧ s.pass fr.pass = some p ∧
    p.prims.find? (fun x => x.order == fr.prim) = some pr

/-- The weights of a primitive's vertices at a point of a (wm + 1) × (hm + 1) frame: they sum to 1, and the weighted clip-space
position projects to the point; the primitive is seen from no edge (R427, R429). -/
def PerspWeights (wm hm : Nat) (p : Prim) (px py : Rat) (w : Rat × Rat × Rat) : Prop :=
  let nx : Rat := 2 * px / ((wm + 1 : Nat) : Rat) - 1
  let ny : Rat := 2 * py / ((hm + 1 : Nat) : Rat) - 1
  let u (v : List Word) : Rat := (vertPos v).x - nx * (vertPos v).w
  let k (v : List Word) : Rat := (vertPos v).y - ny * (vertPos v).w
  w.1 + w.2.1 + w.2.2 = 1 ∧ w.1 * u p.v0 + w.2.1 * u p.v1 + w.2.2 * u p.v2 = 0 ∧
    w.1 * k p.v0 + w.2.1 * k p.v1 + w.2.2 * k p.v2 = 0 ∧
    u p.v1 * k p.v2 - u p.v2 * k p.v1 + (u p.v2 * k p.v0 - u p.v0 * k p.v2) + (u p.v0 * k p.v1 - u p.v1 * k p.v0) ≠ 0

/-- Attribute k of a vertex (R422). -/
def attrOf (v : List Word) (k : Nat) : Nat := (v.getD (4 + k) 0).toNat

/-- A fragment of a pass is the one that `fr` names. -/
def sameFrag (fr : FragTh) (x : Frag) : Bool := x.tile == fr.tile && x.x == fr.x && x.y == fr.y && x.order == fr.order

/-- The active threads hold fragments of one pass, outside regions (R428). -/
def HoldFrags (s : State) (cur : Cur) (q : Quire) (p : Pass) (fr : Nat → FragTh) : Prop :=
  Running s cur q ∧ s.pass p.id = some p ∧
    ∀ t ∈ cur.act, q.member t = false ∧ (∃ th, q.th[t]? = some th ∧ th.frag = some (fr t)) ∧ (fr t).helper = false ∧ (fr t).pass = p.id

/-- The pass's fragments after those of the active threads change by g. -/
def fragsThen (cur : Cur) (p : Pass) (fr : Nat → FragTh) (g : Frag → Frag) : Pass :=
  { p with frags := p.frags.map fun x => if cur.act.any (fun t => sameFrag (fr t) x) then g x else x }

/-- A fragment that lets the ones above it enter (R431). -/
def LetsEnter (x : Frag) : Prop := x.st = .done ∨ (x.retired = true ∧ x.st ≠ .opened ∧ x.st ≠ .leaving)

/-- Slot k of a mesh folio's vertex v; an unwritten one is zero (R422). -/
def meshSlot (fo : Folio) (v k : Nat) : Word := ((fo.mverts.find? fun e => e.1 == v && e.2.1 == k).map (·.2.2)).getD 0

/-- Primitive record k of a mesh folio: three vertex numbers and CULL in bit 24. -/
def meshPrim (fo : Folio) (k : Nat) : Nat := ((fo.mprims.find? fun e => e.1 == k).map (·.2)).getD 0

/-- The list at a pixel of a tile in flight as the list engine reads it: (index, node) in order, nothing faulting (R434). -/
def ListHolds (s : State) (g : Nat) (p : Pass) (t : Tile) (x y : Nat) (l : List (Nat × Nat)) : Prop :=
  ∃ h, listRead s g p.ctx t (headPlace p t.n (4 * pixelIndex x y)) 4 = (s, .ok h) ∧ bitsOf h 20 16 = l.length ∧
    walkList s g p t l.length (h % 65536) = (s, .ok l) ∧ (l = [] → h % 65536 = 0xFFFF)

/-- Where a node of depth d is inserted: after every node whose DEPTH is at most it, a NaN at the tail (R435). -/
def InsertAt (l : List (Nat × Nat)) (d k : Nat) : Prop :=
  k ≤ l.length ∧
    if depthNan d then k = l.length
    else (∀ j e, l[j]? = some e → depthLe (nodeDepth e.2) d = true → j < k) ∧
      (∀ j e, l[j]? = some e → j + 1 = k → depthLe (nodeDepth e.2) d = true)

/-- A tile of a TILE pass whose free nodes lie in its banks, whose list at (x, y) holds `l`, and whose next free node is `i`. -/
def BankTile (s : State) (p : Pass) (t : Tile) (x y : Nat) (l : List (Nat × Nat)) (i : Nat) : Prop :=
  p.imm = false ∧ p.tiles = [t] ∧ s.pass p.id = some p ∧ t.n = pixelTile p.desc x y ∧ x ≤ pdWm p.desc ∧ y ≤ pdHm p.desc ∧
    memWf t.bytes = true ∧ (∀ e ∈ l, e.1 < bankNodes p ∧ e.2 < 2 ^ 128) ∧ (l.map (·.1)).Nodup ∧ (∀ e ∈ l, e.1 ≠ i) ∧
    t.free = [] ∧ t.next = i ∧ i < bankNodes p ∧ i < 65535

/-- `b` free blocks of a context's pool from block k of page p (R448). -/
def RunFree (x : Ctx) (b p k : Nat) : Prop :=
  p < x.rayPages ∧ k + b ≤ 32 ∧ ∀ e ∈ x.rayBlocks, e.1 + e.2 ≤ 32 * p + k ∨ 32 * p + k + b ≤ e.1

/-- The handle that an allocation of `b` blocks gives: the lowest page with a run, and its lowest run (R448). -/
def PoolGives (x : Ctx) (b h : Nat) : Prop :=
  ∃ p k, h = 32 * p + k ∧ RunFree x b p k ∧ ∀ p' k', RunFree x b p' k' → h ≤ 32 * p' + k'

/-- Ray depth, PIX and ORD that a trace takes (R469): the fragment's pixel and order, those of the ray a routine thread holds, or
the given ones. -/
def traceSeat (q : Quire) (t : Nat) (given : Nat × Nat) : Nat × Nat × Nat :=
  let outer := (q.th[t]?).bind (·.ray)
  ((outer.map fun r => r.depth).getD 0,
    match threadFrag q t, outer with
    | some (x, y, o), _ => (x + 65536 * y, o)
    | none, some r => (r.pix, r.ord)
    | none, none => given)

/-- The fields of a new ray's record (R449, R469), from its geometry, scene, mask, flags, payload units, depth, position and
colour. -/
def NewRay (slot : Slot) (c fid t r geo scene rmask flags u depth pix ord col : Nat) : Prop :=
  ∀ e ∈ [(255, 0, geo), (319, 256, scene), (327, 320, rmask), (335, 328, flags), (340, 336, depth), (343, 341, 7), (348, 344, u),
      (351, 349, 0), (389, 384, c), (395, 390, gathOf slot.core), (397, 396, slot.core), (403, 398, slot.lane), (405, 404, slot.q),
      (411, 406, t), (447, 416, fid), (463, 448, 0), (473, 464, 1), (479, 478, 0), (483, 480, 0), (799, 768, 0xFFFFFFFF),
      (927, 896, pix), (959, 928, ord), (1023, 960, col)],
    bitsOf r e.1 e.2.1 = e.2.2 % 2 ^ (e.1 + 1 - e.2.1)

/-- A thread of a quire may run a ray word at once: one active thread outside regions, nothing older in the log. -/
def OneTracer (s : State) (cur : Cur) (q : Quire) (t : Nat) : Prop :=
  Running s cur q ∧ cur.act = [t] ∧ cur.prog = [] ∧ q.region = none ∧ q.log = [] ∧ serveQuire s cur.slot = s ∧ q.ctx < s.ctxs.length

/-- The rays but for the LINK of their records (R449, R460). -/
def Relinked (l l' : List Ray) : Prop :=
  l'.length = l.length ∧ ∀ (i : Nat) (y : Ray), l[i]? = some y → ∃ y' : Ray, l'[i]? = some y' ∧
    y' = { y with rcd := setField y.rcd 383 352 (bitsOf y'.rcd 383 352), link := y'.link }

/-- What a trace of depth d leaves (R448, R469): beyond RDEPTH the handle says so; with no run of blocks it says so and FULL is set;
else the ray is live in the huddle of subtree 0 with its record's fields, its blocks taken, and D names it; of the other rays none
changes but in the LINK of its record. -/
def TraceLeaves (s u : State) (cur : Cur) (q q' : Quire) (t d0 geo scene rmask flags units pix ord col : Nat) (d : BitVec 8) : Prop :=
  let b := 2 + (units + 7) / 8
  let gives (h : Nat) : Prop := WritesBlock q q' cur false d.toNat 1 fun _ => h
  if rcRdepth (s.rcdOf cur.slot) < d0 + 1 then u.rays = s.rays ∧ (rcDepthTrap (s.rcdOf cur.slot) = false → gives 0xFFFFFFF2)
  else
    ((∀ p k, ¬ RunFree (s.ctx q.ctx) b p k) → u.rays = s.rays ∧
      (rcDet (s.rcdOf cur.slot) = false → gives 0xFFFFFFF3 ∧ (u.ctx q.ctx).rayFull = true)) ∧
    ∀ h, PoolGives (s.ctx q.ctx) b h →
      gives h ∧ (u.ctx q.ctx).rayBlocks = (h, b) :: (s.ctx q.ctx).rayBlocks ∧
        (∃ (rs : List Ray) (r : Ray), u.rays = rs ++ [r] ∧ Relinked s.rays rs ∧ r.at_ = .huddle ∧ r.handle = h ∧ r.ctx = q.ctx ∧ r.slot = cur.slot ∧ r.tidx = t ∧
          r.folio = q.folio ∧ r.cancel = false ∧ r.appStat = 7 ∧
          NewRay cur.slot q.ctx (((s.folio q.folio).map (·.fid)).getD 0) t r.rcd geo scene rmask flags units (d0 + 1) pix ord col) ∧
        ∃ e ∈ u.huddles, e.gath = gathOf cur.slot.core ∧ e.ctx = q.ctx ∧ (e.addr = some (scene % 2 ^ 64) ∨ e.addr = none) ∧
          e.rays.getLast? = some h

/-- The ray of thread t that a handle names (R468): of its slot and folio. -/
def RayOf (s : State) (q : Quire) (t h : Nat) (r : Ray) : Prop :=
  s.ray q.ctx h = some r ∧ r.slot = q.slot ∧ r.tidx = t

/-- A handle that names no ray of the thread. -/
def NamesNone (s : State) (q : Quire) (t h : Nat) : Prop := ∀ r, ¬ RayOf s q t h r

/-- The status of a handle that names no ray: the reserved handles' own, else CANCELLED (R470). -/
def noRayStatus (h : Nat) : Nat := if h = 0xFFFFFFF2 then 2 else if h = 0xFFFFFFF3 then 3 else 5

/-- A candidate is accepted (R456): TMIN ≤ t, and t < TMAX, or t = TMAX with a hit of a higher primitive; a NaN never. -/
def Accepts (tmin tmax hk hprim t p : Nat) : Prop :=
  let v (x : Nat) : Fpv := fpRead fp32 x
  v t ≠ .nan ∧ fpLt (v t) (v tmin) = false ∧ (fpLt (v t) (v tmax) = true ∨ (fpLt (v tmax) (v t) = false ∧ hk ≠ 0 ∧ p < hprim))

/-- A ray's record with its slot reloaded from a state block, FLAGS 7:5 read as zero (R450, R451). -/
def reloaded (r b : Nat) : Nat :=
  setField (setField (setField (setField (setField r 255 0 (bitsOf b 255 0)) 479 448 (bitsOf b 319 288)) 511 480 (bitsOf b 351 320))
    351 320 (bitsOf b 383 352)) 335 333 0

/-- A quire is blocked in a word that is not its rally's last, some thread of its leading set still able to run, nothing of it in
the operand log (R212). -/
def BlockedIn (s : State) (q : Quire) (w : Wait) (why : Why) : Prop :=
  s.quire q.slot = some q ∧ q.wait = some w ∧ w.why = why ∧ w.cur.slot = q.slot ∧ w.cur.act ≠ [] ∧
    (∀ t ∈ w.cur.act, t < q.th.length) ∧ w.cur.last = false ∧ w.cur.dsts = none ∧ q.log = [] ∧ q.region = none ∧
    (∀ th ∈ q.th, th.tryTh = none) ∧ ∃ t ∈ w.cur.lead, ∃ th, q.th[t]? = some th ∧ th.alive = true

/-- The quire goes on after its word's effect: it waits no more and its rally's next word follows (R177, R303). -/
def WentOn (w : Wait) (q q' : Quire) : Prop :=
  q' = { q with wait := none, rally := q'.rally } ∧ q'.rally.map (·.next) = q.rally.map fun _ => w.cur.pc + 8

/-- No other quire of the folio waits on the same FIFO for longer (R350). -/
def FirstInLine (s : State) (q : Quire) (w : Wait) : Prop :=
  ∀ x ∈ s.quires, x.folio = q.folio → x.slot ≠ q.slot → ∀ y, x.wait = some y → y.why = w.why → y.f.a = w.f.a → w.order ≤ y.order

/-- Master m owns the assigned context c, and READY is set (R37, R478, R491). -/
def Owned (s : State) (m c : Nat) : Prop := s.ready = true ∧ c < 64 ∧ (s.ctx c).v = true ∧ (s.ctx c).master = m

/-- The events that are writes of a context's block, with their master and context. -/
def ctxWriteOf (i : Instr) : Option (Nat × Nat) :=
  match i with
  | .ctxFqCtlWrite m c _ => some (m, c)
  | .ctxFqBaseWrite m c _ => some (m, c)
  | .ctxFqGetWrite m c _ => some (m, c)
  | .ctxResumeGo m c => some (m, c)
  | .invalVa m c => some (m, c)
  | .invalContext m c => some (m, c)
  | .ctxTgCtlWrite m c _ => some (m, c)
  | .ctxGhAddrWrite m c _ => some (m, c)
  | .ctxWake m c => some (m, c)
  | .ctxPreemptGo m c => some (m, c)
  | .ctxWdogWrite m c _ => some (m, c)
  | .ctxTrapctlResume m c => some (m, c)
  | .ctxStateDead m c => some (m, c)
  | .ctxStateRevive m c => some (m, c)
  | .ctxRayPoolWrite m c _ _ => some (m, c)
  | _ => none

/-- The events that are writes of the management master's registers, with their master. -/
def managementWriteOf (i : Instr) : Option Nat :=
  match i with
  | .fabEnWrite m _ => some m
  | .ctxOwnerAssign m _ _ => some m
  | .ctxOwnerRelease m _ => some m
  | .diagBselWrite m _ _ => some m
  | .diagBviewSnapshot m _ => some m
  | .registerWrite m off _ _ => if 0xA00 ≤ off ∧ off < 0xB40 ∨ 0x100000 ≤ off then some m else none
  | _ => none

/-- Forwarded requests, one to each agent of a list, named from n on. -/
def forwards (n cyc line src : Nat) (r : Req) (others : List Nat) : List Msg :=
  others.zipIdx.map fun e => { id := n + e.2, line := line, src := src, dst := some e.1, kind := .forward r, sent := cyc, told := [] }

/-- The message that carries tokens from `src`'s request to an agent or home; none where there are none (R76, R94). -/
def tokenMsgs (n cyc line src : Nat) (dst : Option Nat) (tok : Nat) (own data dirty fill : Bool) : List Msg :=
  if tok = 0 then [] else [{ id := n, line := line, src := src, dst := dst, kind := .tokens tok own data dirty fill, sent := cyc, told := [] }]

/-- Everything stays but one line's fields at its home, messages and their names, and the cycle, which becomes `cyc`. -/
def HomeMoves (s u : State) (line cyc : Nat) (h : Home) (ms : List Msg) : Prop :=
  u = { s with homes := u.homes, msgs := ms, nextId := u.nextId, cycle := cyc } ∧ homeOf u line = h ∧ ∀ l, l ≠ line → homeOf u l = homeOf s l

/-- The cells of a list are outside every window and under the key the access carries. -/
def CellsPlain (s : State) (data : List (Nat × Byte)) (k : Key) : Prop :=
  ∀ d ∈ data, winFind s d.1 = none ∧ keyTag s (d.1 / 16) = k

/-- What an access performed at a home changes beside bytes of memory: tokens, copies, lease copies and messages of its line, the
home's fields, the regions it strikes, the gatherings it wakes, and the moment; no register. -/
def AtTheHome (s u : State) : Prop :=
  u = { s with
        mem := u.mem, stale := u.stale, held := u.held, homes := u.homes, msgs := u.msgs, nextId := u.nextId, quires := u.quires
        leases := u.leases, bridges := u.bridges, hostLines := u.hostLines, peerTab := u.peerTab, gaths := u.gaths, cycle := u.cycle
        agenda := u.agenda } ∧
    u.quires.map (·.th) = s.quires.map (·.th)

/-- Written bytes of a list of cells stand at their homes: no other byte has changed, and no agent holds a token of their lines. -/
def CellsWritten (s u : State) (data : List (Nat × Byte)) : Prop :=
  u.mem = memSetAll s.mem data ∧ ∀ d ∈ data, ∀ h ∈ u.held, h.line = lineOf d.1 → h.tok = 0

/-- A table entry admits an importer's offset (R485). -/
def Admits (x imp off : Nat) : Prop :=
  x.testBit 0 = true ∧ (bitsOf x 11 2 = imp ∨ bitsOf x 11 2 = 0x3FF) ∧ bitsOf x 65 41 * 2 ^ 25 ≤ off ∧
    off < (bitsOf x 65 41 + bitsOf x 90 66) * 2 ^ 25

/-- The first entry of the export table that admits an importer's offset (R485). -/
def FirstAdmits (s : State) (imp off e : Nat) : Prop :=
  ∃ (i : Nat) (b : BitVec 128), i < 256 ∧ s.exportTab.find? (fun y => y.1 == i) = some (i, b) ∧ b.toNat = e ∧ Admits e imp off ∧
    ∀ j, j < i → ∀ y, s.exportTab.find? (fun y => y.1 == j) = some y → ¬ Admits y.2.toNat imp off

/-- A write of open device memory at its home (R101, R102): those bytes change, no others, and every token of their lines comes home. -/
def OpenWrite (s u : State) (pa : Nat) (bytes : List Byte) : Prop :=
  (∀ l, memGet u.mem l = if pa ≤ l ∧ l < pa + bytes.length then bytes.getD (l - pa) 0 else memGet s.mem l) ∧
    u.keyTags = s.keyTags ∧ ∀ h ∈ u.held, (∃ i, i < bytes.length ∧ h.line = lineOf (pa + i)) → h.tok = 0

/-- Open, unwindowed bytes of device memory. -/
def OpenBytes (s : State) (pa n : Nat) : Prop :=
  pa + n ≤ s.installed ∧ ∀ i, i < n → winFind s (pa + i) = none ∧ keyTag s ((pa + i) / 16) = .opened

/-- A ready device with nothing placed, on which nothing waits but what event it is about, every bank of a gathering in CACHE: no
node has a folio to place, and no context that `c` is not stops its launches (R208, R209). -/
def EmptyGathering (s : State) (g c : Nat) : Prop :=
  g < 48 ∧ g < s.gaths.length ∧ s.ready = true ∧ s.folios = [] ∧ s.quires = [] ∧ (∀ n ∈ s.nodes, n.gang = [] ∧ nodePlan s n = none) ∧
    (s.gath g).banks = List.replicate 64 .cache ∧ (s.gath g).maps = [] ∧ (s.ctx c).dead = false ∧ (s.ctx c).tgEn = true

/-- One ray waits in the one huddle of an engine, its subtree's address `a` (R460). -/
def LoneRay (s : State) (g c h a : Nat) (r : Ray) : Prop :=
  s.huddles = [{ gath := g, ctx := c, addr := some a, rays := [h], susp := false }] ∧ (∀ v ∈ s.serving, v.huddle.gath ≠ g) ∧ (s.ctx c).dead = false ∧
    s.ray c h = some r ∧ r.handle = h ∧ r.ctx = c ∧ r.gath = g ∧ r.at_ = .huddle ∧ (∀ x ∈ s.rays, x.wpend = false ∧ x.link = none) ∧
    (∀ q ∈ s.quires, ∀ th ∈ q.th, th.ray = none) ∧
    ∃ q th, s.quire r.slot = some q ∧ q.folio = r.folio ∧ q.th[r.tidx]? = some th ∧ th.x = false

/-- What reads of an engine leave as it was, with the record of ray `h` ready to be written: its page is in the gathering's TLB. -/
def RayWritable (s u : State) (g c h : Nat) (r : Ray) : Prop :=
  let via : Via := { core := none, gath := some g }
  u.huddles = s.huddles ∧ u.rays = s.rays ∧ u.ctxs = s.ctxs ∧ (u.ctx c).execWait = [] ∧ tracerGone u r = false ∧
    (tlbLookup u via c (rayAddr u c h)).isSome = true ∧ ∃ pg, xlate u via c (rayAddr u c h) .write = (u, .ok pg)

/-- The instruction is a word: an F-form or the P-form, and no event. -/
def IsWord (i : Instr) : Prop := i.word.isSome = true ∨ ∃ last stall p r, i = .pformWord last stall p r

/-- A word that plain issue takes (R172, R251 to R257, R303, R405): it reads no register of the thread it could find late, guards
nothing, stands in no cross-thread class, and neither the operand log, the bench, REGCHECK nor a held chain is involved. -/
def PlainIssue (s : State) (slot : Slot) (q : Quire) (x : WordParts) (op : Nat) (h : Hdr) : Prop :=
  h.guard = 0 ∧ h.neg = false ∧ q.fixp = [] ∧ q.varp = [] ∧ q.chain = none ∧ rcCheck (s.rcdOf slot) = false ∧ benchOf s slot = [] ∧
  q.slot = slot ∧ isCross op = false ∧ isLogged op = false ∧ timingOf op ≠ .variable ∧ (timingOf op = .control → h.last = true) ∧
  dynOk q (s.rcdOf slot) (((s.folioOf slot).map fun f => f.stage).getD .compute)
    (((s.folioOf slot).map fun f => f.pass != 0).getD false) (wordInfo (fifoBytes (s.rcdOf slot) / 4) x) x = true ∧
  ∀ th ∈ q.th, ∀ fr, th.frag = some fr → fr.helper = false

/-- The device right after reset, once bring-up has gone through (R491). -/
def resetReady : State := { State.reset with boot := 3, fwOk := true, ready := true }

end Sys2Proof.Machine
end

