-- ==== Sys2Proof/Certificates/Slice0/Obligations.lean ====
section
/-! DEFINITION. The statements about the machine, for the provers: what each family of words and events does, written from
the rules of the specification, and the whole-machine statements. -/

open Sys2Proof Sys2Proof.Machine

/-- Messages, leases and accesses at a home complete (R14, R69, R72, R76, R78, R79, R80, R81, R89, R91, R93, R94, R135): each event runs on
every state that holds what it is about, and leaves it so. -/
def Sys2Proof.Machine.CoherenceEventsComplete : Prop :=
  (∀ (s : State) (m : Msg), s.msg m.id = some m →
    let h := homeOf s m.line
    let given (r : Req) (u : State) : Prop := (homeOf u m.line).ht = if r = .read then h.ht - 1 else 0
    let settled : Prop := m.src < 48 ∨ h.ckey = none ∨ h.ckey = some .opened
    let first : Prop := ∀ x ∈ s.msgs, x.id < m.id → isPersMsg m.src m.line x = false
    (m.kind = .request .read → bridgeReady s m.line .read = true → h.win = false → settled →
      ∃ u : State, exec (.transientReadRequest m.id) s = .next u ∧ given .read u) ∧
    (m.kind = .request .write → bridgeReady s m.line .write = true → h.win = false → settled →
      ∃ u : State, exec (.transientWriteRequest m.id) s = .next u ∧ given .write u) ∧
    (∀ r : Req, m.kind = .activate r → bridgeReady s m.line r = true → hostCaches s m.line = false → h.win = false → settled →
      (m.src < 48 → (s.gath m.src).sleep ≠ .flushed) →
      ∃ u : State, exec (.persistentBroadcast m.id) s = .next u ∧ given r u) ∧
    (∀ a : Nat, m.dst = some a → a ≠ 48 → h.win = false → m.kind = .forward .read →
      ∃ u : State, exec (.forwardedRead m.id) s = .next u ∧
        (heldOf u a m.line).tok = (heldOf s a m.line).tok - if (heldOf s a m.line).own then 1 else 0) ∧
    (∀ a : Nat, m.dst = some a → (a = 48 → hostCaches s m.line = false) → h.win = false → m.kind = .forward .write →
      ∃ u : State, exec (.forwardedWrite m.id) s = .next u ∧ (heldOf u a m.line).tok = 0) ∧
    (∀ (n : Nat) (own dat dirty : Bool), m.dst = none → m.kind = .tokens n own dat dirty false →
      ∃ u : State, exec (.tokenArrival m.id) s = .next u ∧ (homeOf u m.line).ht = h.ht + n) ∧
    (∀ (a n : Nat) (own dat dirty : Bool), m.dst = some a → 48 ≤ a → (∀ p ∈ s.persists, p.line ≠ m.line) → (heldOf s a m.line).req = none →
      (heldOf s a m.line).recorded = none → (heldOf s a m.line).pers = none → s.peerTab.length < 65536 → m.kind = .tokens n own dat dirty true →
      ∃ u : State, exec (.fillArrival m.id) s = .next u ∧ (heldOf u a m.line).tok = (heldOf s a m.line).tok + n) ∧
    (∀ r : Req, m.kind = .persist r → first →
      ∃ u : State, exec (.persistentRequestRegister m.id) s = .next u ∧ ∃ p ∈ u.persists, p.agent = m.src ∧ p.line = m.line ∧ p.req = r) ∧
    (m.kind = .deactivate → first →
      ∃ u : State, exec (.persistentDeactivation m.id) s = .next u ∧ ∀ p ∈ u.persists, p.line = m.line → p.agent ≠ m.src) ∧
    (∀ agent : Nat, asks m agent = true → agent ∉ m.told → m.sent + 6096 ≤ s.cycle → (m.kind = .recall → (s.master 0).errSize < 6) →
      ∃ u : State, exec (.homeResponseTimeout agent m.line) s = .next u ∧ ∃ x ∈ u.msgs, x.id = m.id ∧ agent ∈ x.told) ∧
    (m.id < s.nextId → ∀ (data : List (Nat × Byte)) (k : Key),
      (∀ back, m.kind = .write3 data k back →
        ∃ u : State, exec (.route3WriteAtHome m.id) s = .next u ∧ ∀ x ∈ u.msgs, x.id ≠ m.id) ∧
      (∀ y, m.kind = .posted data k y → ∃ u : State, exec (.postedWritePerform m.id) s = .next u ∧ ∀ x ∈ u.msgs, x.id ≠ m.id))) ∧
  (∀ (s : State) (agent line c : Nat) (r : Req), (heldOf s agent line).req = some (r, c) → (heldOf s agent line).pers = none →
    c + 1024 ≤ s.cycle →
    ∃ u : State, exec (.transientRequestTimeout agent line) s = .next u ∧ (heldOf u agent line).fails = (heldOf s agent line).fails + 1) ∧
  (∀ (s : State) (w : LeaseAt) (line : Nat) (k : Key),
    (winFind s (line * 128) = none → ∃ u : State, exec (.leaseRequest w line k) s = .next u ∧ (leaseOf u w line k).isSome = true) ∧
    (∀ le : Lease, s.leases.filter (fun l => l.at_ == w && l.line == line) = [le] →
      ∃ u : State, exec (.leaseRenewal w line) s = .next u ∧ ∃ l, leaseOf u w line le.key = some l ∧ s.cycle + 65536 ≤ l.exp) ∧
    ∃ u : State, exec (.leaseRecall line) s = .next u ∧ ∀ l ∈ u.leases, l.line ≠ line) ∧
  (∀ (s : State) (q : Quire) (e : LogEntry) (a : Acc), s.quire q.slot = some q → q.log = [e] → e.acc = [a] → a.nc = true → a.st = .waiting →
    a.piece ≤ 1 → e.op = 0x100 ∨ e.op = 0x102 →
    ∃ (u : State) (q' : Quire), exec (.ncAccessAtHome q.slot e.seq a.t) s = .next u ∧ u.quire q.slot = some q' ∧ q'.log = []) ∧
  ∀ (s : State) (q : Slot), (s.quire q).isSome = true →
    ∃ u : State, exec (.flushReadReturn q) s = .next u ∧ NothingPosted u

/-- Events of the bridges, the power manager, copies and passes complete (R95, R98, R99, R101, R102, R104, R123, R166, R420, R421, R427, R485,
R489, R490): each runs on every state that holds what it is about, and leaves it so. -/
def Sys2Proof.Machine.DeviceEventsComplete : Prop :=
  (∀ (s : State) (line k : Nat), k < 2 →
    (isHost (line * 128) = true →
      (∃ u : State, exec (.snpinv line k) s = .next u ∧ half (bridgeOf u line) k = .i) ∧
      (half (bridgeOf s line) k ≠ .i → ∃ u : State, exec (.snpdata line k) s = .next u ∧ half (bridgeOf u line) k = .s) ∧
      exec (.snpcur line k) s = .next s ∧
      (s.hostCache = true → ∀ x : Bool, ∃ u : State, exec (.hostCacheGrant line k x) s = .next u ∧ half (bridgeOf u line) k ≠ .i)) ∧
    (hostCaches s line = true → ∃ u : State, exec (.bisnpResponse line k) s = .next u ∧ half (hostHalves u line) k = .i)) ∧
  (∀ (s : State) (pa n imp off e : Nat) (bytes : List Byte), memWf s.mem = true →
    (s.hostMem = true → pa + n ≤ s.installed → (∀ f ∈ s.folios, f.win = []) →
      ∃ u : State, exec (.cxlMemRead pa n) s = .next u ∧ u.mem = s.mem) ∧
    (s.hostMem = true → OpenBytes s pa bytes.length →
      ∃ u : State, exec (.cxlMemWrite pa bytes) s = .next u ∧ ∀ i, i < bytes.length → memGet u.mem (pa + i) = bytes.getD i 0) ∧
    (FirstAdmits s imp off e → e.testBit 1 = true →
      let pa := bitsOf e 115 91 * 2 ^ 25 + (off - bitsOf e 65 41 * 2 ^ 25)
      OpenBytes s pa bytes.length →
      ∃ u : State, exec (.peerAccessAtExporter imp off (some bytes) n) s = .next u ∧
        ∀ i, i < bytes.length → memGet u.mem (pa + i) = bytes.getD i 0) ∧
    (∃ u : State, exec (.peerLinkDown imp) s = .next u ∧ imp ∈ u.peersDown) ∧
    (∀ line : Nat, (line, imp, n) ∈ s.peerTab → importerLate s (line, imp, n) = true → (s.master 0).errSize < 6 →
      ∃ u : State, exec (.peerRecallTimeout imp) s = .next u ∧ (line, imp, n) ∉ u.peerTab)) ∧
  (∀ (s : State) (g est : Nat), g < s.gaths.length →
    (maySleep s g = true → ∃ u : State, exec (.gatheringSleep g) s = .next u ∧ (u.gath g).sleep ≠ .awake) ∧
    ((s.gath g).sleep = .retain → ∃ u : State, exec (.gatheringWake g) s = .next u ∧ (u.gath g).sleep = .awake) ∧
    ∃ u : State, exec (.governorWindowEnd est) s = .next u ∧ u.est = est % 65536) ∧
  (∀ (s s1 s2 : State) (core tag : Nat) (fo : Folio) (t : Tag), runningCopy s core tag = some (fo, t) → copyMoving s core t = true →
    copyBegin s core fo t = (s1, none) →
    let t1 := copyNow s1 fo t
    peerGone s1 t1 = false →
    (movesFault (gathOf core) fo.ctx t1 t1.going.left s1 = (s2, none) →
      ∃ u : State, exec (.copyComplete core tag) s = .next u ∧ runningCopy u core tag = none) ∧
    ∀ va r : Nat, r ≠ 0 → movesFault (gathOf core) fo.ctx t1 t1.going.left s1 = (s2, some (va, r)) →
      ∃ u : State, exec (.copyFaultEnd core tag) s = .next u ∧ runningCopy u core tag = none) ∧
  ∀ (s : State) (p : Pass) (n : Node), s.pass p.id = some p → s.node p.node = some n → n.ready.isSome = true → n.failed = none → p.fail = none →
    (s.ctx p.ctx).dead = false →
    (p.st = .start → p.imm = false →
      ∃ u : State, exec (.stageBoundary p.id) s = .next u ∧ (u.pass p.id).map (·.st) = some .mesh) ∧
    (p.st = .raster → p.imm = false → spentTiles s p = [] → p.nextTile < tileCount p.desc → (dealGath s p).isSome = true →
      ∃ u : State, exec (.tileDeal p.id) s = .next u ∧ (u.pass p.id).map (·.nextTile) = some (p.nextTile + 1)) ∧
    (p.st = .raster → p.imm = true → p.nextTile < tileCount p.desc →
      ∃ u : State, exec (.tileRasterisation p.id p.nextTile) s = .next u ∧ (u.pass p.id).map (·.nextTile) = some (p.nextTile + 1))

/-- Bring-up and the resets complete (R481, R487, R491): power-on on every state; the training of the memories, and of the host link,
where the step before it has been done; a reset of a function, and of all of them, once the device is ready. -/
def Sys2Proof.Machine.BringUpEventsComplete : Prop :=
  ∀ s : State,
    (∀ p : Product, ∃ u : State, exec (.powerOnReset p) s = .next u ∧ u.product = p ∧ u.ready = false ∧ u.quires = [] ∧
      ∀ c, c < 64 → (u.ctx c).v = false) ∧
    (∀ n : Nat, s.boot = 1 → ∃ u : State, exec (.gddr7TrainingDone n) s = .next u ∧ u.boot = 2 ∧ u.ready = s.ready ∧ u.meas = s.meas) ∧
    (∀ a b : Bool, s.boot = 2 → ∃ u : State, exec (.hostLinkTrained a b) s = .next u ∧ u.boot = 3 ∧ u.ready = true ∧ u.mem = s.mem) ∧
    (∀ m : Nat, s.boot = 3 → m < 32 → ∃ u : State, exec (.functionLevelReset m) s = .next u ∧
      ∀ c, c < 64 → (s.ctx c).master = m → (u.ctx c).v = false) ∧
    (s.boot = 3 → ∃ u : State, exec .hotResetLinkDown s = .next u ∧ u.boot = 2 ∧
      ∀ c, c < 64 → (s.ctx c).master < 32 → (u.ctx c).v = false)

/-- The device's own events complete (R14, R69, R72, R76, R78, R79, R80, R81, R89, R91, R93, R94, R95, R98, R99, R101, R102, R104, R123,
R135, R166, R420, R421, R427, R481, R485, R487, R489, R490, R491): on every state that holds what it is about, an event leaves a next state in which
it has done it. What else the state then holds, and what the event leaves alone, the statements about each say. -/
def Obligations.EventsRunTheirEffects : Prop := CoherenceEventsComplete ∧ DeviceEventsComplete ∧ BringUpEventsComplete

/-- Class 0 and its immediate twins (R280, R282 to R286): each word writes its rule's result in its destination and changes
nothing else of the device. -/
def Obligations.IntegerWordsWriteTheirResults : Prop :=
  ∀ (i : Instr) (s : State) (cur : Cur) (q : Quire) (r : Result), Running s cur q → intRule i q cur = some r →
    ∃ g : Quire → Quire, exec i s = .next (s.setQuire cur.slot g) ∧ WritesBlock q (g q) cur r.u r.d r.n r.val

/-- Class 1 (R227 to R230, R287 to R291), FP32, its pairs, transcendentals and FP64: each word writes its rule's result and
changes nothing else of the device. -/
def Obligations.FloatWordsWriteTheirResults : Prop :=
  ∀ (i : Instr) (s : State) (cur : Cur) (q : Quire) (r : Result), Running s cur q → floatRule i q cur = some r →
    ∃ g : Quire → Quire, exec i s = .next (s.setQuire cur.slot g) ∧ WritesBlock q (g q) cur r.u r.d r.n r.val

/-- Packed words of class 2 (R292): each word writes its rule's elements in its destination and changes nothing else. -/
def Obligations.PackedWordsWriteTheirResults : Prop :=
  ∀ (i : Instr) (s : State) (cur : Cur) (q : Quire) (r : Result), Running s cur q → packedRule i q cur = some r →
    ∃ g : Quire → Quire, exec i s = .next (s.setQuire cur.slot g) ∧ WritesBlock q (g q) cur r.u r.d r.n r.val

/-- Conversions, packing, moves, selects and predicates as registers (R293 to R299): each word writes its rule's result in its
destination and changes nothing else. -/
def Obligations.MovesAndConversionsWriteTheirResults : Prop :=
  ∀ (i : Instr) (s : State) (cur : Cur) (q : Quire) (r : Result), Running s cur q → moveRule i q cur = some r →
    ∃ g : Quire → Quire, exec i s = .next (s.setQuire cur.slot g) ∧ WritesBlock q (g q) cur r.u r.d r.n r.val

/-- Cross-thread words (R315 to R320) and TSTAT (R326): each active thread's destination is written, from the sources of the
active threads as they were. MATCH has no B and no C (R320). -/
def Obligations.CrossThreadWordsWriteTheirResults : Prop :=
  (∀ (i : Instr) (s : State) (cur : Cur) (q : Quire) (r : Result), Running s cur q → crossRule i q cur = some r →
    ∃ g : Quire → Quire, exec i s = .next (s.setQuire cur.slot g) ∧ WritesBlock q (g q) cur r.u r.d r.n r.val) ∧
  ∀ (h : Hdr) (f : Full), (Instr.matchBits h f).wf = true → f.b = 0 ∧ f.c = 0

/-- Compares, predicate logic and register bits (R279, R290, R298, R299): the predicates named are written, p0 and q0 stay,
and nothing else changes. -/
def Obligations.PredicateWordsWriteTheirResults : Prop :=
  ∀ (i : Instr) (s : State) (cur : Cur) (q : Quire) (r : Preds), Running s cur q → predRule i q cur = some r →
    ∃ g : Quire → Quire, exec i s = .next (s.setQuire cur.slot g) ∧ WritesPreds q (g q) cur r.u r.val

/-- Branches, calls, returns, meeting addresses, EXIT and NOP (R302 to R313): each active thread's control fields change as
the rule of the word says, and nothing else of the device changes. -/
def Obligations.ControlWordsChangeTheirThreads : Prop :=
  ∀ (i : Instr) (s : State) (cur : Cur) (q : Quire) (ok : Prop) (f : Nat → Thread → Thread), Running s cur q →
    cur.act.Nodup → controlRule i s q cur = some (ok, f) → ok →
    ∃ g : Quire → Quire, exec i s = .next (s.setQuire cur.slot g) ∧
      OnlyThr q (g q) fun t th => if t ∈ cur.act then f t th else th

/-- IADDC (R281): the exact sum or difference with the carry-in goes modulo 2^32 to D and the carry or borrow to the
carry-out predicate, p0 and q0 apart. Its C field names predicates, the carry-in only with CI, and under U uniform ones. -/
def Sys2Proof.Machine.CarriesAreExact : Prop :=
  (∀ (h : Hdr) (f : Full) (s : State) (cur : Cur) (q : Quire), Running s cur q →
    let ci (t : Nat) : Int := if f.cls.getLsbD 0 ∧ predOf q cur f.u t (f.c.toNat % 16) then 1 else 0
    let a (t : Nat) : Int := (srcW q cur f.sa t f.a).toNat
    let b (t : Nat) : Int := (srcW q cur f.sb t f.b).toNat
    let x (t : Nat) : Int := if f.cls.getLsbD 1 then a t - b t - ci t else a t + b t + ci t
    let co (t : Nat) : Bool := if f.cls.getLsbD 1 then x t < 0 else 4294967296 ≤ x t
    ∃ (g : Quire → Quire) (q1 : Quire), exec (.iaddc h f) s = .next (s.setQuire cur.slot g) ∧
      WritesBlock q q1 cur f.u f.d.toNat 1 (fun t => (x t % 4294967296).toNat) ∧
      WritesPreds q1 (g q) cur f.u fun t k => if k = f.c.toNat / 16 then some (co t) else none) ∧
  ∀ (h : Hdr) (f : Full), (Instr.iaddc h f).wf = true →
    f.sc = false ∧ (f.cls.getLsbD 0 = false → f.c.toNat % 16 = 0) ∧ (f.u = true → f.c.toNat / 16 < 8 ∧ f.c.toNat % 16 < 8)

/-- A P-form word (R248, R249): each active thread executes the halves whose guards hold for it, both halves reading every
source before either writes; every other register and everything else stays. -/
def Sys2Proof.Machine.PairedHalvesReadBeforeTheyWrite : Prop :=
  ∀ (last : Bool) (stall : BitVec 4) (p r : Half) (s : State) (cur : Cur) (q : Quire), Running s cur q →
    ∃ g : Quire → Quire, exec (.pformWord last stall p r) s = .next (s.setQuire cur.slot g) ∧
      OnlyVec q (g q) fun t n =>
        let on (x : Half) : Bool := decide (t ∈ cur.act) && decide (x.d.toNat = n) && (pReg q cur t x.guard.toNat != x.neg)
        let val (x : Half) : Word :=
          BitVec.ofNat 32 (pairOp x.op q.ftz (src q cur false t x.d 1) (src q cur x.as t x.a 1))
        if on r then some (val r) else if on p then some (val p) else none

/-- A carry chain adds exactly, and a P-form pair reads before it writes. -/
def Obligations.CarriesAreExactAndHalvesReadFirst : Prop := CarriesAreExact ∧ PairedHalvesReadBeforeTheyWrite

/-- VOTE (R316): over the active threads, ALL, ANY and UNI give a predicate and BALLOT a mask in a register pair, to each
active thread or, with .u, to the quire. -/
def Sys2Proof.Machine.VotesCountTheActiveThreads : Prop :=
  ∀ (h : Hdr) (f : Full) (s : State) (cur : Cur) (q : Quire), Running s cur q →
    let v (t : Nat) : Bool := pReg q cur t (f.a.toNat % 16) != f.cls.getLsbD 3
    let res : Bool :=
      if f.cls.toNat % 8 = 0 then decide (∀ t ∈ cur.act, v t = true)
      else if f.cls.toNat % 8 = 1 then decide (∃ t ∈ cur.act, v t = true)
      else decide ((∀ t ∈ cur.act, v t = true) ∨ ∀ t ∈ cur.act, v t = false)
    ∃ g : Quire → Quire, exec (.vote h f) s = .next (s.setQuire cur.slot g) ∧
      if f.cls.toNat % 8 = 3 then WritesBlock q (g q) cur (f.cls.getLsbD 4) f.d.toNat 2 fun _ => bitMask (cur.act.filter v)
      else WritesPreds q (g q) cur (f.cls.getLsbD 4) fun _ k => if k = f.d.toNat then some res else none

/-- RDLANE and WRLANE (R321, R322): one thread's register goes to a scalar; a scalar goes to one thread's register if that
thread is active. The thread is B, or the scalar B modulo W, or the lowest active one. -/
def Sys2Proof.Machine.LaneWordsTouchOneThread : Prop :=
  ∀ (h : Hdr) (f : Full) (s : State) (cur : Cur) (q : Quire), Running s cur q →
    let n : Nat :=
      if f.cls = 0 then f.b.toNat
      else if f.cls = 1 then src q cur true (cur.act.headD 0) f.b 1 % max 1 q.w
      else cur.act.headD 0
    (∃ g : Quire → Quire, exec (.rdlane h f) s = .next (s.setQuire cur.slot g) ∧
      OnlySca q (g q) fun r => if r = f.d.toNat then some (vReg q cur n f.a.toNat) else none) ∧
    (∃ g : Quire → Quire, exec (.wrlane h f) s = .next (s.setQuire cur.slot g) ∧
      OnlyVec q (g q) fun t r =>
        if t = n ∧ n ∈ cur.act ∧ r = f.d.toNat then some (sReg q cur (cur.act.headD 0) f.a.toNat) else none)

/-- Votes count the active threads; lane words touch one thread. -/
def Obligations.VotesAndLaneWordsNameThreads : Prop := VotesCountTheActiveThreads ∧ LaneWordsTouchOneThread

/-- YIELD (R311), MODE (R329) and MOVS (R330 to R332): the word's yield mark, the quire's FTZ bit, a special register in D
(outside the cases that trap PRIVILEGED, wait for tags in a deterministic launch, or read tags after an acquire); nothing else changes. -/
def Sys2Proof.Machine.QuireStateWordsActAsStated : Prop :=
  ∀ (h : Hdr) (f : Full) (s : State) (cur : Cur) (q : Quire), Running s cur q →
    exec (.yield h f) s = .next { s with cur := some { cur with yielded := true } } ∧
    (∃ g : Quire → Quire, exec (.mode h f) s = .next (s.setQuire cur.slot g) ∧ g q = { q with ftz := f.b.getLsbD 0 }) ∧
    ((rcDet (s.rcdOf cur.slot) = true → (f.cls.getLsbD 0 = true → s.mstPriv.getLsbD (s.ctx q.ctx).master = true) ∧
        (f.a = 12 → ∀ fo, s.folio q.folio = some fo → ∀ x ∈ fo.tags, x.core = cur.slot.core → x.st ≠ .collecting ∧ x.st ≠ .running)) →
      (f.a = 12 → acqWaits q cur.act = false ∧ parkedThreads q cur.act = false) →
      ∃ g : Quire → Quire, exec (.movs h f) s = .next (s.setQuire cur.slot g) ∧
        WritesBlock q (g q) cur f.u f.d.toNat (if f.a = 10 ∨ f.a = 12 then 2 else 1) fun t =>
          specialReg s cur q f.a.toNat (f.cls.getLsbD 0) f.u t)

/-- REGQ (R327, R328), with every counter zero, no region, no bench entry and no latch or chain: a count whose granule is not
larger is taken at once, a larger one when the lane has the registers and no earlier request waits; registers kept keep
their values. -/
def Sys2Proof.Machine.RegisterCountsChangeAtOnce : Prop :=
  ∀ (h : Hdr) (f : Full) (s : State) (cur : Cur) (q : Quire), Running s cur q → q.region = none → q.latch = none →
    q.chain = none → (∀ k ∈ q.ctr, k = 0) → (∀ b ∈ (s.gath (gathOf cur.slot.core)).bench, b.slot ≠ cur.slot) →
    (regGranule f.b.toNat ≤ regGranule q.regs ∨
      (growWaits s cur.slot none = false ∧ q.w * (regGranule f.b.toNat - regGranule q.regs) ≤ laneFree s cur.slot)) →
    ∃ g : Quire → Quire, exec (.regq h f) s = .next (s.setQuire cur.slot g) ∧ (g q).regs = f.b.toNat ∧
      g q = { q with regs := f.b.toNat, th := (g q).th } ∧
      ∀ (t : Nat) (th : Thread), q.th[t]? = some th →
        ∃ th' : Thread, (g q).th[t]? = some th' ∧ th' = { th with v := th'.v } ∧
          ∀ r, r < min f.b.toNat q.regs → th'.v[r]? = th.v[r]?

/-- The words of a quire's own state: modes, special registers, register counts. -/
def Obligations.QuireStateAndRegisterCounts : Prop := QuireStateWordsActAsStated ∧ RegisterCountsChangeAtOnce

/-- TRAP and BPT (R314, R398, R400, R402), where no capture is taken and no region is open: every active thread halts at the
word with its registers kept and leaves the leading set, no other thread changes, the record carries the code and reaches the
fault area. What the record's write at its home does to accesses that wait for the same line is left open. -/
def Sys2Proof.Machine.SoftwareTrapsHaltTheirThreads : Prop :=
  ∀ (h : Hdr) (f : Full) (s : State) (cur : Cur) (q : Quire) (i : Instr) (code ucode : Nat), Running s cur q →
    cur.act.Nodup → (∀ t ∈ cur.act, t < 64) → q.region = none → RealSlot cur.slot → q.ctx < s.ctxs.length →
    (s.ctx q.ctx).capSize = 0 →
    (i, code, ucode) ∈ [(Instr.trap h f, 0x30, f.a.toNat * 256 + f.b.toNat), (Instr.bpt h f, 0x31, 0)] →
    ∃ (t : State) (q' : Quire) (r : Record), exec i s = .next t ∧ t.cur = some { cur with act := [] } ∧
      t.quire cur.slot = some q' ∧
      OnlyThr
        { q with
          log := q'.log, rally := q.rally.map fun y => { y with lead := y.lead.filter fun n => !cur.act.contains n } }
        q' (fun n th => if n ∈ cur.act then haltedAt cur code th else th) ∧
      IsTrapRecord r cur code ucode ∧ RecordGoes s t q.ctx r

/-- CTX_TRAPCTL RESUME by the owner (R37, R401): in the context's quires every thread halted by SOFTWARE or BREAKPOINT goes on at
the word after its trapping word; a thread halted by another code, and everything else, stays. -/
def Sys2Proof.Machine.ResumeGoesOnAfterTheTrap : Prop :=
  ∀ (m c : Nat) (s : State), s.ready = true → c < 64 → (s.ctx c).v = true → (s.ctx c).master = m →
    ∃ t : State, exec (.ctxTrapctlResume m c) s = .next t ∧ t = { s with quires := t.quires } ∧
      t.quires.length = s.quires.length ∧
      ∀ (k : Nat) (q : Quire), s.quires[k]? = some q →
        ∃ q' : Quire, t.quires[k]? = some q' ∧
          if q.ctx = c then
            OnlyThr q q' fun _ th =>
              match th.halt with
              | some x =>
                if x.code = 0x30 ∨ x.code = 0x31 then
                  { th with halt := none, pc := x.pc + 8, npc := none, xfer := false, td := 0 }
                else th
              | none => th
          else q' = q

/-- A software trap halts its threads, and a resume goes on after it. -/
def Obligations.TrapsHaltAndResumeGoesOn : Prop := SoftwareTrapsHaltTheirThreads ∧ ResumeGoesOnAfterTheTrap

/-- TRY (R183, R190, R191, R323). Inside a region a member nests and another thread is parked at the TRY. Outside one, at a safe
point whose checkpoints could be written for every active thread, none behind an older access, the active threads become the members of a region, at
depth 1, with the word's handler and code register. -/
def Sys2Proof.Machine.TryOpensNestsOrParks : Prop :=
  ∀ (h : Hdr) (f : Direct) (s : State) (cur : Cur) (q : Quire), Running s cur q → NoSection s cur q → cur.act.Nodup →
    (q.region.isSome → (∀ t ∈ cur.act, ∀ th, q.th[t]? = some th → th.td ≠ 7) →
      ∃ g : Quire → Quire, exec (.tryBegin h f) s = .next (s.setQuire cur.slot g) ∧
        OnlyThr q (g q) fun t th =>
          if t ∈ cur.act then (if q.member t then { th with td := th.td + 1 } else { th with p := true, npc := some cur.pc })
          else th) ∧
    (∀ (s1 s2 s3 : State) (m : Nat), q.region = none → safePoint s cur.slot q.ctx cur.pc.toNat = (s1, .ok true) →
      liveMask s1 cur.slot q.ctx cur.pc.toNat = (s2, .ok (some m)) →
      16 + 4 * ((List.range q.regs).filter fun r => m.testBit r).length ≤ rcCkpt (s2.rcdOf cur.slot) →
      (∀ t ∈ cur.act, checkpointBehind q (s2.rcdOf cur.slot) t = false) →
      writeCheckpoints q ((List.range q.regs).filter fun r => m.testBit r) cur.act s2 = (s3, some []) →
      ∃ (t : State) (g : Quire → Quire), exec (.tryBegin h f) s = .next t ∧
        t = { s3.setQuire cur.slot g with cur := some cur } ∧
        ∀ q3 : Quire, q3.th.length = q.th.length →
          (g q3).region = some { members := cur.act, reads := [], writes := [], buf := [], entries := [], scope := 0, start := 0
                                 begun := s3.cycle, collecting := none, conflict := none } ∧
          g q3 = { q3 with region := (g q3).region, th := (g q3).th } ∧
          ∀ (n : Nat) (th : Thread), q3.th[n]? = some th →
            (g q3).th[n]? = some (if n ∈ cur.act then
              { th with
                td := 1
                tryTh := some { handler := ruleTarget cur f.off, codereg := f.d.toNat, depth0 := th.depth
                                live := (List.range q.regs).filter fun r => m.testBit r, regs := th.v, chk := [], since := q3.seq
                                abort := none, seen := th.v, wrote := [] } }
              else th))

/-- COMMIT and ABORT (R324, R325, R187, R190), for threads inside a region: a commit leaves one level, and at the outermost one
holds the thread, unless its abort is due, and gives the region its scope; the collection begins when every member is held. An
abort is noted for the rally's end with EXPLICIT and its code, and the thread is held no more. -/
def Sys2Proof.Machine.CommitHoldsAndAbortIsNoted : Prop :=
  ∀ (h : Hdr) (f : Full) (s : State) (cur : Cur) (q : Quire) (r : Region), Running s cur q → cur.act.Nodup → q.region = some r →
    (∀ t ∈ cur.act, ∀ th, q.th[t]? = some th → th.td ≠ 0) →
    (f.cls.toNat % 8 ≠ 7 →
      ∃ (g : Quire → Quire) (q1 : Quire), exec (.commit h f) s = .next (s.setQuire cur.slot g) ∧
        OnlyThr q q1 (fun t th =>
          if t ∈ cur.act then
            (if th.td = 1 then
              { th with c := !decide (∃ y, th.tryTh = some y ∧ (y.abort.isSome ∨ (r.conflict.isSome ∧ t ∈ r.members))) }
            else { th with td := th.td - 1 })
          else th) ∧
        g q = { q1 with region := (g q).region } ∧
        ((∀ t ∈ cur.act, ∀ th, q.th[t]? = some th → th.td ≠ 1) → (g q).region = some r) ∧
        ((∃ t ∈ cur.act, ∃ th, q.th[t]? = some th ∧ th.td = 1) →
          (g q).region = some
            { r with
              scope := f.cls.toNat % 8
              collecting :=
                if (∀ t ∈ r.members, ∃ th, q1.th[t]? = some th ∧ th.c = true) ∧ r.collecting = none then some s.cycle
                else r.collecting })) ∧
    ∃ g : Quire → Quire, exec (.abortTry h f) s = .next (s.setQuire cur.slot g) ∧
      OnlyThr q (g q) fun t th =>
        let code := if f.cls.getLsbD 0 then src q cur f.sa t f.a 1 % 256 else f.b.toNat
        if t ∈ cur.act then
          { th with
            c := false
            tryTh := th.tryTh.map fun y =>
              { y with abort := match y.abort with
                                | none => some (1, code * 256 + 1)
                                | some (k, v) => if 1 < k then some (1, code * 256 + 1) else some (k, v) } }
        else th

/-- TRY opens, nests or parks; COMMIT holds; ABORT is noted. -/
def Obligations.TryCommitAndAbort : Prop := TryOpensNestsOrParks ∧ CommitHoldsAndAbortIsNoted

/-- Loads, stores and atomics (R335 to R340, R346, R405), issued to the operand log: where every check passes for every actor,
the word enters one access for each at its own address, two halves of a 128-bit one, a uniform word one for the quire; the
counter it names goes up; nothing else changes. -/
def Obligations.AccessesEnterTheOperandLog : Prop :=
  ∀ (i : Instr) (s : State) (cur : Cur) (q : Quire) (m : MemForm) (pg : Nat → Page), Running s cur q → cur.lazy = true →
    memRule i s q cur = some m → m.ok → m.aligned cur →
    (m.f.u = true → q.region = none) → (∀ t ∈ actors cur m.f.u, m.fits s cur.slot q pg t) →
    ∃ g : Quire → Quire, exec i s = .next (s.setQuire cur.slot g) ∧
      g q =
        { q with
          ctr := if m.f.cen then q.ctr.modify m.f.csel.toNat (· + 1) else q.ctr
          log := q.log ++
            [{ seq := q.seq, pc := cur.pc, op := m.op, f := m.f, uni := m.f.u
               ctr := if m.f.cen then some m.f.csel.toNat else none
               act := cur.act, acc := (actors cur m.f.u).flatMap fun t => ruleHalves (m.placed s cur.slot q pg t) }] }

/-- Generic loads (R56, R109, R336, R338): with a token and data of the line the destination takes the bytes that the gathering's
read binds, extended by the size code, and the line is the cache's most recently used; no byte of memory and nothing else changes.
Register forms and U alike. -/
def Sys2Proof.Machine.LoadsBindTheirBytes : Prop :=
  ∀ (i : Instr) (s : State) (cur : Cur) (q : Quire) (m : MemForm) (pg : Page) (t : Nat), ldStRule i s q cur = some m →
    m.op ∈ [0x100, 0x101, 0x104, 0x108, 0x109] → OneAccess s cur q m pg t → LineSettled s (gathOf cur.slot.core) pg m.len →
    (heldOf s (gathOf cur.slot.core) (lineOf pg.loc)).tok ≠ 0 → (heldOf s (gathOf cur.slot.core) (lineOf pg.loc)).valid = true →
    ∃ g : Quire → Quire, exec i s = .next ((lineUsed s (gathOf cur.slot.core) (lineOf pg.loc)).setQuire cur.slot g) ∧
      WritesBlock q (g q) cur m.f.u m.f.d.toNat (sizeRegs m.f.cls.toNat) fun _ =>
        ruleLoad m.f.cls ((List.range m.len).map fun k => byteSeen s (some (gathOf cur.slot.core)) pg.key (pg.loc + k))

/-- Generic stores and release stores (R56, R82, R83, R85, R105, R116, R336, R338). The address stored to is the placed access's
location. With all tokens of the line the bytes are performed at once: those bytes take the data and every other byte of memory
keeps its value. Without them the bytes wait in entry order and memory keeps its value; of a 128-bit release at a wait class
beyond Local the second half's wait has the first performed, and then both are. Registers stay; the store may take a way of the
cache, in whose set no store of the gathering is pending, and so end a region that other threads of the quire have open. -/
def Sys2Proof.Machine.StoresReachTheirBytes : Prop :=
  ∀ (i : Instr) (s : State) (cur : Cur) (q : Quire) (m : MemForm) (pg : Page) (t : Nat), ldStRule i s q cur = some m →
    m.op ∈ [0x102, 0x103, 0x10A, 0x10B] → OneAccess s cur q m pg t → LineSettled s (gathOf cur.slot.core) pg m.len →
    keyTag s (pg.loc / 16) = pg.key → m.drained s cur → memWf s.mem = true →
    (∀ p ∈ s.pending, p.gath = gathOf cur.slot.core → lineOf p.loc % 256 ≠ lineOf pg.loc % 256) →
    ∃ (u : State) (q' : Quire), exec i s = .next u ∧ u.quire cur.slot = some q' ∧ q' = { q with region := q'.region } ∧
      u.keyTags = s.keyTags ∧
      if (heldOf s (gathOf cur.slot.core) (lineOf pg.loc)).tok = 64 ∨
        (m.len = 16 ∧ m.op ∈ [0x103, 0x10B] ∧ waitClass (s.folioOf cur.slot) (m.f.c.toNat % 8) ≠ 0) then
        u.pending = s.pending ∧ BytesPut s.mem u.mem pg.loc m.len (m.data t)
      else
        u.mem = s.mem ∧
          u.pending = s.pending ++ (List.range m.len).map fun k =>
            { gath := gathOf cur.slot.core, slot := some cur.slot, ctx := q.ctx, key := pg.key, loc := pg.loc + k
              byte := BitVec.ofNat 8 (m.data t / 256 ^ k) }

/-- Loads bind their bytes, stores reach theirs and no other byte. -/
def Obligations.LoadsAndStoresMeetMemory : Prop := LoadsBindTheirBytes ∧ StoresReachTheirBytes

/-- Generic atomics and reductions (R84, R347, R348): on a line held with all tokens and data, D takes the old
value (RED has no D), the unit takes the new one where there is one, and every other byte of memory keeps its value. -/
def Obligations.AtomicsReadModifyWrite : Prop :=
  ∀ (i : Instr) (s : State) (cur : Cur) (q : Quire) (m : MemForm) (pg : Page) (t : Nat), atomRule i s q cur = some m →
    m.op < 0x145 → m.drained s cur → memWf s.mem = true → OneAccess s cur q m pg t → LineSettled s (gathOf cur.slot.core) pg m.len →
    keyTag s (pg.loc / 16) = pg.key → (heldOf s (gathOf cur.slot.core) (lineOf pg.loc)).tok = 64 →
    (heldOf s (gathOf cur.slot.core) (lineOf pg.loc)).valid = true →
    ∃ (u : State) (q' : Quire), exec i s = .next u ∧ u.quire cur.slot = some q' ∧ u.keyTags = s.keyTags ∧ u.pending = s.pending ∧
      let old := numOf (memGetN s.mem pg.loc m.len)
      AtomResult q q' cur m old ∧
      match ruleAtom m.op m.f old (m.args t) with
      | some x => BytesPut s.mem u.mem pg.loc m.len x
      | none => u.mem = s.mem

/-- Scratchpad loads, stores and atomics of a folio with its own banks (R18, R20, R58 to R61, R338, R347): a
load's destination takes the bytes at its offset, a store puts its data there, an atomic does both; other bytes of the
folio's scratchpad, and generic memory, keep their values. -/
def Sys2Proof.Machine.ScratchpadAccessesTouchTheirBytes : Prop :=
  ∀ (i : Instr) (s : State) (cur : Cur) (q : Quire) (m : MemForm) (pg : Page) (t : Nat) (fo : Folio), memRule i s q cur = some m →
    opSpace m.op = .scratch → m.drained s cur → OneAccess s cur q m pg t →
    s.folio q.folio = some fo → fo.win = [] → memWf fo.scr = true →
    ∃ (u : State) (q' : Quire) (fo' : Folio), exec i s = .next u ∧ u.quire cur.slot = some q' ∧ u.folio q.folio = some fo' ∧
      u.mem = s.mem ∧ fo' = { fo with scr := fo'.scr } ∧
      let old := memGetN fo.scr (m.addr t) m.len
      let puts (x : Nat) : Prop := BytesPut fo.scr fo'.scr (m.addr t) m.len x
      if m.op ∈ [0x112, 0x113, 0x11A, 0x11B] then q' = q ∧ puts (m.data t)
      else if m.op < 0x120 then
        fo' = fo ∧ WritesBlock q q' cur m.f.u m.f.d.toNat (sizeRegs m.f.cls.toNat) fun _ => ruleLoad m.f.cls old
      else
        AtomResult q q' cur m (numOf old) ∧
          match ruleAtom m.op m.f (numOf old) (m.args t) with
          | some x => puts x
          | none => fo' = fo

/-- Private accesses within the slice (R27, R49, R343): LDP takes the slice's
bytes, STP puts its data there, no other byte of the slice and nothing else changes. -/
def Sys2Proof.Machine.PrivateAccessesTouchTheSlice : Prop :=
  ∀ (i : Instr) (s : State) (cur : Cur) (q : Quire) (m : MemForm) (pg : Page) (t : Nat) (th : Thread), ldStRule i s q cur = some m →
    opSpace m.op = .priv → m.f.u = false → OneAccess s cur q m pg t → m.addr t + m.len ≤ 64 → q.th[t]? = some th → th.slice.length = 64 →
    ∃ g : Quire → Quire, exec i s = .next (s.setQuire cur.slot g) ∧
      if m.op ∈ [0x121, 0x123] then
        OnlyThr q (g q) fun n x =>
          if n = t then
            { x with slice := (List.range 64).map fun a =>
                if m.addr t ≤ a ∧ a < m.addr t + m.len then BitVec.ofNat 8 (m.data t / 256 ^ (a - m.addr t)) else x.slice.getD a 0 }
          else x
      else
        WritesBlock q (g q) cur false m.f.d.toNat (sizeRegs m.f.cls.toNat) fun _ =>
          ruleLoad m.f.cls ((List.range m.len).map fun k => th.slice.getD (m.addr t + k) 0)

/-- Scratchpad and private accesses touch their own bytes. -/
def Obligations.ScratchpadAndPrivateAccesses : Prop := ScratchpadAccessesTouchTheirBytes ∧ PrivateAccessesTouchTheSlice

/-- LDC (R68, R89, R118, R342), outside windows: it takes its bytes from the core's constant copy of the line; on a miss the home
first grants a copy; no byte of memory changes. -/
def Sys2Proof.Machine.ConstantLoadsReadTheirLease : Prop :=
  ∀ (i : Instr) (s : State) (cur : Cur) (q : Quire) (m : MemForm) (pg : Page) (t : Nat), ldStRule i s q cur = some m →
    m.op ∈ [0x124, 0x125] → OneAccess s cur q m pg t → winFind s pg.loc = none → pg.nc = false → pg.loc % 16 + m.len ≤ 16 →
    (∀ le : Lease, LiveLease s (.constant cur.slot.core) (lineOf pg.loc) pg.key le →
      ∃ (u : State) (q' : Quire), exec i s = .next u ∧ u.quire cur.slot = some q' ∧ u.mem = s.mem ∧
        WritesBlock q q' cur m.f.u m.f.d.toNat (sizeRegs m.f.cls.toNat) fun _ =>
          ruleLoad m.f.cls ((List.range m.len).map fun k => le.data.getD (pg.loc % 128 + k) 0)) ∧
    (LeaseMissing s (.constant cur.slot.core) (lineOf pg.loc) pg.key →
      ∃ (u : State) (q' : Quire), exec i s = .next u ∧ u.quire cur.slot = some q' ∧ u.mem = s.mem ∧
        Granted s u (.constant cur.slot.core) (lineOf pg.loc) pg.key ∧
        WritesBlock q q' cur m.f.u m.f.d.toNat (sizeRegs m.f.cls.toNat) fun _ =>
          ruleLoad m.f.cls ((List.range m.len).map fun k => physRead s pg.key (pg.loc + k)))

/-- LDT (R344), by one actor through a cached valid record of n dimensions: an element out of bounds gives FILL and reads nothing;
another gives the E bytes at its address from the gathering's live copy of the line, as one register or, for E = 8, a pair. -/
def Sys2Proof.Machine.TensorElementsAreRead : Prop :=
  ∀ (h : Hdr) (f : Full) (s : State) (cur : Cur) (q : Quire) (t : Nat) (e : RecEntry), Running s cur q → cur.lazy = false →
    q.log = [] → q.varp = [] → q.region = none → actors cur f.u = [t] → (f.u = false → ∃ th, q.th[t]? = some th ∧ th.x = false) →
    let g := gathOf cur.slot.core
    let a := src q cur true t f.a 2
    let xs := (List.range (f.c.toNat % 8)).map fun k => (BitVec.ofNat 32 (block q cur f.sb t (f.b.toNat + k) 1)).toInt
    a % 64 = 0 → (s.gath g).recs = [e] → g < s.gaths.length → e.ctx = q.ctx → e.addr = a → shapeOk a e.val = true →
    shRank e.val = f.c.toNat % 8 → NothingPosted s → (∀ x ∈ s.msgs, ∀ d k b, x.kind ≠ .write3 d k b) →
    (shElem e.val = 8 → f.d.toNat + 2 ≤ if f.u then 128 else q.regs) →
    let inside : Prop := ∀ d, d < shRank e.val → 0 ≤ xs.getD d 0 ∧ xs.getD d 0 < shExt e.val d
    let va := shBase e.val + ((List.range (shRank e.val)).map fun d => (xs.getD d 0).toNat * if d = 0 then shElem e.val else shStr e.val d).sum
    (¬ inside → ∃ (u : State) (q' : Quire), exec (.ldt h f) s = .next u ∧ u.quire cur.slot = some q' ∧ u.mem = s.mem ∧
      WritesBlock q q' cur f.u f.d.toNat (if shElem e.val = 8 then 2 else 1) fun _ => shFill e.val) ∧
    (inside → ∀ (pg : Page) (le : Lease), xlate s (laneVia cur.slot) q.ctx va .read = (s, .ok pg) → pg.nc = false →
      winFind s pg.loc = none → LiveLease s (.tile g) (lineOf pg.loc) pg.key le → pg.loc % 128 + shElem e.val ≤ 128 →
      ∃ (u : State) (q' : Quire), exec (.ldt h f) s = .next u ∧ u.quire cur.slot = some q' ∧ u.mem = s.mem ∧
        WritesBlock q q' cur f.u f.d.toNat (if shElem e.val = 8 then 2 else 1) fun _ =>
          leaseNum le (pg.loc % 128) (shElem e.val))

/-- Constant and tensor loads read what their lease and descriptor say. -/
def Obligations.ConstantAndTensorLoads : Prop := ConstantLoadsReadTheirLease ∧ TensorElementsAreRead

/-- PREF (R70, R345), by one actor, where no copy of the line is under another key: a line without a token is asked for, by READ or
with `.excl` by WRITE; with `.l2` it is brought to its home, as the most recently used line there; registers and memory stay; a
fault drops the prefetch. -/
def Obligations.PrefetchesAskForLines : Prop :=
  ∀ (i : Instr) (x : Bool) (h : Hdr) (f : Full) (s : State) (cur : Cur) (q : Quire) (t : Nat), Running s cur q →
    (i, x) ∈ [(Instr.pref h f, false), (Instr.prefX h f, true)] → actors cur f.u = [t] → NothingPosted s →
    let g := gathOf cur.slot.core
    let va := ruleAddr false x false f q cur t
    (∀ r, xlate s (laneVia cur.slot) q.ctx va .read = (s, .error r) → exec i s = .next s) ∧
    ∀ pg, xlate s (laneVia cur.slot) q.ctx va .read = (s, .ok pg) → pg.nc = false → winFind s pg.loc = none →
      (homeOf s (lineOf pg.loc)).ckey = none ∨ (homeOf s (lineOf pg.loc)).ckey = some pg.key →
      (f.cls.getLsbD 1 = true →
        ∃ u : State, exec i s = .next u ∧ u.mem = s.mem ∧ u.quires = s.quires ∧ u.msgs = s.msgs ∧
          u.homes.head?.map (·.line) = some (lineOf pg.loc)) ∧
      (f.cls.getLsbD 1 = false → (heldOf s g (lineOf pg.loc)).tok = 0 → (heldOf s g (lineOf pg.loc)).req = none →
        (∀ p ∈ s.pending, p.gath = g → lineOf p.loc = lineOf pg.loc → p.key = pg.key) →
        ∃ u : State, exec i s = .next u ∧ u.mem = s.mem ∧ u.quires = s.quires ∧
          u.msgs = s.msgs ++ [{ id := s.nextId, line := lineOf pg.loc, src := g, dst := none, sent := s.cycle, told := []
                                kind := .request (if f.cls.getLsbD 0 then .write else .read) }])

/-- FIFO words (R63, R350 to R352) outside regions and sections: a push with room puts an entry for each active thread at the
ring's end; a pop that finds enough takes the oldest, an entry for each active thread in ascending order; the forms with a
predicate say whether they moved, and otherwise move nothing; a blocking form without room or entries waits. -/
def Obligations.FifoWordsMoveEntries : Prop :=
  ∀ (h : Hdr) (f : Full) (s : State) (cur : Cur) (q : Quire) (fo : Folio) (ring : List (List Word)), Running s cur q →
    NothingOlder q → cur.act.Nodup → (∀ t ∈ cur.act, q.member t = false ∧ sectionOpen s q t = false) →
    Drained s cur.slot →
    let k := f.a.toNat
    let n := fifoBytes (s.rcdOf cur.slot) / 4
    let room := ring.length + cur.act.length ≤ 32768 / fifoBytes (s.rcdOf cur.slot)
    let full := cur.act.length ≤ ring.length
    let tells (q1 q2 : Quire) (b : Bool) : Prop := WritesPreds q1 q2 cur false fun _ j => if j = f.c.toNat % 16 then some b else none
    (RingFree s q false k none fo ring →
      (∃ (u : State) (q' : Quire) (fo' : Folio), exec (.fpush h f) s = .next u ∧ u.quire cur.slot = some q' ∧
        u.folio q.folio = some fo' ∧ u.mem = s.mem ∧
        fo' = { fo with fifos := fo'.fifos } ∧
        if room then q' = q ∧ fo'.fifos = fo.fifos.set k { ring := Pushed q cur f n ring }
        else fo' = fo ∧ (q'.wait.map fun w => w.why) = some .fpush ∧ q' = { q with wait := q'.wait }) ∧
      (rcDet (s.rcdOf cur.slot) = false → ∃ (u : State) (q' : Quire) (fo' : Folio), exec (.fpushNb h f) s = .next u ∧
        u.quire cur.slot = some q' ∧ u.folio q.folio = some fo' ∧ u.mem = s.mem ∧ tells q q' room ∧
        fo'.fifos = if room then fo.fifos.set k { ring := Pushed q cur f n ring } else fo.fifos)) ∧
    (RingFree s q true k none fo ring →
      (∃ (u : State) (q' : Quire) (fo' : Folio), exec (.fpop h f) s = .next u ∧ u.quire cur.slot = some q' ∧
        u.folio q.folio = some fo' ∧ u.mem = s.mem ∧
        if full then Popped q q' cur f ring ∧ fo'.fifos = fo.fifos.set k { ring := ring.drop cur.act.length }
        else fo' = fo ∧ (q'.wait.map fun w => w.why) = some .fpop ∧ q' = { q with wait := q'.wait }) ∧
      (rcDet (s.rcdOf cur.slot) = false → ∃ (u : State) (q1 q' : Quire) (fo' : Folio), exec (.fpopNb h f) s = .next u ∧
        u.quire cur.slot = some q' ∧ u.folio q.folio = some fo' ∧ u.mem = s.mem ∧ tells q1 q' full ∧
        if full then Popped q q1 cur f ring ∧ fo'.fifos = fo.fifos.set k { ring := ring.drop cur.act.length }
        else q1 = q ∧ fo'.fifos = fo.fifos))

/-- The image words that read (R355 to R362, R364), by one thread: with a descriptor that fits the word, and its footprint's texels
read on route 2 at the access's moment, D takes the value that the texels give; other registers stay. -/
def Sys2Proof.Machine.ImageReadsReturnTheirTexels : Prop :=
  ∀ (i : Instr) (op : Nat) (f : Full) (s : State) (cur : Cur) (q : Quire) (t : Nat), OneImage s cur q t f →
    imageOp i = some (op, f) → op < 0x15C →
    let va := src q cur true t f.a 2
    let args := imageArgs op f q cur t
    let xs := args.take (imgBlock op (f.c.toNat % 8))
    let qs := quadArgs op (f.c.toNat % 8) args
    ∀ (s1 s2 s5 : State) (d : Nat) (l : List (Nat × Loc × Nat)) (vs : List Nat), readDesc s cur.slot q.ctx va = (s1, .ok d) →
      imageFits op (f.cls.toNat % 2) (f.c.toNat % 8) va d = true →
      let taps := imageTaps d op xs qs
      let units := tapUnits (texBytes (imFmt d)) taps
      let a : Acc := { newAcc t va 0 0 args with loc := 2 ^ 76, spans := l, vals := [(0, d)] }
      let logged := imageLogged s2 cur.slot (imageEntry q cur op f a)
      placeUnits s1 cur.slot q.ctx ((va, 64) :: units) = (s2, .ok l) → s2.cur = some cur → s2.quire cur.slot = some q → NothingPosted s2 →
      unitsRead cur.slot q.ctx units logged = some (s5, vs) → s5.quire cur.slot = logged.quire cur.slot →
      ∃ (u : State) (q' : Quire), exec i s = .next u ∧ u.quire cur.slot = some q' ∧ u.mem = s5.mem ∧
        WritesBlock q q' cur false f.d.toNat (imageRegs op f.cls.toNat) fun _ =>
          imageValue d op f.cls.toNat xs qs (tapRaws (texBytes (imFmt d)) taps vs)

/-- IMST (R69, R105, R363), by one thread with a descriptor that fits: a linear image's texel bytes are stored at the texel's address,
which is all of memory that changes; a swizzled one's leave for the home as a route 3 write, of 16 bytes as two. -/
def Sys2Proof.Machine.ImageStoresPutOneTexel : Prop :=
  ∀ (i : Instr) (op : Nat) (f : Full) (s : State) (cur : Cur) (q : Quire) (t : Nat), OneImage s cur q t f →
    imageOp i = some (op, f) → 0x15C ≤ op →
    let va := src q cur true t f.a 2
    let xs := (imageArgs op f q cur t).take (imgBlock op (f.c.toNat % 8))
    let g := gathOf cur.slot.core
    ∀ (s1 : State) (d x : Nat) (pg : Page), readDesc s cur.slot q.ctx va = (s1, .ok d) →
      s1.cur = some cur → s1.quire cur.slot = some q → imageFits op (f.cls.toNat % 2) (f.c.toNat % 8) va d = true → imAddr d xs = some x →
      xlate s1 (laneVia cur.slot) q.ctx x .write = (s1, .ok pg) → LineSettled s1 g pg (texBytes (imFmt d)) →
      let data := src q cur false t f.d 4
      let bits := if op = 0x15C then texelBits d data else data % 2 ^ (8 * texBytes (imFmt d))
      (imSwizzled d = false → (heldOf s1 g (lineOf pg.loc)).tok = 64 → keyTag s1 (pg.loc / 16) = pg.key → memWf s1.mem = true →
        ∃ u : State, exec i s = .next u ∧ u.quire cur.slot = some q ∧ BytesPut s1.mem u.mem pg.loc (texBytes (imFmt d)) bits) ∧
      (imSwizzled d = true → (∀ m ∈ s1.msgs, ∀ d k b, m.kind ≠ .write3 d k b) →
        let part (j n : Nat) : Msg :=
          { id := s1.nextId + j, line := lineOf pg.loc, src := g, dst := none, sent := s1.cycle, told := []
            kind := .write3 ((List.range n).map fun k => (pg.loc + 8 * j + k, BitVec.ofNat 8 (bits / 256 ^ (8 * j + k))))
              pg.key (some (cur.slot, q.seq, t, j)) }
        ∃ u : State, exec i s = .next u ∧ u.mem = s1.mem ∧
          u.msgs = s1.msgs ++ (if texBytes (imFmt d) = 16 then [part 0 8, part 1 8] else [part 0 (texBytes (imFmt d))]))

/-- Image reads return texels; image stores put one. -/
def Obligations.ImageReadsAndStores : Prop := ImageReadsReturnTheirTexels ∧ ImageStoresPutOneTexel

/-- FENCE, PFENCE and RFENCE (R66, R113, R115, R119, R365 to R367), with no older access of the quire left: when a FENCE ends, no
store of its gathering waits if its scope is wider than the folio's gathering, no posted write of its threads to a peer if the scope
is the fabric, and none of them at all, nor one to a host that caches no line, if it is the system; PFENCE leaves no write of its
threads through the route it names, and marks the reading route's copies of the context's lines expired; RFENCE drops the context's records of the
gathering. Registers and predicates stay. -/
def Obligations.FencesWaitAndExpire : Prop :=
  ∀ (h : Hdr) (f : Full) (s : State) (cur : Cur) (q : Quire), Running s cur q → NothingOlder q → OutsideRegions q cur false →
    let g := gathOf cur.slot.core
    (f.cls.toNat % 8 ≠ 7 → ∃ (u : State) (q' : Quire), exec (.fence h f) s = .next u ∧ u.quire cur.slot = some q' ∧
      (q.region = none → q' = q) ∧
      (4 ≤ f.cls.toNat % 8 → ∀ p ∈ u.pending, p.gath ≠ g) ∧
      (f.cls.toNat % 8 = 5 → ∀ x ∈ u.msgs, postedBy q cur.act x = true → isPeer (x.line * 128) = false) ∧
      (f.cls.toNat % 8 = 6 → ∀ x ∈ u.msgs, postedBy q cur.act x = false ∧
        (s.hostCache = false → isHost (x.line * 128) = true → ∀ d k y, x.kind ≠ .posted d k y)) ∧
      (f.cls.toNat % 8 < 2 → u.pending = s.pending ∧ u.mem = s.mem)) ∧
    (∃ (u : State) (q' : Quire), exec (.pfence h f) s = .next u ∧ u.quire cur.slot = some q' ∧ (q.region = none → q' = q) ∧
      (f.cls.toNat % 4 = 0 → ∀ p ∈ u.pending, p.gath ≠ g) ∧
      (f.cls.toNat % 4 ≠ 0 → ∀ x ∈ u.msgs, ∀ d k b, x.kind = .write3 d k (some b) → b.1 = cur.slot → b.2.2.1 ∉ cur.act) ∧
      (∀ x ∈ u.msgs, postedBy q cur.act x = true → ∀ d k y, x.kind = .posted d k y → y.route ≠ f.cls.toNat % 4) ∧
      ∀ l ∈ u.leases, (l.kfield = q.ctx ∨ l.kfield = 64) →
        l.at_ = (if f.cls.toNat / 4 % 4 = 1 then .constant cur.slot.core
                 else if f.cls.toNat / 4 % 4 = 2 then .sampler cur.slot.core else .tile g) → l.expired = true) ∧
    ∃ (u : State) (q' : Quire), exec (.rfence h f) s = .next u ∧ u.quire cur.slot = some q' ∧ q' = q ∧ u.mem = s.mem ∧
      ∀ e, e ∈ (u.gath g).recs ↔ e ∈ (s.gath g).recs ∧ e.ctx ≠ q.ctx

/-- BARINIT and BARINVAL (R153, R155, R369), outside regions, with no instance they touch busy: a valid instance with its count
replaces what the number named, for the core or the folio; every instance of the number is taken away. -/
def Sys2Proof.Machine.BarriersAreMadeAndRemoved : Prop :=
  ∀ (h : Hdr) (f : Full) (s : State) (cur : Cur) (q : Quire) (fo : Folio), Running s cur q → OutsideRegions q cur false →
    s.folio q.folio = some fo →
    let rc := fo.cores.idxOf cur.slot.core
    let n := src q cur true (cur.act.headD 0) f.a 1 % 65536
    let wide := f.c.toNat % 2 = 1
    (∀ b ∈ fo.bars, b.num = f.cls.toNat → b.v = true → b.wait = 0 ∧ b.pend = 0) →
    (∃ g : Folio → Folio, exec (.barinit h f) s = .next (s.setFolio q.folio g) ∧
      g fo = { fo with bars :=
        { num := f.cls.toNat, core := if wide then none else some rc, v := true, a := if n = 0 then 65536 else n, arr := 0
          pend := 0, decl := 0, got := 0, ph := 0, err := false, lerr := false, wait := 0 }
          :: fo.bars.filter fun y => !(decide (y.num = f.cls.toNat) && (decide wide || decide (y.core = none) || decide (y.core = some rc))) }) ∧
    ∃ g : Folio → Folio, exec (.barinval h f) s = .next (s.setFolio q.folio g) ∧
      g fo = { fo with bars := fo.bars.filter fun y => decide (y.num ≠ f.cls.toNat) }

/-- BARARR, BARARR.n, BARWAIT and BARTEST (R153, R154, R370, R371), outside regions and sections, on a valid instance: arrivals
that the phase takes are counted and give the phase's number, the last one moving the phase; a wait whose tokens are of an
earlier phase goes on at once, another blocks its quire; a test writes whether the phase has moved. -/
def Sys2Proof.Machine.BarriersCountAndRelease : Prop :=
  ∀ (h : Hdr) (f : Full) (s : State) (cur : Cur) (q : Quire) (fo : Folio) (b : Bar), Running s cur q → PlainThreads s cur q →
    NothingOlder q → cur.prog = [] → Drained s cur.slot → s.folio q.folio = some fo → UsesBar fo cur.slot.core f.cls.toNat b →
    let tok (t : Nat) : Nat := src q cur f.sa t f.a 1
    (∀ (i : Instr) (units : Nat → Nat), (i, units) ∈ [(Instr.bararr h f, fun _ => 1), (Instr.bararrN h f, tok)] →
      (∀ t ∈ actors cur f.u, 1 ≤ units t ∧ units t ≤ 65536) → b.arr + ((actors cur f.u).map units).sum ≤ b.a →
      ∃ (u : State) (q' : Quire) (fo' : Folio), exec i s = .next u ∧ u.quire cur.slot = some q' ∧ u.folio q.folio = some fo' ∧
        u.mem = s.mem ∧ BarBecomes fo fo' b (fun _ => unitsArrived b ((actors cur f.u).map units).sum) ∧
        WritesBlock q q' cur f.u f.d.toNat 1 fun _ => b.ph) ∧
    ((∀ t ∈ actors cur f.u, tok t ≠ b.ph) → exec (.barwait h f) s = .next s) ∧
    ((∃ t ∈ actors cur f.u, tok t = b.ph) →
      ∃ (u : State) (q' : Quire) (fo' : Folio), exec (.barwait h f) s = .next u ∧ u.quire cur.slot = some q' ∧
        u.folio q.folio = some fo' ∧ q' = { q with wait := q'.wait } ∧ (q'.wait.map fun w => w.why) = some .barwait ∧
        BarBecomes fo fo' b fun x => { x with wait := x.wait + cur.act.length }) ∧
    (rcDet (s.rcdOf cur.slot) = false →
      ∃ g : Quire → Quire, exec (.bartest h f) s = .next (s.setQuire cur.slot g) ∧
        WritesPreds q (g q) cur f.u fun t k => if k = f.d.toNat % 16 then some (decide (tok t ≠ b.ph)) else none)

/-- FBAR (R125, R372): the active threads arrive in the folio's round and the quire waits; when every thread of the folio that has
not exited has unitsArrived, the round completes, every quire that waits in it goes on and the round is empty again. -/
def Sys2Proof.Machine.FolioBarrierGathersEveryThread : Prop :=
  (∀ (h : Hdr) (f : Full) (s : State) (cur : Cur) (q : Quire) (fo : Folio), Running s cur q → PlainThreads s cur q →
    NothingOlder q → Drained s cur.slot → s.folio q.folio = some fo →
    ∃ (u : State) (q' : Quire) (fo' : Folio), exec (.fbar h f) s = .next u ∧ u.quire cur.slot = some q' ∧
      u.folio q.folio = some fo' ∧ u.mem = s.mem ∧ (q'.wait.map fun w => w.why) = some .fbar ∧ q' = { q with wait := q'.wait } ∧
      fo' = { fo with fbar := fo.fbar ++ cur.act.map fun t => (q.qid, t) }) ∧
  ∀ (s : State) (fo : Folio) (q : Quire) (w : Wait), s.folio fo.id = some fo → fo.fbar ≠ [] → s.quires = [q] → q.folio = fo.id →
    q.wait = some w → w.why = .fbar → w.cur.slot = q.slot →
    (∀ t, t < q.th.length → (∀ th, q.th[t]? = some th → th.x = false) → (q.qid, t) ∈ fo.fbar) →
    ∃ (u : State) (q' : Quire) (fo' : Folio), exec (.fbarRoundComplete fo.id) s = .next u ∧ u.quire q.slot = some q' ∧
      q'.wait = none ∧ u.folio fo.id = some fo' ∧ fo'.fbar = []

/-- Barriers: made and removed, counted and released, and the whole folio's. -/
def Obligations.BarriersCountReleaseAndGather : Prop := BarriersAreMadeAndRemoved ∧ BarriersCountAndRelease ∧ FolioBarrierGathersEveryThread

/-- The tag words (R148, R149, R373, R374) outside regions, with no older acquire or parked access that waits: a
wait on tags none of which collects or runs goes on at once, and one
on a tag that does blocks its quire; TAGANY and TAGFFR give the lowest done tag of the mask or 64, TAGTEST whether the tag is
done, TAGRD its state and its last status. -/
def Obligations.TagWordsReportTheirTags : Prop :=
  ∀ (h : Hdr) (f : Full) (s : State) (cur : Cur) (q : Quire), Running s cur q → OutsideRegions q cur false →
    acqWaits q cur.act = false → parkedThreads q cur.act = false →
    let st (n : Nat) : TagSt := tagState (s.folioOf cur.slot) cur.slot.core n
    let set (form : Bool) : Nat :=
      if form then src q cur true (cur.act.headD 0) f.a 2 % 2 ^ folioTags (s.rcdOf cur.slot) else 2 ^ f.b.toNat
    let busy (m : Nat) : Prop := ∃ n, n < 64 ∧ m.testBit n = true ∧ (st n = .collecting ∨ st n = .running)
    let lowest (m k : Nat) : Prop :=
      (k < 64 ∧ m.testBit k = true ∧ st k = .done ∧ ∀ j, j < k → m.testBit j = true → st j ≠ .done) ∨
        (k = 64 ∧ ∀ j, j < 64 → m.testBit j = true → st j ≠ .done)
    let det := rcDet (s.rcdOf cur.slot) = true
    (¬ busy (set (f.cls.getLsbD 0)) → exec (.tagwait h f) s = .next s) ∧
    (busy (set (f.cls.getLsbD 0)) → ∃ (u : State) (q' : Quire), exec (.tagwait h f) s = .next u ∧ u.quire cur.slot = some q' ∧
      (q'.wait.map fun w => w.why) = some .tagwait ∧ q' = { q with wait := q'.wait }) ∧
    (∀ k, lowest (set true) k →
      (¬ busy (set true) ∨ (¬ det ∧ k ≠ 64) →
        ∃ g : Quire → Quire, exec (.tagany h f) s = .next (s.setQuire cur.slot g) ∧ WritesBlock q (g q) cur f.u f.d.toNat 1 fun _ => k) ∧
      (¬ busy (set true) ∨ ¬ det →
        ∃ g : Quire → Quire, exec (.tagffr h f) s = .next (s.setQuire cur.slot g) ∧ WritesBlock q (g q) cur f.u f.d.toNat 1 fun _ => k)) ∧
    (f.b.toNat < 64 → ¬ busy (set false) ∨ ¬ det →
      (∃ g : Quire → Quire, exec (.tagtest h f) s = .next (s.setQuire cur.slot g) ∧
        WritesPreds q (g q) cur f.u fun _ k => if k = f.d.toNat % 16 then some (decide (st f.b.toNat = .done)) else none) ∧
      ∃ g : Quire → Quire, exec (.tagrd h f) s = .next (s.setQuire cur.slot g) ∧
        WritesBlock q (g q) cur f.u f.d.toNat 1 fun _ =>
          ((tagOf (s.folioOf cur.slot) cur.slot.core f.b.toNat).map (·.lstat)).getD 0 * 256 +
            (match st f.b.toNat with
              | .idle => 0
              | .collecting => 1
              | .running => 2
              | .done => 3))

/-- The matrix words (R213, R375 to R381), where R380 finds no trap, the bench has room, and the quire holds no entry, chain or
latch: an entry with the operands read now joins the bench at its end, eligible at once unless it names a barrier, whose
waiters it then joins; the counter it names goes up; registers stay until the pass. -/
def Obligations.MatrixWordsJoinTheBench : Prop :=
  ∀ (i : Instr) (op : Nat) (f : Mat) (s : State) (cur : Cur) (q : Quire) (w : Nat), Running s cur q → matOp i = some (op, f) →
    MatFine s q cur op f w (ruleMatBlock op f q cur) → q.latch = none → q.chain = none →
    (∀ b ∈ (s.gath (gathOf cur.slot.core)).bench, b.slot ≠ cur.slot) → (s.gath (gathOf cur.slot.core)).bench.length < 64 →
    gathOf cur.slot.core < s.gaths.length →
    let sc (t : Nat) : Nat := if scaleA (matMmas op) w then src q cur false t (f.a + 8) 1 % 65536 else 0x3F80
    ∃ (u : State) (q' : Quire) (e : Bench), exec i s = .next u ∧ u.mem = s.mem ∧
      (u.gath (gathOf cur.slot.core)).bench = (s.gath (gathOf cur.slot.core)).bench ++ [e] ∧
      e.slot = cur.slot ∧ e.op = op ∧ e.f = f ∧ e.pc = cur.pc ∧ e.fmt = w ∧ e.act = cur.act ∧ e.sblk = ruleMatBlock op f q cur ∧
      (∀ t ∈ cur.act, t < q.w → e.arow.getD t [] = (List.range 8).map (fun k => vReg q cur t (f.a.toNat + k)) ∧
        (f.a.toNat + 8 < 256 → e.sa.getD t 0 = sc t) ∧
        e.cin.getD t [] = (List.range (rowRegs (matN op) (fmO w))).map fun k => vReg q cur t (f.c.toNat + k)) ∧
      (f.bv = false → e.bar = none ∧ e.eligible = some s.cycle) ∧
      (f.bv = true → ∀ fo b, s.folio q.folio = some fo → UsesBar fo cur.slot.core f.bar.toNat b →
        e.bar = some (b.num, b.ph) ∧ e.eligible = none ∧
          ∃ fo', u.folio q.folio = some fo' ∧ BarBecomes fo fo' b fun x => { x with wait := x.wait + 1 }) ∧
      u.quire cur.slot = some q' ∧
      q' = { q with ctr := if f.cen then q.ctr.modify f.csel.toNat (· + 1) else q.ctr, latch := q'.latch } ∧
      (q'.latch.isSome ↔ f.ra = true)

/-- A pass of one entry of the bench (R213, R234 to R237, R381, R385), no chain held before or after, its record taken where it has
one and every element of B read: each active thread's C row takes the accumulator plus A row × B column, scaled and rounded as
the format says, narrowed to the output format; the entry leaves, its counter comes down. A B of the folio's own scratchpad has
for its elements the bytes there. An entry whose barrier's phase has moved becomes eligible and is no longer counted among the
waiters (R163); an eligible entry whose B has a record takes that record once, before its pass (R120, R384). -/
def Obligations.PassesMultiplyAndEntriesBecomeEligible : Prop :=
  (∀ (g : Nat) (s s1 : State) (b : Bench) (q : Quire) (fo : Folio) (r : Nat) (us : List Nat) (s0 : State),
    g < s.gaths.length →
    (s.gath g).bench = [b] → (s.gath g).passNow = none → b.eligible.isSome = true → b.parked = false → b.f.hc = false →
    s.quire b.slot = some q → q.chain = none → q.log = [] → b.act.Nodup →
    (∀ t ∈ b.act, (b.cin.getD t []).length = rowRegs (matN b.op) (fmO b.fmt)) →
    (matGl b.op = false → s0 = passBegun s g b) → (matGl b.op = true → takeRecord (passBegun s g b) g b = (s0, .ok r)) →
    unitsOfB g { b with rcd := if matGl b.op then some r else none } (List.range (matK b.fmt * matN b.op)) s0 = some (s1, us) →
    s1.quire b.slot = some q → (∀ x ∈ (s1.gath g).bench, x.id = b.id) → s1.folio q.folio = some fo → fo.win = [] →
    let old (t : Nat) : List Nat :=
      if matAcc b.op then widenRow (matN b.op) (fmO b.fmt) (b.cin.getD t []) else List.replicate (matN b.op) 0
    let new (t : Nat) : List Nat := (old t).zipIdx.map fun e =>
      sliceAdd (matMmas b.op) b.fmt e.1 (rowElems b.fmt (b.arow.getD t [])) ((List.range (matK b.fmt)).map fun k => us.getD (matN b.op * k + e.2) 0)
        (b.sa.getD t 0x3F80) (ruleColScale fo b e.2)
    ∃ (u : State) (q' : Quire), exec (.benchPass g) s = .next u ∧ u.mem = s1.mem ∧ (u.gath g).bench = [] ∧
      (u.gath g).passNow = none ∧ (u.gath g).passAt = (s1.gath g).passAt ∧ u.quire b.slot = some q' ∧
      q'.ctr = (if b.f.cen then q.ctr.modify b.f.csel.toNat (· - 1) else q.ctr) ∧ q'.chain = none ∧
      OnlyVec { q with ctr := q'.ctr } q' fun t r =>
        if t ∈ b.act ∧ t < q.w ∧ (∃ th, q.th[t]? = some th ∧ th.x = false) ∧ b.f.c.toNat ≤ r then
          (narrowRow (fmO b.fmt) (fmRnd b.fmt) (new t))[r - b.f.c.toNat]? else none) ∧
  (∀ (g : Nat) (s : State) (b : Bench) (q : Quire) (fo : Folio), matGl b.op = false → s.quire b.slot = some q →
    s.folio q.folio = some fo → fo.win = [] →
    let eb := matBytes (fmB b.fmt)
    unitsOfB g b (List.range (matK b.fmt * matN b.op)) s = some (s, (List.range (matK b.fmt * matN b.op)).map fun u =>
      numOf (memGetN fo.scr ((b.sblk.getD 0 0).toNat + eb * u) eb))) ∧
  (∀ (g n : Nat) (s : State) (b : Bench) (q : Quire) (e : RecEntry), g < s.gaths.length →
    (s.gath g).bench.find? (fun b => b.id == n) = some b → matGl b.op = true → b.bar = none → b.eligible.isSome = true →
    b.rcd = none → b.parked = false → s.quire b.slot = some q → q.log = [] →
    CachedRecord s g q.ctx (wordsVal (b.sblk.take 2)) e →
    ∃ u : State, exec (.benchEntryEligible g n) s = .next u ∧ u.mem = s.mem ∧
      (u.gath g).bench = updWhere (fun y => y.id == b.id) (fun y => { y with rcd := some e.val }) (s.gath g).bench) ∧
  ∀ (g n : Nat) (s : State) (b : Bench) (q : Quire) (fo : Folio) (x : Bar) (e : RecEntry) (num ph : Nat), g < s.gaths.length →
    (s.gath g).bench.find? (fun b => b.id == n) = some b → b.bar = some (num, ph) → b.eligible = none →
    s.quire b.slot = some q → s.folio q.folio = some fo → UsesBar fo b.slot.core num x → x.ph ≠ ph →
    (matGl b.op = true → b.rcd = none ∧ b.parked = false ∧ q.log = [] ∧ CachedRecord s g q.ctx (wordsVal (b.sblk.take 2)) e) →
    ∃ (u : State) (fo' : Folio) (b' : Bench), exec (.benchEntryEligible g n) s = .next u ∧ u.folio q.folio = some fo' ∧
      BarBecomes fo fo' x (fun y => { y with wait := y.wait - 1 }) ∧
      (u.gath g).bench.find? (fun b => b.id == n) = some b' ∧ 
      b' = { b with eligible := some s.cycle, rcd := if matGl b.op then some e.val else b.rcd }

/-- The copy words (R145, R146, R149, R154, R388), where no check of R388 traps, no thread of the leading set has trapped at the word,
and no older access is left: the quire's slice
joins the tag's copy; the first slice sets the tag collecting and, on the core's own barrier, expects the copy's arrivals; the
copy runs once every quire of the folio on the core that has not exited has contributed. Registers stay. -/
def Obligations.CopyWordsContributeSlices : Prop :=
  ∀ (i : Instr) (op : Nat) (f : Copy) (s s2 : State) (cur : Cur) (q : Quire) (fo : Folio) (r : Option Nat), Running s cur q →
    copyOp i = some (op, f) → q.log = [] → copyCheck s op f q cur = none →
    (∀ t ∈ cur.lead, ∀ th, q.th[t]? = some th → ∀ x, th.halt = some x → x.pc ≠ cur.pc) →
    copyShape (serveQuire s cur.slot) op q cur f = (s2, .ok r) → (∀ b ∈ ruleSlice op q cur f, blockMisaligned op r b = false) →
    s2.quire cur.slot = some q → s2.folio q.folio = some fo →
    let was := fo.tags.find? fun t => t.core == cur.slot.core && t.num == f.tag.toNat
    let slice : Slice := { qid := q.qid, nc := f.nc.toNat, blocks := ruleSlice op q cur f }
    let first := ∀ t, was = some t → t.st ≠ .collecting
    let old (t : Tag) : List Slice := if t.st = .collecting then t.slices else []
    ∃ (u : State) (fo' : Folio) (t : Tag), exec i s = .next u ∧ u.mem = s2.mem ∧ u.quire cur.slot = some q ∧ u.folio q.folio = some fo' ∧
      fo'.tags.find? (fun t => t.core == cur.slot.core && t.num == f.tag.toNat) = some t ∧
      t.slices = (was.map old).getD [] ++ [slice] ∧
      t.st = (if ∀ p ∈ participants s2 cur.slot.core q.folio, ∃ z ∈ t.slices, z.qid = p.qid then .running else .collecting) ∧
      (first → t.op = op ∧ t.bar = (if f.bv then some f.bar.toNat else none) ∧
        t.declared = (if f.bv then src q cur true (cur.act.headD 0) f.sb 1 else 0) ∧ t.record = copyRecord op q cur f) ∧
      (first → f.bv = true → op ≠ 0x1A4 → ∀ b, UsesBar fo cur.slot.core f.bar.toNat b →
        fo'.bars = fo.bars.map fun x =>
          if x.num = b.num ∧ x.core = b.core then
            { x with pend := x.pend + 1, decl := x.decl + src q cur true (cur.act.headD 0) f.sb 1 } else x) ∧
      (¬ first ∨ f.bv = false → fo'.bars = fo.bars)

/-- RNG and RECLD (R240, R241, R393, R396) through a cached record, with no older acquire that waits: RNG writes the words that the seed, the tensor, the element's
coordinate and the block number give; RECLD reports the record's validity, swizzle, format and rank, or 0 for a misaligned
address. -/
def Sys2Proof.Machine.RecordWordsReportAndDraw : Prop :=
  ∀ (h : Hdr) (f : Full) (s : State) (cur : Cur) (q : Quire) (e : RecEntry), Running s cur q →
    let g := gathOf cur.slot.core
    let a := src q cur true (cur.act.headD 0) f.a 2
    acqWaits q cur.act = false →
    (a % 64 ≠ 0 → ∃ k : Quire → Quire, exec (.recld h f) s = .next (s.setQuire cur.slot k) ∧
      OnlySca q (k q) fun r => if r = f.d.toNat then some 0 else none) ∧
    (CachedRecord s g q.ctx a e →
      (∃ (u : State) (q' : Quire), exec (.recld h f) s = .next u ∧ u.mem = s.mem ∧ u.quire cur.slot = some q' ∧
        OnlySca q q' fun r => if r = f.d.toNat then
          some (BitVec.ofNat 32 ((if shapeOk a e.val then 2 ^ 31 else 0) + shSwz e.val * 256 + shFmt e.val * 16 + shRank e.val)) else none) ∧
      (shapeOk a e.val = true → shRank e.val = f.cls.toNat % 8 →
        ∃ (u : State) (q' : Quire), exec (.rng h f) s = .next u ∧ u.mem = s.mem ∧ u.quire cur.slot = some q' ∧
          WritesBlock q q' cur f.u f.d.toNat (2 ^ (f.cls.toNat / 8)) fun t =>
            rngBlock (rcSeed (s.rcdOf cur.slot)) (shTid e.val)
              (ruleCoord e.val ((List.range (f.cls.toNat % 8)).map fun k => (BitVec.ofNat 32 (block q cur f.sb t (f.b.toNat + k) 1)).toInt))
              (src q cur f.sc t f.c 1)))

/-- GSIG and SPAWN by one actor (R205, R206, R394, R395) with nothing to wait for. GSIG takes one from the slot's count: at zero
it stays and DEP_UNDER is set, else the count in memory and in the node goes down and a node that reaches zero is ready;
number 0xFFFF signals nothing. SPAWN with a free slot writes the record there, consumes it, and gives the slot and true; with
none it gives 0xFFFF and false and sets QFULL. -/
def Sys2Proof.Machine.GraphWordsSignalAndSpawn : Prop :=
  ∀ (h : Hdr) (f : Full) (s : State) (cur : Cur) (q : Quire) (t : Nat), Running s cur q → q.region = none → q.log = [] →
    serveQuire s cur.slot = s → Drained s cur.slot → actors cur f.u = [t] → q.ctx < s.ctxs.length →
    (∀ k : Nat, src q cur f.sa t f.a 1 % 65536 = k →
      (k = 0xFFFF → exec (.gsig h f) s = .next s) ∧
      ∀ pg, k < 2 ^ (s.ctx q.ctx).tgHsize + spawnCount s q.ctx → k ≠ 0xFFFF → SlotReached s q.ctx (slotAddr s q.ctx k + 76) pg →
        let d := numOf (memGetN s.mem pg.loc 2)
        ∃ u : State, exec (.gsig h f) s = .next u ∧ u.quire cur.slot = some q ∧
          if d = 0 then (u.ctx q.ctx).depUnder = true ∧ u.mem = s.mem ∧ u.nodes = s.nodes
          else
            BytesPut s.mem u.mem pg.loc 2 (d - 1) ∧
              u.nodes = s.nodes.map fun n =>
                if n.ctx = q.ctx ∧ n.addr = slotAddr s q.ctx k then
                  { n with dep := d - 1, ready := if d = 1 ∧ n.ready = none then some s.cycle else n.ready }
                else n) ∧
    ∀ (bs : List Byte) (s1 : State), rcDet (s.rcdOf cur.slot) = false → src q cur f.sa t f.a 2 % 128 = 0 →
      agentRead s (laneVia cur.slot) q.ctx (src q cur f.sa t f.a 2) 128 = (s1, .ok bs) →
      s1.cur = some cur → s1.quire cur.slot = some q → Drained s1 cur.slot →
      (freeSpawn s1 q.ctx = none →
        ∃ k : Quire → Quire, exec (.spawn h f) s = .next ((s1.setCtx q.ctx fun x => { x with qfull := true }).setQuire cur.slot k) ∧
          ∃ q1, WritesBlock q q1 cur f.u f.d.toNat 1 (fun _ => 0xFFFF) ∧
            WritesPreds q1 (k q) cur f.u fun _ j => if j = f.c.toNat % 16 then some false else none) ∧
      ∀ (n : Nat) (s2 : State), freeSpawn s1 q.ctx = some n → anyParked s1 q.ctx [slotAddr s1 q.ctx n] = (s1, false) →
        graphWrite { s1 with spawnUsed := (q.ctx, n) :: s1.spawnUsed } q.ctx (slotAddr s1 q.ctx n) bs = (s2, none) →
        ∃ k : Quire → Quire, exec (.spawn h f) s = .next ((consumeSpawn s2 q.ctx n).setQuire cur.slot k) ∧
          ∃ q1, WritesBlock q q1 cur f.u f.d.toNat 1 (fun _ => n) ∧
            WritesPreds q1 (k q) cur f.u fun _ j => if j = f.c.toNat % 16 then some true else none

/-- Records and random numbers; signals and spawns. -/
def Obligations.RecordAndGraphWords : Prop := RecordWordsReportAndDraw ∧ GraphWordsSignalAndSpawn

/-- INTERP (R422, R429) by threads of a fragment quire whose primitives' pages are readable: `.f` gives the first vertex's attribute
as it is; the other forms interpolate the three finite values at the sample, at a helper's pixel centre, or at the centre
plus the offsets of A, exactly and rounded once; a NaN value gives the canonical NaN. -/
def Sys2Proof.Machine.InterpGivesTheAttribute : Prop :=
  ∀ (h : Hdr) (f : Full) (s : State) (cur : Cur) (q : Quire) (p : Pass) (fr : Nat → FragTh) (pr : Nat → Prim), Running s cur q →
    (∀ t ∈ cur.act, HoldsPrim s q p t (fr t) (pr t) ∧
      ∃ pg, xlate s (laneVia cur.slot) q.ctx (bitsOf p.desc 447 384 + 4096 * (pr t).page) .read = (s, .ok pg)) →
    let k := f.b.toNat
    let isNan (x : Nat) : Prop := fpRead fp32 x = .nan
    let a (t : Nat) : Nat := src q cur f.sa t f.a 1
    let centre (n : Nat) : Rat := (n : Rat) + 1 / 2
    (∃ g : Quire → Quire, exec (.interpF h f) s = .next (s.setQuire cur.slot g) ∧
      WritesBlock q (g q) cur false f.d.toNat 1 fun t => attrOf (pr t).v0 k) ∧
    ∀ (i : Instr) (jx jy : Nat → Rat),
      (i, jx, jy) ∈
        [(Instr.interp h f, (fun t => if (fr t).helper then 0 else jitter (pdJx p.desc)), (fun t => if (fr t).helper then 0 else jitter (pdJy p.desc))),
         (Instr.interpO h f, (fun t => jitter (a t % 65536)), (fun t => jitter (a t / 65536)))] →
      ∃ g : Quire → Quire, exec i s = .next (s.setQuire cur.slot g) ∧
        ∃ val : Nat → Nat, WritesBlock q (g q) cur false f.d.toNat 1 val ∧
          ∀ t ∈ cur.act,
            let x0 := attrOf (pr t).v0 k
            let x1 := attrOf (pr t).v1 k
            let x2 := attrOf (pr t).v2 k
            (isNan x0 ∨ isNan x1 ∨ isNan x2 → val t = 0x7FC00000) ∧
            ∀ w : Rat × Rat × Rat,
              PerspWeights (pdWm p.desc) (pdHm p.desc) (pr t) (centre (fr t).x + jx t) (centre (fr t).y + jy t) w → primFinite (pr t) = true →
              fpFinite fp32 x0 = true → fpFinite fp32 x1 = true → fpFinite fp32 x2 = true →
              val t = roundRat fp32 0 (w.1 * ratF32 x0 + w.2.1 * ratF32 x1 + w.2.2 * ratF32 x2)

/-- DISCARD and DISCARD.h (R430, R431) retire the active threads' fragments, and the threads become helpers, which without `.h`
exit at the rally's end; an open section is released by `.h`, once the threads' accesses and appends are done. -/
def Sys2Proof.Machine.DiscardedFragmentsRetire : Prop :=
  ∀ (i : Instr) (keep : Bool) (h : Hdr) (f : Full) (s : State) (cur : Cur) (q : Quire) (p : Pass) (fr : Nat → FragTh),
    HoldFrags s cur q p fr → (i, keep) ∈ [(Instr.discard h f, false), (Instr.discardH h f, true)] →
    (keep = false → ∀ t ∈ cur.act, sectionOpen s q t = false) →
    (∀ t ∈ cur.act, sectionOpen s q t = true → q.log = [] ∧ Drained s cur.slot ∧
      ∃ fo : Folio, s.folio q.folio = some fo ∧ fo.pass = p.id ∧ ∀ a ∈ p.appends, ∀ y, a.slot = some y → y.1 ≠ cur.slot) →
    ∃ (u : State) (q' : Quire), exec i s = .next u ∧ u.mem = s.mem ∧ u.quire cur.slot = some q' ∧
      OnlyThr q q' (fun t th =>
        if t ∈ cur.act then
          { th with frag := some { fr t with helper := true }, exiting := th.exiting || !keep }
        else th) ∧
      u.pass p.id = some (fragsThen cur p fr fun x => { x with retired := true, st := if x.st = .opened then .done else x.st })

/-- OSENTER and OSEXIT (R431, R432): a thread whose fragment is in state NONE, every lower fragment of its pixel released, opens its
section; while some lower fragment is not, the quire waits; an exit makes an open section DONE. Registers and memory stay. The
entry is stated where no acquire or parked access of the threads is left and no thread has halted in a section of the pass. -/
def Sys2Proof.Machine.SectionsOpenAndClose : Prop :=
  ∀ (h : Hdr) (f : Full) (s : State) (cur : Cur) (q : Quire) (p : Pass) (fr : Nat → FragTh), HoldFrags s cur q p fr →
    let mine (x : Frag) : Prop := ∃ t ∈ cur.act, sameFrag (fr t) x = true
    let below (t : Nat) (x : Frag) : Prop := x.x = (fr t).x ∧ x.y = (fr t).y ∧ x.order < (fr t).order
    (acqWaits q cur.act = false → parkedThreads q cur.act = false → (∀ x ∈ p.frags, x.st ≠ .leaving) →
      (∀ x ∈ p.frags, mine x → x.st = .none) →
      ((∀ t ∈ cur.act, ∀ x ∈ p.frags, below t x → LetsEnter x) →
        ∃ u : State, exec (.osenter h f) s = .next u ∧ u.mem = s.mem ∧ u.quires = s.quires ∧
          u.pass p.id = some (fragsThen cur p fr fun x => { x with st := .opened })) ∧
      ((∃ t ∈ cur.act, ∃ x ∈ p.frags, below t x ∧ ¬ LetsEnter x) →
        ∃ (u : State) (q' : Quire), exec (.osenter h f) s = .next u ∧ u.passes = s.passes ∧ u.mem = s.mem ∧
          u.quire cur.slot = some q' ∧ q' = { q with wait := q'.wait } ∧ (q'.wait.map fun w => w.why) = some .osenter)) ∧
    (∀ fo : Folio, s.folio q.folio = some fo → fo.pass = p.id → q.log = [] → Drained s cur.slot → (∀ x ∈ p.frags, mine x → x.st = .opened) →
      (∀ t ∈ cur.act, ∃ x ∈ p.frags, sameFrag (fr t) x = true) →
      (∀ a ∈ p.appends, ∀ y, a.slot = some y → y.1 ≠ cur.slot) →
      ∃ u : State, exec (.osexit h f) s = .next u ∧ u.mem = s.mem ∧ u.quire cur.slot = some q ∧
        u.pass p.id = some (fragsThen cur p fr fun x => { x with st := .done }))

/-- Discarded fragments retire; ordered sections open and close. -/
def Obligations.DiscardsAndSections : Prop := DiscardedFragmentsRetire ∧ SectionsOpenAndClose

/-- MESHOUT (R422, R425), outside regions: `.v` writes slots j to j + m − 1 of a vertex from the thread's registers, `.p` a primitive
record; the highest thread that names a record wins, other records keep their values; `.n` sets the counts. -/
def Sys2Proof.Machine.MeshWordsWriteRecords : Prop :=
  ∀ (h : Hdr) (f : Full) (s : State) (cur : Cur) (q : Quire) (fo : Folio), Running s cur q → (∀ t ∈ cur.act, q.member t = false) →
    s.folio q.folio = some fo →
    let idx (t : Nat) : Nat := src q cur f.sa t f.a 1 % 256
    let winner (k : Nat) : Option Nat := (cur.act.filter fun t => idx t = k).getLast?
    let j := f.c.toNat
    let m := f.cls.toNat % 8 + 1
    (∃ g : Folio → Folio, exec (.meshoutV h f) s = .next (s.setFolio q.folio g) ∧ g fo = { fo with mverts := (g fo).mverts } ∧
      ∀ v k, meshSlot (g fo) v k =
        match winner v with
        | some t => if j ≤ k ∧ k < j + m then vReg q cur t (f.b.toNat + (k - j)) else meshSlot fo v k
        | none => meshSlot fo v k) ∧
    (∃ g : Folio → Folio, exec (.meshoutP h f) s = .next (s.setFolio q.folio g) ∧ g fo = { fo with mprims := (g fo).mprims } ∧
      ∀ k, meshPrim (g fo) k =
        match winner k with
        | some t => src q cur f.sb t f.b 1 % 2 ^ 25
        | none => meshPrim fo k) ∧
    ∃ g : Folio → Folio, exec (.meshoutN h f) s = .next (s.setFolio q.folio g) ∧
      g fo = { fo with
        vc := min (src q cur true (cur.act.headD 0) f.a 1) 256, pc := min (src q cur true (cur.act.headD 0) f.b 1) 256 }

/-- Attributes are interpolated; mesh words write their records. -/
def Obligations.InterpolationAndMeshWords : Prop := InterpGivesTheAttribute ∧ MeshWordsWriteRecords

/-- The list words (R435, R437, R438), on the lists of the folio's pass or of the pass of the threads' rays. LAPPEND queues one append
for each active thread in order, its node with NEXT ended, its position from A or, with ORD, the thread's own pixel, and waits on
its counter. LFIRST and LNEXT give the node read at the
head or at the index, and the empty node for an empty list, an index of 0xFFFF, or a position outside the frame. -/
def Obligations.ListWordsAppendAndRead : Prop :=
  ∀ (h : Hdr) (f : Full) (s : State) (cur : Cur) (q : Quire) (fo : Folio) (pid : Nat) (p : Pass) (tile : Nat → Nat),
    Running s cur q → (∀ t ∈ cur.act, q.member t = false) → s.folio q.folio = some fo →
    (∀ t ∈ cur.act, listHome s fo q t = some (pid, tile t)) → s.pass pid = some p →
    let pos (t : Nat) : Nat := src q cur f.sa t f.a 1
    let ord := f.cls.getLsbD 0
    ((ord = true → ∀ t ∈ cur.act, (threadFrag q t).isSome = true) →
      ∃ (u : State) (as : List Append), exec (.lappend h f) s = .next u ∧ u.mem = s.mem ∧
        u.pass pid = some { p with appends := p.appends ++ as } ∧ as.length = cur.act.length ∧
        (∃ q', u.quire cur.slot = some q' ∧ q' = { q with ctr := if f.cen then q.ctr.modify f.csel.toNat (· + 1) else q.ctr }) ∧
        ∀ (n t : Nat) (a : Append), cur.act[n]? = some t → as[n]? = some a →
          a.node % 2 ^ 96 = src q cur f.sb t f.b 4 % 2 ^ 96 ∧ nodeNext a.node = 0xFFFF ∧ a.node / 2 ^ 112 = src q cur f.sb t f.b 4 / 2 ^ 112 ∧
          a.slot = some (cur.slot, q.seq, t) ∧ a.d = f.d.toNat ∧ a.frag = threadFrag q t ∧ a.tile = tile t ∧
          if ord then ∀ x y o, threadFrag q t = some (x, y, o) → a.x = x ∧ a.y = y ∧ a.ord = some o
          else a.x = pos t % 65536 ∧ a.y = pos t / 65536 ∧ a.ord = none) ∧
    ((∀ a ∈ p.appends, ∀ y, a.slot = some y → y.1 = cur.slot → y.2.2 ∉ cur.act) →
      ∀ (i : Instr) (index : Nat → Option Nat),
        (i, index) ∈ [(Instr.lfirst h f, fun _ => none), (Instr.lnext h f, fun t => some (src q cur f.sb t f.b 1 % 65536))] →
        ∀ val : Nat → Nat,
          (∀ t ∈ cur.act,
            let x := pos t % 65536
            let y := pos t / 65536
            let g := gathOf cur.slot.core
            ((pdWm p.desc < x ∨ pdHm p.desc < y ∨ index t = some 0xFFFF) ∧ val t = 0x7F800000 + 2 ^ 96 * 0xFFFF) ∨
              (x ≤ pdWm p.desc ∧ y ≤ pdHm p.desc ∧ ∃ tl, listTile p (pixelTile p.desc x y) = some tl ∧
                ((∃ hd, index t = none ∧ listRead s g p.ctx tl (headPlace p tl.n (4 * pixelIndex x y)) 4 = (s, .ok hd) ∧
                    (hd % 65536 = 0xFFFF ∧ val t = 0x7F800000 + 2 ^ 96 * 0xFFFF ∨
                      hd % 65536 ≠ 0xFFFF ∧ nodeRead s g p tl (hd % 65536) = (s, .ok (val t)))) ∨
                  ∃ k, index t = some k ∧ k ≠ 0xFFFF ∧ nodeRead s g p tl k = (s, .ok (val t))))) →
          ∃ g : Quire → Quire, exec i s = .next (s.setQuire cur.slot g) ∧ WritesBlock q (g q) cur false f.d.toNat 4 val)

/-- LIST_APPEND_APPLY (R434, R435, R438) in a tile's banks, for the pass's one append, unordered, on a pixel whose list has room: the
list gains the node at its place in ascending stable depth order, and the thread's D, which no later word has written, takes 0; a
position outside the frame changes no list and gives 4. -/
def Obligations.AppendsEnterTheirLists : Prop :=
  ∀ (s : State) (p : Pass) (a : Append) (q : Quire) (th : Thread) (slot : Slot) (seq t : Nat), p.appends = [a] → s.pass p.id = some p →
    a.ord = none → a.merging = false → a.ray = none → a.slot = some (slot, seq, t) → s.quire slot = some q →
    (∀ v ∈ q.varp, v.seq = seq → v.old ≠ none) →
    (∀ q ∈ s.quires, ∀ fo, s.folio q.folio = some fo → fo.stage ≠ .merge) → q.th[t]? = some th → th.x = false →
    a.node < 2 ^ 128 →
    (∀ (tl : Tile) (l : List (Nat × Nat)) (i : Nat), BankTile s p tl a.x a.y l i → a.tile = tl.n → ListHolds s a.gath p tl a.x a.y l →
      l.length < pdBudget p.desc → l.length < 31 →
      ∃ (u : State) (q' : Quire) (p' : Pass) (tl' : Tile) (l' : List (Nat × Nat)) (k : Nat), exec (.listAppendApply p.id a.id) s = .next u ∧
        u.mem = s.mem ∧ u.quire slot = some q' ∧ (∃ th' : Thread, q'.th[t]? = some th' ∧ th'.v = th.v.set a.d 0) ∧
        u.pass p.id = some p' ∧ p'.appends = [] ∧ p'.tiles = [tl'] ∧ ListHolds u a.gath p' tl' a.x a.y l' ∧
        InsertAt l (nodeDepth a.node) k ∧ l'.map (·.1) = (l.map (·.1)).take k ++ i :: (l.map (·.1)).drop k ∧
        l'.map (fun e => setField e.2 111 96 0) = ((l.take k ++ (i, a.node) :: l.drop k).map fun e => setField e.2 111 96 0)) ∧
    (pdWm p.desc < a.x ∨ pdHm p.desc < a.y →
      ∃ (u : State) (q' : Quire) (p' : Pass), exec (.listAppendApply p.id a.id) s = .next u ∧ u.mem = s.mem ∧ u.quire slot = some q' ∧
        (∃ th' : Thread, q'.th[t]? = some th' ∧ th'.v = th.v.set a.d 4) ∧
        u.pass p.id = some p' ∧ p' = { p with appends := [], status := p.status ||| 16 })

/-- TRACE and TRACE.rec (R448, R449, R460, R468, R469) by one thread whose pool page can be written: a ray is made from the registers or
from the image read, its record's fields as the rules give them, and D takes its handle; beyond the node's depth, and with no
blocks free, D takes the reserved handles. -/
def Obligations.TracesMakeRays : Prop :=
  ∀ (h : Hdr) (f : Full) (s : State) (cur : Cur) (q : Quire) (t : Nat), OneTracer s cur q t →
    let writable (s : State) (units : Nat) : Prop := ∀ hd, PoolGives (s.ctx q.ctx) (2 + (units + 7) / 8) hd → s.ray q.ctx hd = none ∧
      ∃ pg, xlate s (laneVia cur.slot) q.ctx (rayAddr s q.ctx hd) .write = (s, .ok pg)
    (let u := f.cls.toNat
      let ctl := src q cur true t (f.b + 2) 1
      let at_ := traceSeat q t (0xFFFFFFFF, 0)
      f.b.toNat + 2 < 256 → u ≤ rcPayload (s.rcdOf cur.slot) → writable s u →
      ∃ (w : State) (q' : Quire), exec (.trace h f) s = .next w ∧ w.quire cur.slot = some q' ∧
        TraceLeaves s w cur q q' t at_.1 (src q cur f.sa t f.a 8) (src q cur true t f.b 2) (ctl % 256) (ctl / 256 % 32) u at_.2.1 at_.2.2 0 f.d) ∧
    ∀ (bs pay : List Byte) (s1 s2 : State), src q cur f.sa t f.a 2 % 16 = 0 →
      readSpan cur.slot q.ctx 8 (src q cur f.sa t f.a 2) s = (s1, .ok bs) →
      let x := bytesVal bs
      let u := bitsOf x 348 344
      let at_ := traceSeat q t (bitsOf x 927 896, bitsOf x 959 928)
      readSpan cur.slot q.ctx u (src q cur f.sa t f.a 2 + 128) s1 = (s2, .ok pay) → s2.cur = some cur → s2.quire cur.slot = some q →
      q.ctx < s2.ctxs.length → u ≤ rcPayload (s2.rcdOf cur.slot) → writable s2 u →
      ∃ (w : State) (q' : Quire), exec (.traceRec h f) s = .next w ∧ w.quire cur.slot = some q' ∧
        TraceLeaves s2 w cur q q' t (bitsOf x 340 336) (x % 2 ^ 256) (bitsOf x 319 256) (bitsOf x 327 320) (bitsOf x 335 328 % 32) u
          at_.2.1 at_.2.2 (bitsOf x 1023 960) f.d

/-- TWAIT, TWAIT.all and THIT (R448, R468, R470, R471), by one thread outside sections whose ray's record can be read: a wait on an
incomplete ray blocks the quire; else TWAIT gives the record's STATUS or the status of a handle that names none. THIT gives
the hit block and frees the ray, which as a complete one stands in no huddle, gives 0xFFFFFFFF for an incomplete one and leaves it, and gives a status and zeros else. -/
def Obligations.RaysAreWaitedForAndTaken : Prop :=
  ∀ (h : Hdr) (f : Full) (s : State) (cur : Cur) (q : Quire) (t : Nat), Running s cur q → cur.act = [t] → q.slot = cur.slot →
    q.region = none → sectionOpen s q t = false →
    let hd := src q cur f.sa t f.a 1
    let waits (i : Instr) : Prop := ∃ (u : State) (q' : Quire), exec i s = .next u ∧ u.quire cur.slot = some q' ∧ u.rays = s.rays ∧
      u.mem = s.mem ∧ q' = { q with wait := q'.wait } ∧ (q'.wait.map fun w => w.why) = some .twait
    let gives (s1 : State) (i : Instr) (n x : Nat) : Prop :=
      ∃ g : Quire → Quire, exec i s = .next (s1.setQuire cur.slot g) ∧ WritesBlock q (g q) cur false f.d.toNat n fun _ => x
    ((∃ r ∈ s.rays, r.at_ ≠ .complete ∧ r.slot = cur.slot ∧ r.folio = q.folio ∧ r.tidx = t) → waits (.twaitAll h f)) ∧
    ((∀ r ∈ s.rays, r.slot = cur.slot → r.folio = q.folio → r.tidx = t → r.at_ = .complete) → exec (.twaitAll h f) s = .next s) ∧
    (NamesNone s q t hd → gives s (.twait h f) 1 (noRayStatus hd) ∧ gives s (.thit h f) 6 (noRayStatus hd)) ∧
    ∀ r : Ray, RayOf s q t hd r →
      (r.at_ ≠ .complete → waits (.twait h f) ∧ gives s (.thit h f) 1 0xFFFFFFFF) ∧
      (r.at_ = .complete → ∀ (bs : List Byte) (s1 : State),
        agentRead s (laneVia cur.slot) q.ctx (bitsOf (s.ctx q.ctx).rayBase.toNat 56 12 * 4096 + 128 * hd) 128 = (s1, .ok bs) →
        s1.cur = some cur → s1.quire cur.slot = some q → s1.rays = s.rays → (∀ e ∈ s1.huddles, e.ctx = q.ctx → hd ∉ e.rays) →
        let x := bytesVal bs
        gives s1 (.twait h f) 1 (bitsOf x 343 341) ∧
          ∃ (u : State) (q' : Quire), exec (.thit h f) s = .next u ∧
            u.mem = s1.mem ∧ u.quire cur.slot = some q' ∧
            WritesBlock q q' cur false f.d.toNat 6 (fun _ =>
              bitsOf x 343 341 + 2 ^ 8 * bitsOf x 351 349 + 2 ^ 16 * r.appStat + 2 ^ 32 * bitsOf x 255 224 + 2 ^ 64 * bitsOf x 799 768
                + 2 ^ 96 * bitsOf x 831 800 + 2 ^ 128 * bitsOf x 895 832) ∧
            (∀ y, y ∈ u.rays ↔ y ∈ s.rays ∧ ¬ (y.ctx = q.ctx ∧ y.handle = hd)) ∧
            (q.ctx < s1.ctxs.length → ∀ e, e ∈ (u.ctx q.ctx).rayBlocks ↔ e ∈ (s1.ctx q.ctx).rayBlocks ∧ e.1 ≠ hd))

/-- IREPORT and IREPORT.a (R456, R464, R472), outside regions: a thread that holds no ray gets false and keeps everything; one that
holds a ray gets true when the candidate is accepted against the pending hit, or without one against the record, and its
pending hit becomes the candidate, with the attribute pair under `.a`. -/
def Sys2Proof.Machine.ReportsOfferCandidates : Prop :=
  ∀ (i : Instr) (attr : Bool) (h : Hdr) (f : Full) (s : State) (cur : Cur) (q : Quire) (t : Nat) (th : Thread), Running s cur q →
    cur.act = [t] → q.region = none → q.th[t]? = some th → (i, attr) ∈ [(Instr.ireport h f, false), (Instr.ireportA h f, true)] →
    let gives (g : Quire → Quire) (b : Bool) (q1 : Quire) : Prop :=
      exec i s = .next (s.setQuire cur.slot g) ∧ WritesPreds q1 (g q) cur false fun _ j => if j = f.d.toNat % 16 then some b else none
    ((th.ray = none ∨ ∃ x, th.ray = some x ∧ (x.held = false ∨ s.ray q.ctx x.handle = none)) → ∃ g, gives g false q) ∧
    ∀ (x : RayTh) (r : Ray), th.ray = some x → x.held = true → s.ray q.ctx x.handle = some r →
      let tv := src q cur f.sa t f.a 1
      let ab := src q cur f.sb t f.b 2
      let ok : Prop := match x.pend with
        | some y => Accepts (bitsOf r.rcd 127 96) y.t y.kind y.prim tv r.cprim
        | none => Accepts (bitsOf r.rcd 127 96) (bitsOf r.rcd 255 224) (bitsOf r.rcd 351 349) (bitsOf r.rcd 799 768) tv r.cprim
      let hit : Hit :=
        { t := tv, prim := r.cprim, bary := if r.skind = 2 then r.cbary else 0, kind := r.face
          attr := if attr then some (ab % 2 ^ 32, ab / 2 ^ 32) else none }
      (ok → ∃ g q1, gives g true q1 ∧ OnlyThr q q1 fun n y => if n = t then { y with ray := some { x with pend := some hit } } else y) ∧
      (¬ ok → ∃ g, gives g false q)

/-- IRESUME, TCANCEL and their forms (R451, R465, R473, R474). A resume by a thread without a ray changes nothing; one that holds a ray
whose state block reads as a state it may take lets it go: a cancelled ray completes, a ray with FIRST and an accepted hit
completes, others rejoin a huddle. A cancellation of a ray that waits in a huddle or a routine queue takes it from there; one
in a routine is marked; a complete or unnamed one stays. -/
def Sys2Proof.Machine.RaysResumeAndCancel : Prop :=
  ∀ (h : Hdr) (f : Full) (s : State) (cur : Cur) (q : Quire) (t : Nat) (th : Thread), OneTracer s cur q t → q.slot = cur.slot →
    q.th[t]? = some th →
    (∀ (i : Instr) (keep : Bool), (i, keep) ∈ [(Instr.iresume h f, true), (Instr.iresumeN h f, false)] →
      (th.ray = none → exec i s = .next s) ∧
      ∀ (x : RayTh) (r : Ray) (bs rec : List Byte) (s0 s1 : State), th.ray = some x → x.held = true → s.ray q.ctx x.handle = some r →
        r.ctx = q.ctx → r.handle = x.handle → engineRead s r.gath q.ctx (rayAddr s q.ctx (x.handle + 1)) 64 = (s0, .ok bs) →
        engineRead s0 r.gath q.ctx (rayAddr s0 q.ctx x.handle) 128 = (s1, .ok rec) →
        s1.quire cur.slot = some q → s1.rays = s.rays →
        let z := reloaded (bytesVal rec) (bytesVal bs)
        reloadOk z = true →
        ∃ (u : State) (q' : Quire) (th' : Thread), exec i s = .next u ∧ u.quire cur.slot = some q' ∧ q'.th[t]? = some th' ∧
          th' = { th with ray := some { x with held := false, pend := none } } ∧
          ∀ y, u.ray q.ctx x.handle = some y →
            let taken (e : Hit) : Prop := keep = true ∧ x.pend = some e ∧
              Accepts (bitsOf z 127 96) (bitsOf z 255 224) (bitsOf z 351 349) (bitsOf z 799 768) e.t e.prim
            y.at_ ≠ .inRoutine ∧ (r.cancel = true → bitsOf y.rcd 343 341 ∈ [4, 5]) ∧
              (r.cancel = false → ∀ e, taken e → bitsOf y.rcd 255 224 = e.t % 2 ^ 32 ∧ bitsOf y.rcd 799 768 = e.prim % 2 ^ 32 ∧
                (z.testBit 330 = true → y.at_ ≠ .huddle)) ∧
              (r.cancel = false → (∀ e, ¬ taken e) → bitsOf y.rcd 255 224 = bitsOf z 255 224 ∧ bitsOf y.rcd 799 768 = bitsOf z 799 768)) ∧
    ∀ (i : Instr) (r : Ray),
      (i = .tcancel h f ∧ RayOf s q t (src q cur f.sa t f.a 1) r ∨
        i = .tcancelAll h f ∧ r ∈ s.rays ∧ r.slot = q.slot ∧ r.folio = q.folio ∧ r.tidx = t ∧ r.ctx = q.ctx ∧
          (∀ y ∈ s.rays, y.slot = q.slot → y.folio = q.folio → y.tidx = t → y = r) ∧ s.ray q.ctx r.handle = some r) →
      (∀ y ∈ s.rays, y.ctx = r.ctx → y.handle = r.handle → y = r) →
      (r.at_ = .complete → exec i s = .next s) ∧
      (r.at_ = .inRoutine → exec i s = .next (s.setRay r.ctx r.handle fun y => { y with cancel := true })) ∧
      (r.at_ = .huddle ∨ r.at_ = .routineQ →
        ∃ u : State, exec i s = .next u ∧ (∀ e ∈ u.huddles, e.ctx = r.ctx → r.handle ∉ e.rays) ∧
          ∀ y, u.ray q.ctx r.handle = some y → (y.at_ = .complete ∨ y.at_ = .ending) ∧ (bitsOf y.rcd 343 341 = 5 ∨ bitsOf y.rcd 343 341 = 4))

/-- Reports offer candidates; rays resume, end and are cancelled. -/
def Obligations.RayReportsResumesAndCancels : Prop := ReportsOfferCandidates ∧ RaysResumeAndCancel

/-- Blocked words go on (R212, R328, R350, R371, R373): FPUSH_RESERVE and FPOP_RESERVE move the entries of the first push with room or
pop with entries; BARWAIT_RELEASE when no token is the phase's any more, no longer counted among the waiters; TAGWAIT_RELEASE
when no tag of the mask collects or runs; REGQ_GROW_GRANT gives the first grow the registers its lane has. -/
def Obligations.BlockedQuiresGoOn : Prop :=
  ∀ (s : State) (q : Quire) (w : Wait) (fo : Folio), s.folio q.folio = some fo →
    (∀ ring : List (List Word), fo.fifos[w.f.a.toNat]? = some { ring := ring } → FirstInLine s q w → Drained s q.slot →
      let bytes := fifoBytes (s.rcdOf q.slot)
      (BlockedIn s q w .fpush → ring.length + w.cur.act.length ≤ 32768 / bytes →
        ∃ (u : State) (q' : Quire) (fo' : Folio), exec (.fpushReserve q.slot) s = .next u ∧ u.quire q.slot = some q' ∧
          u.folio q.folio = some fo' ∧ u.mem = s.mem ∧ WentOn w q q' ∧
          fo'.fifos = fo.fifos.set w.f.a.toNat { ring := Pushed q w.cur w.f (bytes / 4) ring }) ∧
      (BlockedIn s q w .fpop → w.cur.act.length ≤ ring.length → w.cur.act.Nodup →
        ∃ (u : State) (q1 q' : Quire) (fo' : Folio), exec (.fpopReserve q.slot) s = .next u ∧ u.quire q.slot = some q' ∧
          u.folio q.folio = some fo' ∧ u.mem = s.mem ∧ Popped q q1 w.cur w.f ring ∧ WentOn w q1 q' ∧
          fo'.fifos = fo.fifos.set w.f.a.toNat { ring := ring.drop w.cur.act.length })) ∧
    (∀ b : Bar, BlockedIn s q w .barwait → w.op = 0x16B → UsesBar fo q.slot.core w.f.cls.toNat b → w.cur.prog ≠ [] →
      (∀ e ∈ w.cur.prog, e.2 ≠ b.ph) →
      ∃ (u : State) (q' : Quire) (fo' : Folio), exec (.barwaitRelease q.slot) s = .next u ∧ u.quire q.slot = some q' ∧
        u.folio q.folio = some fo' ∧ u.mem = s.mem ∧ WentOn w q q' ∧ BarBecomes fo fo' b fun x => { x with wait := x.wait - w.cur.act.length }) ∧
    (∀ mask : Nat, BlockedIn s q w .tagwait → w.op = 0x170 → w.cur.prog = [(0, mask)] →
      (∀ n, n < 64 → mask.testBit n = true → tagState (some fo) q.slot.core n = .idle ∨ tagState (some fo) q.slot.core n = .done) →
      ∃ (u : State) (q' : Quire), exec (.tagwaitRelease q.slot) s = .next u ∧ u.quire q.slot = some q' ∧ u.mem = s.mem ∧ WentOn w q q') ∧
    (BlockedIn s q w .regq →
      (∀ x ∈ s.quires, x.slot.core = q.slot.core → x.slot.lane = q.slot.lane → x.slot ≠ q.slot → ∀ y, x.wait = some y → y.why = .regq →
        w.order ≤ y.order) →
      q.w * (regGranule w.f.b.toNat - regGranule q.regs) ≤ laneFree s q.slot →
      ∃ (u : State) (q1 q' : Quire), exec (.regqGrowGrant q.slot) s = .next u ∧ u.quire q.slot = some q' ∧ u.mem = s.mem ∧
        WentOn w q1 q' ∧ q1 = { q with regs := w.f.b.toNat, th := q1.th } ∧
        ∀ (t : Nat) (th : Thread), q.th[t]? = some th →
          ∃ th' : Thread, q1.th[t]? = some th' ∧ th' = { th with v := th'.v } ∧ ∀ r, r < min w.f.b.toNat q.regs → th'.v[r]? = th.v[r]?)

/-- OSENTER_GRANT and TWAIT_RELEASE (R212, R431, R432, R470): a quire blocked in OSENTER goes on with its sections open once every
lower fragment of its pixels is released; one blocked in TWAIT.all when no ray of its threads is incomplete; one in TWAIT, with
one thread, when its handle names no incomplete ray, D taking the status. -/
def Obligations.BlockedFragmentsAndRaysGoOn : Prop :=
  ∀ (s : State) (q : Quire) (w : Wait),
    (∀ (p : Pass) (fr : Nat → FragTh), BlockedIn s q w .osenter → s.pass p.id = some p →
      (∀ t ∈ w.cur.act, (∃ th, q.th[t]? = some th ∧ th.frag = some (fr t)) ∧ (fr t).pass = p.id) →
      (∀ x ∈ p.frags, x.st ≠ .leaving) →
      (∀ t ∈ w.cur.act, ∀ x ∈ p.frags, x.x = (fr t).x → x.y = (fr t).y → x.order < (fr t).order → LetsEnter x) →
      ∃ (u : State) (q' : Quire), exec (.osenterGrant q.slot) s = .next u ∧ u.quire q.slot = some q' ∧ u.mem = s.mem ∧ WentOn w q q' ∧
        u.pass p.id = some (fragsThen w.cur p fr fun x => { x with st := .opened })) ∧
    (BlockedIn s q w .twait → w.op ≠ 0x1D2 →
      (∀ r ∈ s.rays, r.slot = q.slot → r.folio = q.folio → r.tidx ∈ w.cur.act → r.at_ = .complete) →
      ∃ (u : State) (q' : Quire), exec (.twaitRelease q.slot) s = .next u ∧ u.quire q.slot = some q' ∧ u.mem = s.mem ∧ WentOn w q q') ∧
    ∀ t : Nat, BlockedIn s q w .twait → w.op = 0x1D2 → w.cur.act = [t] →
      let hd := src q w.cur w.f.sa t w.f.a 1
      let s1 : State := { (s.setQuire q.slot fun y => { y with wait := none }) with cur := some { w.cur with began := s.cycle } }
      let gives (s2 : State) (x : Nat) : Prop :=
        ∃ (u : State) (q1 q' : Quire), exec (.twaitRelease q.slot) s = .next u ∧ u.quire q.slot = some q' ∧ u.mem = s2.mem ∧
          WritesBlock q q1 w.cur false w.f.d.toNat 1 (fun _ => x) ∧ WentOn w q1 q'
      (NamesNone s q t hd → gives s (noRayStatus hd)) ∧
        ∀ (r : Ray) (bs : List Byte) (s2 : State), RayOf s q t hd r → r.at_ = .complete →
          agentRead s1 (laneVia q.slot) q.ctx (bitsOf (s.ctx q.ctx).rayBase.toNat 56 12 * 4096 + 128 * hd) 128 = (s2, .ok bs) →
          s2.cur = s1.cur → s2.quires = s1.quires → gives s2 (bitsOf (bytesVal bs) 343 341)

/-- Bring-up and resets (R12, R481, R486, R487, R491). Power-on clears everything but the product's power limit, on the bare die what its
configuration gives, at most 1,200 W; it verifies the four images in order, extends each register by its image before going on, and
sets FW_OK when all verify; training zeroes device memory under an open key; the host link sets READY. A reset of a function whose master owns nothing gives that master's error ring its reset values and, for function
0, ends the SPDM sessions; a hot reset does so for every function and goes back to link training with READY kept; contexts of
the reset masters end unassigned. -/
def Obligations.BringUpAndResets : Prop :=
  (∀ (p : Product) (s : State), ∃ u : State, exec (.powerOnReset p) s = .next u ∧
    u = { State.reset with product := p, powLimit := u.powLimit, fresh := s.fresh, meas := u.meas, fwOk := u.fwOk
                           boot := if u.fwOk then 1 else 0 } ∧
    u.powLimit = (match p with
      | .die => if Config.dieLimit = 0 then 1200 else min Config.dieLimit 1200
      | .f1m => 1200
      | .f1w => 700) ∧
    (u.fwOk = true ↔ ∀ k, k < 4 → Config.imageVerifies k = true) ∧
    ∀ k, k < 16 → u.meas[k]? = some
      (if k < 4 ∧ ∀ j, j ≤ k → Config.imageVerifies j = true then
        Config.sha512 (List.replicate 64 0 ++ bytesOf 64 (Config.imageDigest k).toNat) else 0)) ∧
  (∀ (s : State) (n : Nat), s.boot = 1 → memWf s.mem = true →
    ∃ u : State, exec (.gddr7TrainingDone n) s = .next u ∧
      u = { s with boot := 2, installed := u.installed, mem := u.mem, stale := u.stale, keyTags := u.keyTags } ∧
      u.installed = (match s.product with
        | .f1m => 192 * 2 ^ 30
        | .f1w => 96 * 2 ^ 30
        | .die => min n (192 * 2 ^ 30)) ∧
      ∀ l, (l < 2 ^ 52 → memGet u.mem l = 0 ∧ keyTag u (l / 16) = .opened) ∧
        (2 ^ 52 ≤ l → memGet u.mem l = memGet s.mem l ∧ keyTag u (l / 16) = keyTag s (l / 16))) ∧
  (∀ (s : State) (a b : Bool), s.boot = 2 →
    exec (.hostLinkTrained a b) s = .next { s with boot := 3, ready := true, hostCache := a, hostMem := b }) ∧
  (∀ (s : State) (m : Nat), s.boot = 3 → m < 32 →
    ((∀ c, c < 64 → (s.ctx c).v = true → (s.ctx c).master ≠ m) →
      exec (.functionLevelReset m) s = .next
        { s with
          masters := s.masters.modify m fun _ => Master.initial
          spdm := if m = 0 then { s.spdm with sessions := [] } else s.spdm }) ∧
    ∃ u : State, exec (.functionLevelReset m) s = .next u ∧ ∀ c, c < 64 → (s.ctx c).master = m → (u.ctx c).v = false) ∧
  (∀ s : State, s.boot = 3 → ∃ u : State, exec .hotResetLinkDown s = .next u ∧ u.boot = 2 ∧
    ∀ c, c < 64 → (s.ctx c).master < 32 → (u.ctx c).v = false) ∧
  ∀ s : State, s.boot = 3 → (∀ c, c < 64 → (s.ctx c).v = false) →
    ∃ u : State, exec .hotResetLinkDown s = .next u ∧
      u = { s with boot := 2, masters := u.masters, spdm := { s.spdm with sessions := [] } } ∧ u.masters.length = s.masters.length ∧
      ∀ m, m < 32 → m < s.masters.length → u.master m = Master.initial

/-- The fabric ports (R12, R104, R478, R482, R484): FAB_EN and DEVNUM by the management master, DEVNUM kept while FAB_EN is set;
training of a routed authentic port while FAB_EN is set; a rekey and a replay leave everything else; the limit of replays
takes the port down; a device no path reaches is marked down and none of its lines is held. -/
def Obligations.FabricPortsTrainAndFall : Prop :=
  (∀ (s : State) (v : Word), s.ready = true →
    exec (.fabEnWrite 0 v) s = .next { s with fabEn := v.getLsbD 31, devnum := if s.fabEn then s.devnum else v.toNat % 1024 }) ∧
  (∀ (s : State) (port dev : Nat) (ok : Bool), s.ready = true → s.fabEn = true →
    ∃ u : State, exec (.fabricPortTrained port dev ok) s = .next u ∧
      if ok = true ∧ port < (if s.product = .f1w then 8 else 96) ∧ (s.product = .die → Config.dieRouted port = true) then
        u = { s with ports := u.ports, peersDown := s.peersDown.filter (· != dev % 1024) } ∧
          u.ports = s.ports.modify port fun p => { p with trained := true, dev := dev % 1024, flits := 0, replays := 0, epoch := p.epoch + 1 }
      else u = s) ∧
  (∀ (s : State) (port : Nat) (p : Port), s.ports[port]? = some p → p.trained = true →
    exec (.gcmRekey port) s = .next { s with ports := s.ports.set port { p with flits := 0, epoch := p.epoch + 1 } } ∧
    exec (.flitCheckFail port) s = .next { s with ports := s.ports.set port { p with replays := p.replays + 1 } } ∧
    (16 ≤ p.replays → ∃ u : State, exec (.portReplayLimit port) s = .next u ∧
      u = { s with ports := s.ports.set port { p with trained := false, replays := 0 }, agenda := u.agenda })) ∧
  ∀ (s : State) (dev : Nat), ∃ u : State, exec (.peerLinkDown dev) s = .next u ∧ dev ∈ u.peersDown ∧
    ((s.quires = [] ∧ s.folios = [] ∧ s.persists = []) → (∀ h ∈ u.held, peerLine dev h.line = false ∨ h.tok = 0) ∧ ∀ e ∈ u.peerTab, e.2.1 ≠ dev)

/-- SPDM over DOE (R487, R488). While boot has halted only versions, capabilities and the measurement of MEAS0 are answered. Else
indices 1 to 4 answer with MEAS0 to MEAS3, index 0x10 + c with the context's owner, epoch and MEAS0 to MEAS3 and a signature
over the nonce; a key exchange opens a session, its finish completes it, an end ends it; nothing else changes. -/
def Obligations.AttestationAnswers : Prop :=
  ∀ s : State,
    let says_ (i : Instr) (bs : List Byte) : Prop := exec i s = .next { s with spdm := { s.spdm with reply := bs } }
    let meas (k : Nat) : List Byte := bytesOf 64 (((s.meas[k]?).map (·.toNat)).getD 0)
    (∃ bs, says_ .getVersion bs) ∧ (∃ bs, says_ .getCapabilities bs) ∧
    (s.fwOk = false → ∀ nonce index session, (∃ sig, says_ (.getMeasurements 1 nonce) (meas 0 ++ sig)) ∧
      ∀ i ∈ [Instr.negotiateAlgorithms, .getDigests, .getCertificate, .challenge nonce, .keyExchange nonce, .finish session,
          .endSession session] ++ (if index = 1 then [] else [Instr.getMeasurements index nonce]), exec i s = .next s) ∧
    (s.fwOk = true → s.boot = 3 → ∀ nonce : Nat,
      (∀ i ∈ [Instr.negotiateAlgorithms, .getDigests, .getCertificate, .challenge nonce], ∃ bs, says_ i bs) ∧
      (∀ k, k < 4 → ∃ sig, says_ (.getMeasurements (k + 1) nonce) (meas k ++ sig)) ∧
      (∀ c, c < 64 → ∃ sig, says_ (.getMeasurements (0x10 + c) nonce)
        (bytesOf 4 ((if (s.ctx c).v then 2 ^ 31 else 0) + (s.ctx c).master) ++ bytesOf 8 (s.ctx c).epoch ++ meas 0 ++ meas 1 ++ meas 2 ++ meas 3 ++ sig)) ∧
      (∃ bs, exec (.keyExchange nonce) s = .next
        { s with spdm := { sessions := (s.spdm.next, false) :: s.spdm.sessions, next := s.spdm.next + 1, reply := bs } }) ∧
      (∀ n, (∃ b, (n, b) ∈ s.spdm.sessions) → ∃ bs, exec (.finish n) s = .next
        { s with spdm := { s.spdm with sessions := s.spdm.sessions.map (fun e => if e.1 = n then (n, true) else e), reply := bs } }) ∧
      ∀ n, (n, true) ∈ s.spdm.sessions → ∃ bs, exec (.endSession n) s = .next
        { s with spdm := { s.spdm with sessions := s.spdm.sessions.filter (fun e => e.1 ≠ n), reply := bs } })

/-- Register writes (R3, R37, R199, R216, R403, R447, R478, R489, R492) by the context's owner, or by the management master: each register
takes the fields its table writes, ones clear what is write-one-to-clear, and fields that a rule keeps while EN is set or
pages are in use keep their values; nothing else changes. -/
def Sys2Proof.Machine.RegisterWritesTakeTheirFields : Prop :=
  (∀ (s : State) (m c : Nat) (x : Ctx), Owned s m c → m < 32 → s.ctx c = x → c < s.ctxs.length →
    let becomes (i : Instr) (y : Ctx) : Prop := exec i s = .next { s with ctxs := s.ctxs.set c y }
    let reg (o : Nat) (v : DWord) : Instr := .registerWrite m (0x10000 + 0x100 * c + o) (decide (o ∈ [0x00, 0x28, 0x40, 0x70])) v
    (∀ v : DWord,
      becomes (reg 0x00 v) { x with ptbase := BitVec.ofNat 64 (bitsOf v.toNat 51 12 * 4096 + v.toNat % 2) } ∧
      becomes (reg 0x28 v) { x with invalVa := BitVec.ofNat 64 (v.toNat % 2 ^ 57) } ∧
      becomes (reg 0x40 v) { x with tgBase := if x.tgEn then x.tgBase else BitVec.ofNat 64 (bitsOf v.toNat 56 7 * 128) } ∧
      becomes (reg 0x70 v) { x with capBase := BitVec.ofNat 64 (bitsOf v.toNat 56 15 * 32768) } ∧
      becomes (reg 0x58 v)
        { x with
          nodeFail := x.nodeFail && !v.getLsbD 31, wdog := x.wdog && !v.getLsbD 30, qfull := x.qfull && !v.getLsbD 29
          depUnder := x.depUnder && !v.getLsbD 28 } ∧
      becomes (reg 0x78 v) { x with capSize := v.toNat % 16 } ∧
      becomes (reg 0x8C v) { x with rayFull := x.rayFull && !v.getLsbD 31 }) ∧
    (x.heldRecs = [] →
      (∀ v : Word, becomes (.ctxFqCtlWrite m c v) { x with fqFull := x.fqFull && !v.getLsbD 31, fqSize := v.toNat % 32 } ∧
        becomes (.ctxFqGetWrite m c v) { x with fqGet := BitVec.ofNat 16 v.toNat }) ∧
      ∀ v : DWord, becomes (.ctxFqBaseWrite m c v) { x with fqBase := BitVec.ofNat 64 (bitsOf v.toNat 51 12 * 4096) }) ∧
    (∀ v : Word,
      becomes (.ctxWdogWrite m c v) { x with wdogLimit := v.toNat % 65536, wdogStart := s.cycle } ∧
      (x.tgEn = true ∨ v.getLsbD 31 = false →
        ∃ en, becomes (.ctxTgCtlWrite m c v)
            { x with
              tgEn := en, tgWeight := bitsOf v.toNat 23 16
              tgQsize := if x.tgEn then x.tgQsize else bitsOf v.toNat 11 8, tgHsize := if x.tgEn then x.tgHsize else bitsOf v.toNat 4 0 } ∧
          (v.getLsbD 31 = false → en = false))) ∧
    (∀ v : DWord, becomes (.ctxRayPoolWrite m c true v) { x with rayPages := if x.rayBlocks = [] then bitsOf v.toNat 23 0 else x.rayPages } ∧
      becomes (.ctxRayPoolWrite m c false v)
        { x with rayBase := if x.rayBlocks = [] then BitVec.ofNat 64 (bitsOf v.toNat 56 12 * 4096) else x.rayBase }) ∧
    (x.tgEn = false ∨ x.dead = true → ∀ v : DWord,
      becomes (.ctxGhAddrWrite m c v) { x with ghAddr := BitVec.ofNat 64 (bitsOf v.toNat 56 7 * 128) })) ∧
  ∀ (s : State) (v : Word), s.ready = true →
    let reg (o : Nat) : Instr := .registerWrite 0 o false (v.setWidth 64)
    exec (reg 0xA08) s = .next { s with mstPriv := v ||| 1 } ∧
    exec (reg 0xA0C) s = .next { s with retmax := bitsOf v.toNat 21 16, powLimit := v.toNat % 65536 } ∧
    exec (reg 0xA00) s = exec (.fabEnWrite 0 v) s ∧
    (∀ m, m < 32 → exec (.registerWrite m 0x810 false (v.setWidth 64)) s = .next
      { s with masters := s.masters.modify m fun x => { x with errGet := BitVec.ofNat 16 v.toNat } }) ∧
    ∀ g, g < 48 →
      (∃ w : Nat, exec (.diagBselWrite 0 g v) s = .next
        { s with gaths := s.gaths.modify g fun x => { x with bsel := v.toNat % 2 ^ 15, bview := w }, fresh := s.fresh + 1 }) ∧
      ∃ u : State, exec (.diagBviewSnapshot 0 g) s = .next u ∧ u = { s with gaths := u.gaths } ∧
        (g < s.gaths.length → ∃ x : Nat, u.gaths = s.gaths.set g { s.gath g with bview := x } ∧
          (∀ q fo b, s.quire { core := 4 * g + bitsOf (s.gath g).bsel 14 13, lane := bitsOf (s.gath g).bsel 12 7
                               q := bitsOf (s.gath g).bsel 6 5 } = some q →
            s.folio q.folio = some fo → UsesBar fo (4 * g + bitsOf (s.gath g).bsel 14 13) (bitsOf (s.gath g).bsel 4 0) b →
            x.testBit 0 = true ∧ bitsOf x 18 2 = b.a % 2 ^ 17 ∧ bitsOf x 35 19 = b.arr % 2 ^ 17 ∧ bitsOf x 50 36 = b.pend % 2 ^ 15 ∧
              bitsOf x 158 143 = b.ph % 2 ^ 16))

/-- Writes of a context's block by a master that does not own it, writes of the management master's registers by any other master, and
every write before READY, are ignored (R37, R478, R491). -/
def Sys2Proof.Machine.StrangersWriteNothing : Prop :=
  ∀ (i : Instr) (s : State),
    (∀ m c, ctxWriteOf i = some (m, c) → ¬ Owned s m c → exec i s = .next s) ∧
    (∀ m, managementWriteOf i = some m → m ≠ 0 ∨ s.ready = false → exec i s = .next s) ∧
    ∀ m off wide v, i = .registerWrite m off wide v → s.ready = false ∨ 32 ≤ m ∨
        (0x10000 ≤ off ∧ off < 0x13FFC ∧ ¬ Owned s m ((off - 0x10000) / 0x100)) ∧ off % 8 = 0 → exec i s = .next s

/-- A register write takes the fields of the register; a stranger's write changes nothing. -/
def Obligations.RegisterWritesAndStrangers : Prop := RegisterWritesTakeTheirFields ∧ StrangersWriteNothing

/-- Contexts change hands (R37, R409, R410, R478, R479): an assignment of an unassigned context by the management master gives its block
the reset values and a fresh key; a release clears V while EN is 0 and nothing has run or RECL is set; DEAD ends the context at
once, its quires losing what they wait for; a dead context none of whose requests is under way is reclaimed, RECL is set and its owner interrupted; REVIVE takes
effect once RECL is set and replaces the key. -/
def Obligations.ContextsAreAssignedEndAndReturn : Prop :=
  ∀ (s : State) (m c owner : Nat) (x : Ctx), s.ready = true → c < s.ctxs.length → s.ctx c = x →
    let becomes (y : Ctx) : State := { s with ctxs := s.ctxs.set c y }
    exec (.ctxOwnerAssign 0 c owner) s = .next
      (if x.v then s else becomes { Ctx.initial with v := true, master := owner % 32, epoch := x.epoch + 1 }) ∧
    exec (.ctxOwnerRelease 0 c) s = .next
      (if x.v = true ∧ x.tgEn = false ∧ (x.ran = false ∨ x.recl = true) then becomes { x with v := false } else s) ∧
    (Owned s m c →
      exec (.ctxStateRevive m c) s = .next
        (if x.recl then becomes { x with dead := false, recl := false, ran := false, tgEn := false, epoch := x.epoch + 1 } else s) ∧
      (x.dead = true → exec (.ctxStateDead m c) s = .next s) ∧
      (x.dead = false → (∀ h ∈ s.held, h.tok = 0) → (∀ k ∈ s.msgs, k.kind.isTokens = false) → (∀ r ∈ s.rays, r.ctx ≠ c) →
        ∃ u : State, exec (.ctxStateDead m c) s = .next u ∧
          u = { becomes { x with dead := true, tgEn := false, capWait := [], execWait := [], got := [], outPages := [] } with
                pending := s.pending.filter fun p => p.ctx != c, walks := u.walks, monitors := s.monitors.filter fun e => e.2 != c
                spawnLate := s.spawnLate.filter fun e => e.ctx != c, msgs := u.msgs, cur := u.cur, gaths := u.gaths, folios := u.folios, huddles := u.huddles
                serving := s.serving.filter fun v => v.huddle.ctx != c
                quires := s.quires.map fun q =>
                  if q.ctx = c then
                    { q with wait := none, log := [], chain := none, latch := none, region := none, deferred := [] }
                  else q } ∧
          u.walks.map (fun w => { w with root := none }) = (s.walks.filter fun w => w.ctx != c).map (fun w => { w with root := none }) ∧
          (∀ h ∈ u.huddles, h.ctx ≠ c) ∧ ∀ f ∈ u.folios, f.ctx = c → f.tags = [])) ∧
    (x.v = true → x.dead = true → x.recl = false → draining s c = false →
      ∃ u : State, exec (.contextReclamation c) s = .next u ∧ (u.ctx c).recl = true ∧ (u.ctx c).dead = true ∧ (u.ctx c).heldRecs = [] ∧
        ((∀ r ∈ s.rays, r.ctx = c ∨ ∀ f ∈ s.folios, f.ctx = c → r.folio ≠ f.id) → u.mem = s.mem) ∧ (∀ q ∈ u.quires, q.ctx ≠ c) ∧ (∀ f ∈ u.folios, f.ctx ≠ c) ∧ (∀ n ∈ u.nodes, n.ctx ≠ c) ∧
        (∀ p ∈ u.passes, p.ctx ≠ c) ∧ (∀ r ∈ u.rays, r.ctx ≠ c) ∧ (∀ l ∈ u.leases, l.kfield ≠ c) ∧
        (∀ g ∈ u.gaths, (∀ e ∈ g.tlb, e.ctx ≠ c) ∧ ∀ e ∈ g.recs, e.ctx ≠ c) ∧
        (x.master < s.masters.length → c ∈ (u.master x.master).msix) ∧
        ((∀ f ∈ s.folios, f.ctx ≠ c) → u.quires = s.quires.filter (fun q => q.ctx != c) ∧ u.folios = s.folios))

/-- Writes that act on a context's work (R34, R38, R41, R203, R215): GO replays what waited for a page; a wake and a detected write
of the head line read HEAD from memory while EN is set; a drop starts, is ignored while BUSY, and completes once the accesses
under the old translation are done, and the walks of the page's neighbours, no TLB then holding a matching entry; the end of a walk installs its translation where the
miss was, or hands its fault to the word that waits; a pre-emption discards and requeues an idempotent folio and aborts another's
regions. -/
def Obligations.ContextWritesActOnTheirWork : Prop :=
  ∀ (s : State) (m c : Nat) (x : Ctx), c < s.ctxs.length → s.ctx c = x →
    let becomes (y : Ctx) : State := { s with ctxs := s.ctxs.set c y }
    (Owned s m c → x.capWait = [] → x.execWait = [] → (∀ q ∈ s.quires, q.log = []) →
      ∃ u : State, exec (.ctxResumeGo m c) s = .next u ∧
        u = { becomes { x with outPages := [] } with
              quires := s.quires.map fun q =>
                if q.ctx = c then
                  { q with wait := q.wait.bind fun w =>
                      if w.why = .fetch then (if q.rally = none then none else some { w with why := .again }) else some w }
                else q
              huddles := s.huddles.map fun h => if h.ctx = c then { h with susp := false } else h
              folios := s.folios.map fun f =>
                if f.ctx = c then { f with tags := f.tags.map fun t => { t with paused := false } } else f
              gaths := u.gaths } ∧
        ∀ g b, b ∈ (u.gath g).bench → (∃ q ∈ s.quires, q.slot = b.slot ∧ q.ctx = c) → b.parked = false) ∧
    (∀ (bs : List Byte) (s1 : State), x.v = true → x.tgEn = true → x.dead = false →
      graphRead s c (bitsOf x.ghAddr.toNat 56 7 * 128) 4 = (s1, .ok bs) → c < s1.ctxs.length →
      let s2 : State := { s1 with monitors := s1.monitors.filter fun e => e.2 != c }
      ∃ u : State, exec (.graphHeadMonitorWake c) s = .next u ∧ (Owned s m c → exec (.ctxWake m c) s = .next u) ∧
        (u.ctx c).head = BitVec.ofNat 32 (bytesVal bs) ∧
        ∀ (p : Page) (s3 : State), xlate s2 { core := none, gath := none } c (s1.ctx c).ghAddr.toNat .read = (s3, .ok p) →
          isDev p.loc = true → c < s3.ctxs.length →
          u = { s3 with ctxs := s3.ctxs.set c { s3.ctx c with head := BitVec.ofNat 32 (bytesVal bs) }
                        monitors := (lineOf p.loc, c) :: s3.monitors }) ∧
    (Owned s m c →
      (x.invalBusy = true → exec (.invalVa m c) s = .next s ∧ exec (.invalContext m c) s = .next s) ∧
      (x.invalBusy = false →
        exec (.invalVa m c) s = .next
          { becomes { x with invalBusy := true, invalKind := 1, invalPage := x.invalVa } with
            walks := s.walks.map fun w => if w.ctx = c ∧ w.page = x.invalVa.toNat / 65536 then { w with discard := true } else w } ∧
        exec (.invalContext m c) s = .next
          { becomes { x with invalBusy := true, invalKind := 2, invalPage := x.invalVa } with
            walks := s.walks.map fun w => if w.ctx = c then { w with discard := true } else w })) ∧
    (x.invalBusy = true → (∀ q ∈ s.quires, q.log = [] ∧ q.region = none) → s.pending = [] → s.msgs = [] →
      (∀ w ∈ s.walks, w.ctx = c → w.discard = true ∨ w.root = none ∨ w.page / 2 ^ 18 ≠ x.invalPage.toNat / 2 ^ 34) →
      let goes (e : Tlb) : Bool := e.ctx == c && (x.invalKind == 2 || e.page == x.invalPage.toNat / 2 ^ pageShift e.level)
      ∃ u : State, exec (.invalidationComplete c) s = .next u ∧
        u = { becomes { x with invalBusy := false, invalKind := 0 } with
              gaths := s.gaths.map fun g => { g with tlb := g.tlb.filter fun e => !goes e }
              cores := s.cores.map fun k => { k with tlb := k.tlb.filter fun e => !goes e }
              walks := u.walks } ∧
        u.walks.map (fun w => { w with root := none }) =
          s.walks.map (fun w => if w.ctx = c then { w with root := none, discard := false } else { w with root := none }) ∧
        ∀ k w : Walk, s.walks = [w] → u.walks = [k] → w.ctx = c → w.discard = true → k.root = some x.ptbase) ∧
    (∀ (w : Walk) (root : DWord), s.walks = [w] → w.discard = false → w.root = some root →
      (∀ e ∈ s.badWalks, ¬ (e.1 = w.ctx ∧ e.2.1 = w.page)) → (∀ f ∈ s.folios, f.win = []) →
      (∀ r : Nat, walkTables s root (w.page * 65536) = .error r →
        exec (.walkComplete w.id) s = .next { s with walks := [], agenda := (w.slot.map fun q => Move.walked q w.ctx w.page r).toList ++ s.agenda }) ∧
      ∀ e lv : Nat, walkTables s root (w.page * 65536) = .ok (e, lv) →
        ∃ u : State, exec (.walkComplete w.id) s = .next u ∧ u = { s with walks := [], gaths := u.gaths, cores := u.cores } ∧
          (w.gath < s.gaths.length → (∀ k, w.core = some k → k < s.cores.length) → ∀ va, va / 65536 = w.page →
            tlbLookup u { core := w.core, gath := some w.gath } w.ctx va =
              some { ctx := w.ctx, level := lv, page := va / 2 ^ pageShift lv, leaf := BitVec.ofNat 64 e })) ∧
    (∀ f : Folio, Owned s m c → x.dead = false → s.folios.filter (fun y => y.ctx == c) = [f] → f.st = .running → s.folio f.id = some f →
      (rcIdem f.rcd = false →
        exec (.ctxPreemptGo m c) s = .next { s with quires := s.quires.map fun q => if q.folio = f.id then strikeRegion q 7 else q }) ∧
      (rcIdem f.rcd = true → f.stage = .compute →
        ∃ u : State, exec (.ctxPreemptGo m c) s = .next u ∧ ((∀ r ∈ s.rays, r.folio ≠ f.id) → u.mem = s.mem) ∧ u.folios = s.folios.filter (fun y => y.id != f.id) ∧
          (∀ q ∈ u.quires, q.folio ≠ f.id) ∧
          ∀ n, s.node f.node = some n →
            ∃ n' : Node, u.node f.node = some n' ∧ n' = { n with requeued := n'.requeued } ∧ f.fid ∈ n'.requeued ∧
              ∀ k ∈ n.requeued, k ∈ n'.requeued))

/-- The executor at work (R202, R203, R205, R207, R216). RECORD_CONSUME makes the next record of HEAD a node, ready at once when its
count is zero, after STATUS 1 is written, or fails it with STATUS 3 and its REASON; either way one record more is consumed.
NODE_FINISH expires the context's leases, drops its record-cache entries, decrements the successor's count, writes STATUS 2, and
restarts the watchdog's period. WATCHDOG_EXPIRY sets WDOG and interrupts the owner. -/
def Obligations.NodesRunAndFinish : Prop :=
  (∀ (s s0 s1 : State) (c : Nat) (x : Ctx) (bs : List Byte), s.ctx c = x → c < s1.ctxs.length → x.v = true → x.tgEn = true → x.dead = false →
    x.consumed ≠ x.head → (∀ e ∈ s.spawnLate, e.ctx ≠ c) → (∀ n ∈ s.nodes, n.ctx ≠ c) →
    let i := x.consumed.toNat
    let slot := i % 2 ^ x.tgHsize
    let addr := bitsOf x.tgBase.toNat 56 7 * 128 + 128 * slot
    let r := bytesVal bs
    keepSpan s c addr 2 addr 128 = (s0, .ok bs) →
    let kept := (s1.ctx c).got.filter fun e => e.1 != addr
    let failure : Option Nat := if graphFieldsOk x.tgHsize x.tgQsize r = false then some 0x0A else if rcKind r = 2 then none else launchFail r true
    (failure = none → rcKind r ≠ 1 → graphWrite s0 c (addr + 78) [1] = (s1, none) →
      ∃ (u : State) (n : Node), exec (.recordConsume c) s = .next u ∧
        u = { s1 with nodes := s1.nodes ++ [n], nextId := u.nextId, agenda := u.agenda
                      ctxs := s1.ctxs.set c { s1.ctx c with consumed := (s1.ctx c).consumed + 1, ran := true, got := kept } } ∧
        n.ctx = c ∧ n.slot = slot ∧ n.addr = addr ∧ n.rcd = r ∧ n.index = some i ∧ n.dep = rcDep r ∧ n.nextFid = 0 ∧
        n.requeued = [] ∧ n.failed = none ∧ n.ready = (if rcDep r = 0 then some s1.cycle else none) ∧
        (rcKind r = 0 → u.agenda = s1.agenda)) ∧
    (∀ e : Nat, failure = some e → rcKind r ≠ 1 → graphWrite s0 c (addr + 78) [3, BitVec.ofNat 8 e] = (s1, none) →
      ∃ u : State, exec (.recordConsume c) s = .next u ∧
        u = { s1 with
              ctxs := s1.ctxs.set c { s1.ctx c with nodeFail := true, consumed := (s1.ctx c).consumed + 1, ran := true, got := kept }
              masters := u.masters })) ∧
  (∀ (s s2 s3 s4 : State) (n : Node), s.node n.id = some n → (s.ctx n.ctx).dead = false → n.failed = none → n.pass = none →
    (∀ f ∈ s.folios, f.node ≠ n.id) → n.dep = 0 →
    (rcKind n.rcd = 2 ∨ rcKind n.rcd = 0 ∧ n.requeued = [] ∧ editionFolios n.rcd ≤ n.nextFid ∧ n.ready.isSome = true) →
    n.fin = 0 → s.pending = [] → s.msgs = [] → n.ctx < s4.ctxs.length →
    s2 = { s with
           leases := s.leases.map fun l => if l.kfield = n.ctx ∨ l.kfield = 64 then { l with expired := true } else l
           gaths := s.gaths.map fun g => { g with recs := g.recs.filter fun e => e.ctx != n.ctx }
           nodes := s.nodes.map fun y => if y.id = n.id then { y with fin := 1 } else y } →
    let a := n.tgBase + 128 * rcSucc n.rcd 0
    (rcNsucc n.rcd = 0 ∧ s3 = s2 ∨
      rcNsucc n.rcd = 1 ∧ rcSucc n.rcd 0 ≠ 0xFFFF ∧ anyParked s2 n.ctx [a + 76] = (s2, false) ∧
        ∃ (d : Nat) (w1 w2 w : State), d + 1 < 65536 ∧ graphProbe s2 n.ctx (a + 76) .atomic = (w1, none) ∧
          agentRead w1 { core := none, gath := none } n.ctx (a + 76) 2 = (w2, .ok (bytesOf 2 (d + 1))) ∧
          graphWrite w2 n.ctx (a + 76) (bytesOf 2 d) = (w, none) ∧
          (∀ y ∈ w.nodes, y.ctx = n.ctx → y.addr = a → rcKind y.rcd ≠ 2) ∧
          s3 = { w with
                 nodes := (w.nodes.map fun y =>
                   if y.ctx = n.ctx ∧ y.addr = a then
                     { y with dep := d, ready := if d = 0 ∧ y.ready = none then some w.cycle else y.ready }
                   else y).map fun y => if y.id = n.id then { y with fin := y.fin + 1 } else y }) →
    (∀ p ∈ s4.passes, p.node = n.id → p.tiles = []) → anyParked s3 n.ctx [n.addr + 78] = (s3, false) → graphWrite s3 n.ctx (n.addr + 78) [2] = (s4, none) →
    ∃ u : State, exec (.nodeFinish n.id) s = .next u ∧
      u = { s4 with
            nodes := s4.nodes.filter fun y => y.id != n.id, passes := s4.passes.filter fun p => p.node != n.id
            spawnUsed := u.spawnUsed, ctxs := s4.ctxs.set n.ctx { s4.ctx n.ctx with wdogStart := s4.cycle } } ∧
      (n.index.isSome → u.spawnUsed = s4.spawnUsed) ∧
      (n.index = none → ∀ e, e ∈ u.spawnUsed ↔ e ∈ s4.spawnUsed ∧ e ≠ (n.ctx, n.slot))) ∧
  ∀ (s : State) (c : Nat) (x : Ctx), s.ctx c = x → c < s.ctxs.length → x.wdogLimit ≠ 0 → (∃ f ∈ s.folios, f.ctx = c ∧ f.st = .running) →
    x.wdogStart + x.wdogLimit * 65536 ≤ s.cycle →
    ∃ u : State, exec (.watchdogExpiry c) s = .next u ∧
      u = { s with ctxs := s.ctxs.set c { x with wdog := true, wdogStart := s.cycle }, masters := u.masters } ∧
      (x.v = true → x.master < s.masters.length → c ∈ (u.master x.master).msix)

/-- A folio's life (R48, R50 to R55, R169, R174, R201, R208, R209, R212, R216, R312): on an idle device FOLIO_PLACEMENT puts the
lowest folio of the ready COMPUTE node on core 0, one quire on each of the lowest lanes, its banks draining; BANK_DRAIN_COMPLETE
hands a drained bank over; FOLIO_START starts its quires at CODE, with the launch registers and every other register zero, threads
at or beyond FTHREADS exited; RALLY_GRANT grants the one ready quire its leading set; QUIRE_END frees the slot of a quire whose
threads have all exited, and what its threads still append answers nobody; FOLIO_RETIREMENT returns the banks to CACHE. -/
def Obligations.FoliosArePlacedStartAndRetire : Prop :=
  (∀ (s s1 : State) (n : Node) (bs : List Byte), s.ready = true → s.folios = [] → s.quires = [] → s.nodes = [n] →
    (∀ p ∈ s.passes, p.appends = []) → (∀ r ∈ s.rays, r.at_ ≠ .routineQ) → n.addr / 65536 ∉ (s.ctx n.ctx).execWait →
    graphReadMany { s with waitHead := none } n.ctx n.addr 2 = (s1, .ok bs) →
    s1.folios = [] → s1.quires = [] → s1.nodes = [n] → s1.gaths = s.gaths → n.ready.isSome = true → n.failed = none →
    n.gang = [] → n.requeued = [] → (s.ctx n.ctx).dead = false → (s.ctx n.ctx).tgEn = true → rcKind n.rcd = 0 → rcDet n.rcd = false →
    n.nextFid < editionFolios n.rcd → placeFail n.rcd false = none → rcFcores n.rcd = 0 → rcMapped n.rcd = false →
    folioTags n.rcd ≤ 64 → quireWidth n.rcd * regGranule (rcRegs n.rcd) ≤ 4096 → rcQw n.rcd ≤ 2 → folioQuires n.rcd ≤ 64 →
    s.gaths.length = 48 → (s.gath 0).banks = List.replicate 64 .cache →
    let a := scratchBanks n.rcd
    let b := rcFifos n.rcd
    ∃ (u : State) (f : Folio), exec .folioPlacement s = .next u ∧
      u = { s1 with folios := [f], nodes := [{ n with nextFid := n.nextFid + 1 }], gaths := u.gaths, nextId := s1.nextId + 1 } ∧
      f.id = s1.nextId ∧ f.node = n.id ∧ f.ctx = n.ctx ∧ f.rcd = n.rcd ∧ f.fid = n.nextFid ∧ f.stage = .compute ∧ f.st = .draining ∧
      f.cores = [0] ∧ f.seats = (List.range (folioQuires n.rcd)).map (fun k => ({ core := 0, lane := k, q := 0 }, k)) ∧
      (∀ g, g ≠ 0 → u.gath g = s.gath g) ∧
      (u.gath 0).banks = List.replicate a (.drain f.id false) ++ List.replicate b (.drain f.id true) ++ List.replicate (64 - a - b) .cache) ∧
  (∀ (s : State) (g bank o : Nat) (fifo : Bool) (x : Gath), s.gaths[g]? = some x → x.banks[bank]? = some (.drain o fifo) →
    (∀ h ∈ s.held, h.agent = g → h.tok = 0) → (∀ p ∈ s.pending, p.gath ≠ g) → (∀ l ∈ s.leases, l.at_ ≠ .tile g) →
    exec (.bankDrainComplete g bank) s = .next
      { s with gaths := s.gaths.set g { x with banks := x.banks.set bank (if o = noOwner then .cache else if fifo then .fifo o else .scratch o) } }) ∧
  (∀ (s : State) (f : Folio), s.folio f.id = some f → f.st = .draining → f.stage = .compute → f.preempt = false → rcMapped f.rcd = false →
    (s.ctx f.ctx).dead = false → (∀ g ∈ s.gaths, ∀ fifo, BankSt.drain f.id fifo ∉ g.banks) →
    ∃ (u : State) (new : List Quire), exec (.folioStart f.id) s = .next u ∧
      u = { s with
            quires := s.quires ++ new
            folios := s.folios.map fun x =>
              if x.id = f.id then { x with st := .running, fbar := [], bars := [], tags := [], ringN := 0, preempt := false } else x
            ctxs := if ∃ x ∈ s.folios, x.ctx = f.ctx ∧ x.st = .running then s.ctxs
                    else s.ctxs.modify f.ctx fun x => { x with wdogStart := s.cycle } } ∧
      new.length = f.seats.length ∧
      ∀ (k : Nat) (slot : Slot) (qid : Nat), f.seats[k]? = some (slot, qid) →
        ∃ q : Quire, new[k]? = some q ∧ q.slot = slot ∧ q.qid = qid ∧ q.ctx = f.ctx ∧ q.folio = f.id ∧ q.w = quireWidth f.rcd ∧
          q.regs = rcRegs f.rcd ∧ q.q = 1 ∧ q.ftz = false ∧ q.ctr = [0, 0, 0, 0] ∧ q.rally = none ∧ q.wait = none ∧ q.region = none ∧
          q.s.length = 128 ∧
          (∀ j, j < 128 → q.s[j]? = some (BitVec.ofNat 32 (([rcArgs f.rcd, rcArgs f.rcd / 2 ^ 32, f.recAddr, f.recAddr / 2 ^ 32, f.recSlot] : List Nat).getD j 0))) ∧
          q.th.length = q.w ∧
          ∀ (i : Nat) (th : Thread), q.th[i]? = some th →
            th.pc = BitVec.ofNat 64 (rcCode f.rcd) ∧ th.x = decide (rcFthreads f.rcd ≤ qid * q.w + i) ∧ th.v = List.replicate 256 0 ∧
              th.pr = 1 ∧ th.slice = List.replicate 64 0 ∧ th.depth = 0 ∧ th.mr = none ∧ th.halt = none ∧ th.td = 0 ∧ th.y = false) ∧
  (∀ (s : State) (q : Quire) (lead : List Nat) (d : Nat) (pc : DWord), s.quires.filter (fun x => x.slot.core == q.slot.core) = [q] →
    slotReady s q = true → q.deferred = [] → leadingSet q = some (lead, d, pc) →
    ∃ (u : State) (y : Rally), exec (.rallyGrant q.slot.core) s = .next u ∧
      u = { s with
            cores := u.cores
            quires := s.quires.map fun x =>
              if x.slot = q.slot then { q with ready := none, rally := some y }
              else if x.ready = none ∧ slotReady s x = true then { x with ready := some s.cycle }
              else x } ∧
      y.lead = lead ∧ y.depth = d ∧ y.head = pc ∧ y.next = pc ∧ y.words = 0) ∧
  (∀ (s : State) (q : Quire), s.quire q.slot = some q → q.log = [] → (∀ x ∈ s.quires, x.log = [] ∧ ∀ th ∈ x.th, th.ray = none) →
    (∀ f ∈ s.folios, f.stage ≠ .merge) → (∀ th ∈ q.th, th.x = true ∧ th.frag = none) → (∀ k ∈ q.ctr, k = 0) → q.rally = none → q.chain = none →
    (∀ b ∈ (s.gath (gathOf q.slot.core)).bench, b.slot ≠ q.slot) →
    (∀ f, s.folio q.folio = some f → ∀ t ∈ f.tags, t.st ≠ .collecting) → (∀ p ∈ s.passes, ∀ x ∈ p.frags, x.st ≠ .leaving) →
    ∃ u : State, exec (.quireEnd q.slot) s = .next u ∧
      u = { s with quires := s.quires.filter (fun x => x.slot != q.slot), ctxs := u.ctxs
                   passes := s.passes.map fun p =>
                     { p with appends := p.appends.map fun a => if a.slot.map (·.1) = some q.slot then { a with slot := none } else a } } ∧
      ∀ c, u.ctx c = { s.ctx c with used := (u.ctx c).used }) ∧
  ∀ (s : State) (f : Folio), s.folio f.id = some f → f.st = .running → f.stage = .compute → f.win = [] → f.ctx < s.ctxs.length →
    (∀ q ∈ s.quires, q.folio ≠ f.id) → (∀ r ∈ s.rays, r.folio ≠ f.id) → (∀ t ∈ f.tags, t.st = .idle ∨ t.st = .done) →
    exec (.folioRetirement f.id) s = .next
      { s with
        folios := s.folios.filter fun x => x.id != f.id
        ctxs := s.ctxs.set f.ctx { s.ctx f.ctx with wdogStart := s.cycle }
        gaths := s.gaths.map fun g =>
          { g with
            banks := g.banks.map fun b =>
              if b = .drain f.id true then .drain noOwner true else if b = .drain f.id false then .drain noOwner false
              else if b = .scratch f.id ∨ b = .fifo f.id then .cache else b
            maps := g.maps.filter fun e => e.folio != f.id } }

/-- Regions end (R87, R129, R188, R189, R190): at the rally boundary a thread with an abort of its own goes to its handler, its live
registers, predicates, meeting register and depth from its checkpoint, another register as at the TRY or as written since, its code
register with the abort's value; a commit with every member held and its lines' tokens collected publishes the buffered
bytes, thread by thread, and closes the region; a collection longer than 4,096 cycles, tokens still missing, aborts the region
with COLLECT. -/
def Obligations.RegionsRestoreOrPublish : Prop :=
  ∀ (s : State) (q : Quire) (r : Region), s.quire q.slot = some q → q.region = some r → q.rally = none →
    (q.log = [] → r.conflict = none →
      (∀ (t : Nat) (th : Thread) (y : TryTh) (k val : Nat) (s1 : State) (bs : List Byte), q.th[t]? = some th → th.tryTh = some y →
        y.abort = some (k, val) →
        privRead s q t (rcPriv (s.rcdOf q.slot) - rcCkpt (s.rcdOf q.slot)) ((16 + 4 * y.live.length + 15) / 16) = (s1, .ok bs) →
        s1.quire q.slot = some q →
        ∃ (u : State) (q' : Quire) (th' : Thread), exec (.tryAbortRestore q.slot t) s = .next u ∧
          u = { s1 with quires := u.quires, fresh := u.fresh } ∧ u.quire q.slot = some q' ∧ q'.th[t]? = some th' ∧
          th' = { th with
                  v := th'.v, pr := BitVec.ofNat 16 (bytesVal ((bs.drop 8).take 2)) ||| 1
                  mr := if bytesVal (bs.take 8) = 2 ^ 64 - 1 then none else some (BitVec.ofNat 64 (bytesVal (bs.take 8)))
                  depth := bytesVal ((bs.drop 10).take 1), td := 0, y := false, c := false, pc := y.handler, npc := none, xfer := true
                  tryTh := none, p := th'.p } ∧
          th'.v.length = th.v.length ∧
          (y.codereg < th.v.length → th'.v[y.codereg]? = some (BitVec.ofNat 32 val)) ∧
          (∀ j, j < th.v.length → j ≠ y.codereg →
            (j ∉ y.live → th'.v[j]? = th.v[j]? ∨ th'.v[j]? = some (y.regs.getD j 0) ∨ ∃ w, (j, w) ∈ y.wrote ∧ th'.v[j]? = some w) ∧
            ∀ i, y.live.Nodup → y.live[i]? = some j → th'.v[j]? = some (BitVec.ofNat 32 (bytesVal ((bs.drop (16 + 4 * i)).take 4)))) ∧
          (∀ j x, j ≠ t → q.th[j]? = some x → ∃ p, q'.th[j]? = some { x with p := p }) ∧
          (r.members.filter (· != t) = [] → q'.region = none ∧ ∀ x ∈ q'.th, x.p = false) ∧
          (r.members.filter (· != t) ≠ [] → q'.region = some
            { r with
              members := r.members.filter (· != t), buf := r.buf.filter fun e => e.1 != t
              entries := r.entries.filter fun e => e.1 != t
              collecting := if r.collecting = none ∧ ((r.members.filter (· != t)).all fun j => ((q.th[j]?).map (·.c)).getD false) = true
                            then some s1.cycle else r.collecting })) ∧
      ((∀ t ∈ r.members, ∃ th, q.th[t]? = some th ∧ th.c = true) → s.pending = [] → s.msgs = [] →
        (∀ l ∈ r.writes, (heldOf s (gathOf q.slot.core) l).tok = 64 ∧ (heldOf s (gathOf q.slot.core) l).valid = true) →
        (∀ x ∈ s.quires, x.slot ≠ q.slot → x.region = none) → (∀ e ∈ r.buf, keyTag s (e.2.2.1 / 16) = e.2.2.2.2 ∧ (homeOf s (lineOf e.2.2.1)).ckey = some e.2.2.2.2) →
        ∃ (u : State) (q' : Quire), exec (.commitCollection q.slot) s = .next u ∧ u.quire q.slot = some q' ∧
          u = { s with mem := u.mem, stale := u.stale, held := u.held, homes := u.homes, quires := u.quires } ∧
          (∀ l, homeOf u l = { homeOf s l with hv := (homeOf u l).hv }) ∧
          u.mem = memSetAll s.mem (((List.range q.w).flatMap fun t => r.buf.filter fun e => e.1 == t).map fun e => (e.2.2.1, e.2.2.2.1)) ∧
          q' = { q with
                 region := none
                 th := q.th.map fun th =>
                   if th.tryTh.isSome then { th with c := false, td := 0, tryTh := none, p := false } else { th with p := false } })) ∧
    ∀ c : Nat, r.collecting = some c → (∀ t ∈ r.members, ∃ th, q.th[t]? = some th ∧ th.c = true) → 4096 < s.cycle - c →
      ((∀ l ∈ r.writes, (heldOf s (gathOf q.slot.core) l).tok = 64) → exec (.commitCollectTimeout q.slot) s = .next s) ∧
      ((∃ l ∈ r.writes, (heldOf s (gathOf q.slot.core) l).tok ≠ 64) →
      ∃ u : State, exec (.commitCollectTimeout q.slot) s = .next u ∧ u = { s with quires := u.quires } ∧
        u.quire q.slot = some (strikeRegion q 6) ∧
        u.quires.filter (fun x => x.slot != q.slot) = s.quires.filter (fun x => x.slot != q.slot))

/-- Token requests (R76, R78, R79, R81, R86, R90, R94): the home sends one token for a READ and all for a WRITE, its version moving on,
with data where its own is valid and the agent has none, and forwards the request to every other agent that may hold tokens; a
holder answers a READ with a non-owner token if it owns two, with the owner token if that is its only one, and a WRITE with all
its tokens, whereupon its quires' regions that hold the line conflict, but tokens of a line registered to a window stay; a WRITE that meets a fill in flight is recorded against it; the
host bridge waits until the host has given the line up, and returns what it does not send; tokens that arrive add up, with data and dirtiness, and
settle a request that has what it asked for; a request silent for 1,024 cycles is sent again and the fourth time becomes
persistent. -/
def Obligations.TokensMoveOnRequests : Prop :=
  ∀ (s : State) (m : Msg), s.msg m.id = some m →
    let line := m.line
    let h := homeOf s line
    let rest := s.msgs.filter fun x => x.id != m.id
    let others := h.hold.filter (· != m.src)
    let data := h.hv && !(heldOf s m.src line).valid
    (h.hold.Nodup →
      (∀ (i : Instr) (r : Req), (i, r) ∈ [(Instr.transientReadRequest m.id, Req.read), (.transientWriteRequest m.id, .write)] →
        m.kind = .request r →
        let ready : Prop := isHost (line * 128) = true → ∃ b, s.bridges.find? (fun b => b.line == line) = some b ∧
          (if r = .read then b.h0 ≠ .i ∧ b.h1 ≠ .i else (b.h0 = .e ∨ b.h0 = .m) ∧ (b.h1 = .e ∨ b.h1 = .m))
        (¬ ready → exec i s = .next s) ∧
        (ready → h.win = true → ∃ u : State, exec i s = .next u ∧ u = { s with msgs := rest, held := u.held } ∧
          heldOf u m.src line = { heldOf s m.src line with req := none } ∧
          ∀ a l, (a, l) ≠ (m.src, line) → heldOf u a l = heldOf s a l) ∧
        (ready → h.win = false → (48 ≤ m.src → h.ckey = none ∨ h.ckey = some .opened) → ∃ u : State, exec i s = .next u ∧
          let last := if r = .read then h.ht == 1 else h.ht != 0
          let cyc := if last ∧ h.verAt = s.cycle + 1 then s.cycle + 1 else s.cycle
          let toks := tokenMsgs s.nextId cyc line m.src (some m.src) (if r = .read then min 1 h.ht else h.ht)
            (if r = .read then h.ho && h.ht == 1 else h.ho) data false data
          HomeMoves s u line cyc
            { h with
              ht := if r = .read then h.ht - 1 else 0
              ho := if h.ht = 0 ∨ r = .read ∧ 2 ≤ h.ht then h.ho else false
              hv := if h.ht = 0 ∨ r = .read then h.hv else false
              ver := if last then (h.ver + 1) % 2 ^ 24 else h.ver
              verAt := if last then cyc + 1 else h.verAt
              ckey := if 48 ≤ m.src then some .opened else h.ckey
              hold := if h.ht = 0 then h.hold else (m.src :: h.hold).dedup }
            (rest ++ toks ++ forwards (s.nextId + toks.length) cyc line m.src r others)))) ∧
    (m.dst.isSome = true → h.win = true →
      (m.kind = .forward .read → exec (.forwardedRead m.id) s = .next { s with msgs := rest }) ∧
      (m.kind = .forward .write → exec (.forwardedWrite m.id) s = .next { s with msgs := rest })) ∧
    (∀ a : Nat, m.dst = some a → h.win = false → (s.gath a).sleep ≠ .retain → (a = 48 → hostCaches s line = false) →
      let b := heldOf s a line
      let plain : Prop := b.req = none ∨ b.valid = true ∨ b.recorded.isSome = true
      let gives (i : Instr) (n : Nat) (own : Bool) : Prop := ∃ u : State, exec i s = .next u ∧ u.mem = s.mem ∧
        heldOf u a line = { b with tok := b.tok - n, own := b.own && !own, valid := b.valid && b.tok - n != 0, dirty := b.dirty && !own } ∧
        u.msgs = rest ++ tokenMsgs s.nextId s.cycle line a (some m.src) n own b.valid (b.dirty && own) (b.valid && !(heldOf u m.src line).valid) ∧
        u.quires = (if n = 0 then s.quires else s.quires.map fun q =>
          if gathOf q.slot.core = a ∧ ∃ r, q.region = some r ∧ line ∈ r.reads ++ r.writes then strikeRegion q 2 else q) ∧
        ∀ x l, (x, l) ≠ (a, line) → heldOf u x l = heldOf s x l
      (m.kind = .forward .read → m.src ≠ a → a ≠ 48 →
        (b.own = false → exec (.forwardedRead m.id) s = .next { s with msgs := rest }) ∧
        (b.own = true → 2 ≤ b.tok → gives (.forwardedRead m.id) 1 false) ∧
        (b.own = true → b.tok = 1 → gives (.forwardedRead m.id) 1 true)) ∧
      (m.kind = .forward .read → m.src ≠ a → a = 48 → ∃ u : State, exec (.forwardedRead m.id) s = .next u ∧ u.mem = s.mem ∧
        (heldOf u 48 line).tok = 0 ∧
        let n := if b.own then min 1 b.tok else 0
        let last := b.own && b.tok == 1
        let toks := tokenMsgs s.nextId s.cycle line 48 (some m.src) n last b.valid (b.dirty && last) (b.valid && !(heldOf s m.src line).valid)
        u.msgs = rest ++ toks ++ tokenMsgs (s.nextId + toks.length) s.cycle line 48 none (b.tok - n) (b.own && !last) (b.own && !last)
          (b.dirty && !last) false) ∧
      (m.kind = .forward .write → m.src ≠ a →
        (plain → (b.tok = 0 → exec (.forwardedWrite m.id) s = .next { s with msgs := rest }) ∧
          (b.tok ≠ 0 → gives (.forwardedWrite m.id) b.tok b.own)) ∧
        (¬ plain → b.tok = 0 → ∃ u : State, exec (.forwardedWrite m.id) s = .next u ∧ u = { s with msgs := rest, held := u.held } ∧
          heldOf u a line = { b with recorded := some (some m.src), bound := loadsOn s a line }))) ∧
    (m.dst = some 48 → h.win = false → hostCaches s line = true →
      (m.kind = .forward .read → exec (.forwardedRead m.id) s = .next s) ∧ (m.kind = .forward .write → exec (.forwardedWrite m.id) s = .next s)) ∧
    ∀ (tok : Nat) (own dat dirty fill : Bool) (i : Instr), m.kind = .tokens tok own dat dirty fill →
      i = (if fill then Instr.fillArrival m.id else .tokenArrival m.id) →
      (m.dst = none → ∃ u : State, exec i s = .next u ∧
        ((∀ p ∈ s.persists, p.line = line → p.active = false) → u.msgs = rest) ∧
        (u.msgs = rest ∨ ∃ p ∈ s.persists, p.line = line ∧ p.active = true ∧
          u.msgs = rest ++ [{ id := s.nextId, line := line, src := p.agent, dst := none, kind := .activate p.req, sent := s.cycle, told := [] }]) ∧
        u = { s with msgs := u.msgs, nextId := u.nextId, homes := u.homes, stale := if own && dirty then s.stale.filter (fun c => lineOf c.1 != line) else s.stale
                     bridges := if isHost (line * 128) then u.bridges else s.bridges } ∧
        homeOf u line = { h with ht := h.ht + tok, ho := h.ho || own, hv := h.hv || (own && dat)
                                 hold := if (heldOf s m.src line).tok = 0 then h.hold.filter (· != m.src) else h.hold }) ∧
      ∀ a : Nat, m.dst = some a → (heldOf s a line).recorded = none → (∀ p ∈ s.persists, p.line = line → p.active = false ∨ p.agent = a) →
        (48 ≤ a ∨ (cacheCrowd s a line).length < cacheWays s a) → (heldOf s a line).pers = none →
        (a < 48 → (s.gath a).sleep ≠ .flushed) → (a = 49 → s.peerTab.length < 65536) →
        let b := heldOf s a line
        let b' : Held := { b with tok := b.tok + tok, own := b.own || own, valid := b.valid || dat, dirty := b.dirty || (own && dirty) }
        let used (u : State) : Prop :=
          u = { s with
                msgs := rest, held := u.held, gaths := u.gaths
                peerTab := if a = 49 then u.peerTab else s.peerTab, peerAsks := if a = 49 then u.peerAsks else s.peerAsks
                peerOwns := if a = 49 then u.peerOwns else s.peerOwns } ∧
          ∀ g, { u.gath g with lru := [] } = { s.gath g with lru := [] }
        (b.req = none → ∃ u : State, exec i s = .next u ∧ used u ∧ heldOf u a line = b') ∧
        ∀ (r : Req) (c : Nat), b.req = some (r, c) → (∀ q ∈ s.quires, q.log = []) → (∀ p ∈ s.pending, p.gath ≠ a) →
          (b'.valid = true ∧ b'.tok ≠ 0 ∧ (r = .write → b'.tok = 64)) →
          ∃ u : State, exec i s = .next u ∧ used u ∧ heldOf u a line = { b' with req := none, fails := 0, recorded := none, bound := [] }

/-- Requests that go unanswered, and persistent requests (R79, R80, R81): a request silent for 1,024 cycles is sent again, the
fourth time as a persistent one; the home's table activates one request of a line at a time, in the pointer's order, and tells
the agents, which send their tokens, but for those of a window line, whose requester gives up (R76); a deactivation removes it and activates
the next; an agent's registrations and deactivations of a line are taken in order, which is the model's inference (log 110); an agent silent for 4,096 cycles, 6,096 when it sleeps,
is reported to the management master and the request keeps waiting. -/
def Obligations.PersistentRequestsEndStarvation : Prop :=
  (∀ (s : State) (agent line c : Nat) (r : Req),
    let h := heldOf s agent line
    h.req = some (r, c) → h.pers = none → c + 1024 ≤ s.cycle →
      ∃ u : State, exec (.transientRequestTimeout agent line) s = .next u ∧
        u = { s with held := u.held, nextId := s.nextId + 1
                     msgs := s.msgs ++ [{ id := s.nextId, line := line, src := agent, dst := none, sent := s.cycle, told := []
                                          kind := if 4 ≤ h.fails + 1 ∧ persistCount s agent < 4 then .persist r else .request r }] } ∧
        heldOf u agent line =
          { h with fails := h.fails + 1, fourth := if h.fails = 3 then s.cycle else h.fourth, req := some (r, s.cycle)
                   pers := if 4 ≤ h.fails + 1 ∧ persistCount s agent < 4 then some r else none }) ∧
  (∀ (s : State) (m : Msg), s.msg m.id = some m →
    let rest := s.msgs.filter fun x => x.id != m.id
    let pointed (u : State) (n : Nat) : Prop := ptrOf u m.line = n % 50 ∧ ∀ l, l ≠ m.line → ptrOf u l = ptrOf s l
    let behind : Prop := ∃ x ∈ s.msgs, x.id < m.id ∧ x.line = m.line ∧ x.src = m.src ∧ (x.kind = .deactivate ∨ ∃ r, x.kind = .persist r)
    (behind → (∀ r : Req, m.kind = .persist r → exec (.persistentRequestRegister m.id) s = .next s) ∧
      (m.kind = .deactivate → exec (.persistentDeactivation m.id) s = .next s)) ∧
    (∀ r : Req, m.kind = .persist r → ¬ behind →
      ((∃ p ∈ s.persists, p.line = m.line ∧ p.active = true) →
        exec (.persistentRequestRegister m.id) s = .next
          { s with msgs := rest, persists := s.persists ++ [{ agent := m.src, line := m.line, req := r, active := false }] }) ∧
      ((∀ p ∈ s.persists, p.line ≠ m.line) → ∃ u : State, exec (.persistentRequestRegister m.id) s = .next u ∧
        u.persists = s.persists ++ [{ agent := m.src, line := m.line, req := r, active := true }] ∧
        pointed u (m.src + 1) ∧
        HomeMoves { s with persists := u.persists, ptrs := u.ptrs } u m.line s.cycle { homeOf s m.line with pra := true }
          (rest ++ [{ id := s.nextId, line := m.line, src := m.src, dst := none, kind := .activate r, sent := s.cycle, told := [] }]))) ∧
    (m.kind = .activate .write → isHost (m.line * 128) = false → (∀ e ∈ s.hostLines, e.1 ≠ m.line) → (homeOf s m.line).win = false → m.src < 50 →
      (m.src < 48 → (s.gath m.src).sleep ≠ .flushed) →
      (48 ≤ m.src → (homeOf s m.line).ckey = none ∨ (homeOf s m.line).ckey = some .opened) →
      ∃ u : State, exec (.persistentBroadcast m.id) s = .next u ∧ u.mem = s.mem ∧ (homeOf u m.line).ht = 0 ∧
        (∀ a, a < 50 → a ≠ m.src → (heldOf u a m.line).tok = 0 ∧
          ((heldOf s a m.line).tok ≠ 0 → ∃ x ∈ u.msgs, x.line = m.line ∧ x.dst = some m.src ∧ ∃ data dirty fill,
            x.kind = .tokens (heldOf s a m.line).tok (heldOf s a m.line).own data dirty fill)) ∧
        ((homeOf s m.line).ht ≠ 0 → ∃ x ∈ u.msgs, x.line = m.line ∧ x.dst = some m.src ∧ ∃ data dirty fill,
          x.kind = .tokens (homeOf s m.line).ht (homeOf s m.line).ho data dirty fill)) ∧
    (∀ r : Req, m.kind = .activate r → isHost (m.line * 128) = false → (∀ e ∈ s.hostLines, e.1 ≠ m.line) → (homeOf s m.line).win = true →
      ∃ u : State, exec (.persistentBroadcast m.id) s = .next u ∧ u.mem = s.mem ∧ u.homes = s.homes ∧
        heldOf u m.src m.line = { heldOf s m.src m.line with req := none, pers := none }) ∧
    (m.kind = .deactivate → ¬ behind → (∀ h ∈ s.held, h.agent = m.src → h.fails < 4) →
      let left := s.persists.filter fun p => !(p.agent == m.src && p.line == m.line)
      let rest' := rest.filter fun x => !(x.line == m.line && x.src == m.src && match x.kind with | .activate _ => true | _ => false)
      ((∀ p ∈ left, p.line ≠ m.line) → ∃ u : State, exec (.persistentDeactivation m.id) s = .next u ∧ u.persists = left ∧
        HomeMoves { s with persists := left } u m.line s.cycle { homeOf s m.line with pra := false } rest') ∧
      ∀ p : Persist, left.filter (fun x => x.line == m.line) = [p] → p.active = false → ∃ u : State,
        exec (.persistentDeactivation m.id) s = .next u ∧
          u.persists = left.map (fun x => if x.line = m.line ∧ x.agent = p.agent then { x with active := true } else x) ∧
          pointed u (p.agent + 1) ∧
          HomeMoves { s with persists := u.persists, ptrs := u.ptrs } u m.line s.cycle { homeOf s m.line with pra := true }
            (rest' ++ [{ id := s.nextId, line := m.line, src := p.agent, dst := none, kind := .activate p.req, sent := s.cycle, told := [] }]))) ∧
  ∀ (s : State) (agent line : Nat),
    let limit := if agent < 48 ∧ (s.gath agent).sleep ≠ .awake then 6096 else 4096
    let late (m : Msg) : Prop := m.line = line ∧ agent ∉ m.told ∧ m.sent + limit ≤ s.cycle ∧
      (m.kind = .recall ∧ m.dst = some agent ∨ ∃ r, m.kind = .forward r ∧ m.dst = some agent ∨ m.kind = .activate r ∧ agent ≠ m.src ∧ agent < 50)
    ((∀ m ∈ s.msgs, ¬ late m) → exec (.homeResponseTimeout agent line) s = .next s) ∧
    ((∃ m ∈ s.msgs, late m) → (s.master 0).errSize < 6 → 0 < s.masters.length →
      ∃ u : State, exec (.homeResponseTimeout agent line) s = .next u ∧ u = { s with msgs := u.msgs, masters := u.masters } ∧
        u.master 0 = { s.master 0 with errFull := true, errLost := min ((s.master 0).errLost + 1) 65535 } ∧
        u.msgs.length = s.msgs.length ∧ ∀ (k : Nat) (m : Msg), s.msgs[k]? = some m →
          (late m → u.msgs[k]? = some { m with told := agent :: m.told }) ∧ (¬ late m → u.msgs[k]? = some m))

/-- Accesses performed at a home (R14, R67, R69, R89, R91, R92, R93, R106, R135): a lease request grants a copy of the line's bytes with the
home's version, ending 65,536 cycles later; a renewal of a current version moves the end on, of an old one grants new bytes; a
recall drops every lease copy of the line, waking every gathering asleep in RETAIN where copies may be out; an NC load or store of a
quire's log, a route 3 write and a posted write take effect there, every token of their lines coming home, but an NC load takes what its
gathering has pending, and an NC store to the host or a peer leaves as a posted write; a
flushing read performs the posted writes before it. -/
def Obligations.HomesServeLeasesAndWrites : Prop :=
  (∀ (s : State) (w : LeaseAt) (line : Nat) (k : Key), winFind s (line * 128) = none → (homeOf s line).ckey = some k → 1 ≤ (homeOf s line).ht →
    (∀ g, w = .tile g → 48 ≤ g ∨ (cacheCrowd s g line).length < cacheWays s g) →
    let fresh : Lease :=
      { at_ := w, line := line, key := k, kfield := keyField k, ver := (homeOf s line).ver, exp := s.cycle + 65536, expired := false
        data := physReadN s k (line * 128) 128 }
    let goes (i : Instr) (le : Lease) : Prop := ∃ u : State, exec i s = .next u ∧
      u = { s with leases := u.leases, homes := u.homes, gaths := u.gaths, bridges := u.bridges } ∧
      leaseOf u w line k = some le ∧ homeOf u line = { homeOf s line with lexp := max (homeOf s line).lexp (s.cycle + 65536) } ∧
      (∀ l, l ≠ line → homeOf u l = homeOf s l) ∧ (∀ g, { u.gath g with lru := [] } = { s.gath g with lru := [] }) ∧
      ∀ l, isHost (line * 128) = false ∨ l ≠ line → bridgeOf u l = bridgeOf s l
    goes (.leaseRequest w line k) fresh ∧
    ∀ le : Lease, s.leases.filter (fun l => l.at_ == w && l.line == line) = [le] → le.key = k →
      goes (.leaseRenewal w line)
        (if s.cycle < le.exp + 16711680 ∧ le.ver = (homeOf s line).ver then { le with exp := s.cycle + 65536, expired := false } else fresh)) ∧
  (∀ (s : State) (line : Nat), ∃ u : State, exec (.leaseRecall line) s = .next u ∧
    u = { s with leases := s.leases.filter (fun l => l.line != line), homes := u.homes, gaths := u.gaths } ∧
    homeOf u line = { homeOf s line with lexp := 0 } ∧ (∀ l, l ≠ line → homeOf u l = homeOf s l) ∧
    ∀ g, u.gath g = if (s.gath g).sleep = .retain ∧ ((∃ l ∈ s.leases, l.line = line) ∨ s.cycle < (homeOf s line).lexp) then
                      { s.gath g with sleep := .awake }
                    else s.gath g) ∧
  (∀ (s : State) (q : Quire) (e : LogEntry) (a : Acc), s.quire q.slot = some q → q.log = [e] → e.acc = [a] → a.nc = true → a.st = .waiting →
    a.piece ≤ 1 → q.varp = [] → winFind s a.loc = none → keyTag s (a.loc / 16) = a.key → a.loc % 16 + a.len ≤ 16 → memWf s.mem = true →
    let q0 : Quire := { q with log := [], ctr := match e.ctr with
                                              | some k => q.ctr.modify k (· - 1)
                                              | none => q.ctr }
    (e.op = 0x102 → isDev a.loc = true → q.region = none →
      ∃ u : State, exec (.ncAccessAtHome q.slot e.seq a.t) s = .next u ∧ AtTheHome s u ∧ u.quire q.slot = some q0 ∧
        BytesPut s.mem u.mem a.loc a.len a.data ∧ ∀ h ∈ u.held, h.line = lineOf a.loc → h.tok = 0) ∧
    (e.op = 0x102 → isDev a.loc = false → (∀ p ∈ s.pending, p.gath = gathOf q.slot.core → p.loc < a.loc ∨ a.loc + a.len ≤ p.loc) → exec (.ncAccessAtHome q.slot e.seq a.t) s = .next
      { s with
        nextId := s.nextId + 1, quires := s.quires.map fun x => if x.slot = q.slot then sweepLog { x with log := logPut e.seq a (fun y => { y with st := .done }) x.log } else x
        msgs := s.msgs ++ [{ id := s.nextId, line := lineOf a.loc, src := gathOf q.slot.core, dst := none, sent := s.cycle, told := []
                             kind := .posted ((List.range a.len).map fun i => (a.loc + i, BitVec.ofNat 8 (a.data / 256 ^ i))) a.key
                               { ctx := q.ctx, route := 0, who := some (q.folio, q.qid, accThreads e a), add := none } }] }) ∧
    (e.op = 0x100 → (e.uni = false → ∃ th, q.th[a.t]? = some th ∧ th.x = false) → NothingPosted s →
      (∀ p ∈ s.pending, p.gath = gathOf q.slot.core → lineOf p.loc = lineOf a.loc → p.key = a.key ∧ a.inTry = false) →
      ∃ (u : State) (q' : Quire), exec (.ncAccessAtHome q.slot e.seq a.t) s = .next u ∧ u.mem = s.mem ∧ u.keyTags = s.keyTags ∧
        u.quire q.slot = some q' ∧
        let d := e.f.d.toNat + 2 * a.piece
        let n := if e.f.cls.toNat % 8 = 4 then 2 else sizeRegs e.f.cls.toNat
        let own (k : Nat) : Option Byte :=
          if tryAcc q e a then regionByte q (tryThread q e a) (a.loc + k) else pendingByte s (gathOf q.slot.core) a.key (a.loc + k)
        let val := ruleLoad e.f.cls ((List.range a.len).map fun k => (own k).getD (memGet s.mem (a.loc + k)))
        let q1 : Quire := { q0 with region := q'.region }
        (e.uni = false → OnlyVec q1 q' fun t r => if t = a.t ∧ d ≤ r ∧ r < d + n then some (wordAt val (r - d)) else none) ∧
        (e.uni = true → OnlySca q1 q' fun r => if d ≤ r ∧ r < d + n then some (wordAt val (r - d)) else none))) ∧
  (∀ (s : State) (m : Msg) (data : List (Nat × Byte)) (k : Key), s.msg m.id = some m → m.id < s.nextId → CellsPlain s data k → memWf s.mem = true →
    let effect (i : Instr) : Prop := ∃ u : State, exec i s = .next u ∧ AtTheHome s u ∧ CellsWritten s u data ∧ ∀ x ∈ u.msgs, x.id ≠ m.id
    (m.kind = .write3 data k none → effect (.route3WriteAtHome m.id)) ∧
    (∀ y : Poster, m.kind = .posted data k y → y.add = none →
      (∀ x ∈ s.msgs, x.id < m.id → ∀ d' k' y', x.kind = .posted d' k' y' → ∀ c ∈ d', ∀ e ∈ data, c.1 ≠ e.1) → effect (.postedWritePerform m.id))) ∧
  ∀ (s : State) (q : Slot) (m : Msg), (s.quire q).isSome = true → s.msg m.id = some m →
    s.msgs.filter (fun x => match x.kind with | .posted .. => true | _ => false) = [m] →
    exec (.flushReadReturn q) s = exec (.postedWritePerform m.id) s

/-- Lines shared with the host (R97, R98, R99, R101): SNPINV recalls every token and takes the half to I; SNPDATA brings the owner token
home with data, from its holder or its message, and takes the half to S; SNPCUR moves no token; a grant takes the half to S or E; after
a CXL.mem read the host keeps nothing, the halves it read in S with a token at the bridge, or in E with all 64; a write is performed
at the home; a back-invalidation response gives up the host's half, and with the last half the bridge's tokens, to the request that
waits for them or to the home. -/
def Obligations.HostSharesLines : Prop :=
  ∀ (s : State) (line k : Nat),
    (isHost (line * 128) = true → k < 2 →
      let b := bridgeOf s line
      let dirty : Prop := ∃ c ∈ s.stale, lineOf c.1 = line ∧ c.1 % 128 / 64 = 1 - k
      let other (u : State) : Prop :=
        (dirty → half (bridgeOf u line) (1 - k) = if half b (1 - k) = .e then .m else half b (1 - k)) ∧
          (¬ dirty → half (bridgeOf u line) (1 - k) = half b (1 - k))
      (∃ u : State, exec (.snpinv line k) s = .next u ∧ u.mem = s.mem ∧ half (bridgeOf u line) k = .i ∧ other u ∧
        homeOf u line = { homeOf s line with ht := 64, ho := true, hv := true, hold := [] } ∧ ∀ h ∈ u.held, h.line = line → h.tok = 0) ∧
      exec (.snpcur line k) s = .next s ∧
      (half b k ≠ .i →
        (∀ (m : Msg) (n : Nat) (dat dirty fill : Bool), ownerMsg s line = some m → m.kind = .tokens n true dat dirty fill →
          m.dst = none ∨ fill = true → (∀ x ∈ s.held, x.line = line → x.own = false) →
          ∃ u : State, exec (.snpdata line k) s = .next u ∧ u.mem = s.mem ∧ half (bridgeOf u line) k = .s ∧ other u ∧
            (homeOf u line).ht = (homeOf s line).ht + n ∧ (homeOf u line).ho = true ∧ (homeOf u line).hv = true) ∧
        (ownerMsg s line = none → ∀ x : Held, s.held.find? (fun x => x.line == line && x.own) = some x → heldOf s x.agent line = x →
          ∃ u : State, exec (.snpdata line k) s = .next u ∧ u.mem = s.mem ∧ half (bridgeOf u line) k = .s ∧ other u ∧
            heldOf u x.agent line = { x with tok := x.tok - 1, own := false, dirty := false, valid := x.valid && decide (2 ≤ x.tok) } ∧
            (∀ a l, (a, l) ≠ (x.agent, line) → heldOf u a l = heldOf s a l) ∧
            (homeOf u line).ht = (homeOf s line).ht + 1 ∧ (homeOf u line).ho = true ∧ (homeOf u line).hv = true) ∧
        (ownerMsg s line = none → (∀ x ∈ s.held, x.line = line → x.own = false) → ∃ u : State, exec (.snpdata line k) s = .next u ∧
          u = { s with bridges := u.bridges, agenda := u.agenda, msgs := u.msgs, nextId := u.nextId } ∧ half (bridgeOf u line) k = .s ∧
            half (bridgeOf u line) (1 - k) = half b (1 - k))) ∧
      (s.hostCache = true → ∀ x : Bool, ∃ u : State, exec (.hostCacheGrant line k x) s = .next u ∧ u = { s with bridges := u.bridges } ∧
        half (bridgeOf u line) (1 - k) = half b (1 - k) ∧
        half (bridgeOf u line) k = (if x then (if half b k = .m then .m else .e) else if half b k = .i then .s else half b k))) ∧
    (∀ e : Nat × Mesi × Mesi, s.hostLines.find? (fun y => y.1 == line) = some e → k < 2 →
      let left := if k = 0 then e.2.2 else e.2.1
      (left ≠ .i → exec (.bisnpResponse line k) s = .next
        { s with hostLines := (if k = 0 then (e.1, .i, e.2.2) else (e.1, e.2.1, .i)) :: s.hostLines.filter fun y => y.1 != line }) ∧
      (left = .i → (if k = 0 then e.2.1 else e.2.2) ≠ .i → (∀ y ∈ s.hostLines, y.1 = line → y = e) →
        (∀ q ∈ s.quires, gathOf q.slot.core < 48) →
        let gone : State := { s with hostLines := s.hostLines.filter (fun y => y.1 != line) }
        (bridgeAsked s line = true → exec (.bisnpResponse line k) s = .next gone) ∧
        (bridgeAsked s line = false → ∃ u : State, exec (.bisnpResponse line k) s = .next u ∧
          let b := heldOf s 48 line
          u = { gone with
                held := u.held, homes := u.homes, nextId := u.nextId
                msgs := s.msgs ++ tokenMsgs s.nextId s.cycle line 48 none b.tok b.own b.own b.dirty false } ∧
          (heldOf u 48 line).tok = 0 ∧ (homeOf u line).ht = (homeOf s line).ht))) ∧
    ∀ (pa n : Nat) (bytes : List Byte),
      (s.hostMem = false ∨ s.installed < pa + n → exec (.cxlMemRead pa n) s = .next s) ∧
      (s.hostMem = false ∨ s.installed < pa + bytes.length → exec (.cxlMemWrite pa bytes) s = .next s) ∧
      (s.hostMem = true → 0 < n → pa + n ≤ s.installed → lineOf pa = line → lineOf (pa + n - 1) = line →
        (homeOf s line).ckey = some .opened → 1 ≤ (homeOf s line).ht → winFind s (line * 128) = none →
        ∃ u : State, exec (.cxlMemRead pa n) s = .next u ∧ u.mem = s.mem ∧ u.fresh = s.fresh + 2 ∧
          let keeps (x : Mesi) : Prop := ∀ k, k < 2 →
            let y := half (hostHalves s line) k
            half (hostHalves u line) k =
              if line * 128 + 64 * k < pa + n ∧ pa < line * 128 + 64 * k + 64 then (if y = .e ∨ y = .m then y else x) else y
          ((u = { s with fresh := s.fresh + 2, homes := u.homes } ∧ ∀ l, homeOf u l = homeOf s l) ∨
            (u = { s with fresh := s.fresh + 2, homes := u.homes, held := u.held, hostLines := u.hostLines, cycle := u.cycle } ∧
              (heldOf u 48 line).tok ≠ 0 ∧ (homeOf u line).ht + (heldOf u 48 line).tok = (homeOf s line).ht + (heldOf s 48 line).tok ∧
              (∀ a l, (a, l) ≠ (48, line) → heldOf u a l = heldOf s a l) ∧ keeps .s) ∨
            ((heldOf u 48 line).tok = 64 ∧ (heldOf u 48 line).valid = true ∧ keeps .e))) ∧
      (s.hostMem = true → OpenBytes s pa bytes.length → memWf s.mem = true →
        ∃ u : State, exec (.cxlMemWrite pa bytes) s = .next u ∧ OpenWrite s u pa bytes)

/-- Lines shared with peers (R102, R103, R104, R485): an importer's access meets the first entry of the export table that admits it; without
one, and a write without W, no event follows; a served write changes its bytes, at the home or in the importer's copy, which then
alone holds tokens; a served read gives the importer a token, or asks for one or all as agent 49 (which, the rule leaves open, log 25);
an importer that answers nothing for 262,144 cycles loses what it holds, with dirty data if the owner token is part of it, and the
loss is recorded with the owner of a context that it affects, or with the management master where there is none. -/
def Sys2Proof.Machine.PeersShareExportedLines : Prop :=
  ∀ (s : State) (imp off : Nat),
    ((∀ e, ¬ FirstAdmits s imp off e) → ∀ w n, exec (.peerAccessAtExporter imp off w n) s = .next s) ∧
    (∀ e : Nat, FirstAdmits s imp off e →
      let pa := bitsOf e 115 91 * 2 ^ 25 + (off - bitsOf e 65 41 * 2 ^ 25)
      let line := lineOf pa
      (∀ (bytes : List Byte) (n : Nat),
        (e.testBit 1 = false → exec (.peerAccessAtExporter imp off (some bytes) n) s = .next s) ∧
        (e.testBit 1 = true → OpenBytes s pa bytes.length → memWf s.mem = true → (∀ h ∈ s.held, h.agent = 49 → h.tok < 64) →
          ∃ u : State, exec (.peerAccessAtExporter imp off (some bytes) n) s = .next u ∧
            (∀ l, memGet u.mem l = if pa ≤ l ∧ l < pa + bytes.length then bytes.getD (l - pa) 0 else memGet s.mem l) ∧
            u.keyTags = s.keyTags ∧
            ∀ h ∈ u.held, (∃ i, i < bytes.length ∧ h.line = lineOf (pa + i)) → h.agent ≠ 49 → h.tok = 0)) ∧
      ∀ n : Nat, 0 < n → pa + n ≤ s.installed → lineOf (pa + n - 1) = line → winFind s (line * 128) = none →
        let mine := s.peerTab.find? fun y => y.1 == line && y.2.1 == imp
        (∀ y, mine = some y → y.2.2 ≠ 0 → exec (.peerAccessAtExporter imp off none n) s = .next s) ∧
        (mine = none → (homeOf s line).ckey = some .opened → 2 ≤ (homeOf s line).ht → s.peerTab.length < 65536 → (heldOf s 49 line).req = none →
          ∃ u : State, exec (.peerAccessAtExporter imp off none n) s = .next u ∧
            ((u = { s with fresh := s.fresh + 2, homes := u.homes, held := u.held, peerTab := (line, imp, 1) :: s.peerTab } ∧
                (homeOf u line).ht = (homeOf s line).ht - 1 ∧
                heldOf u 49 line = { heldOf s 49 line with tok := (heldOf s 49 line).tok + 1, valid := true }) ∨
              ∃ r : Req, u = { s with
                                fresh := s.fresh + 2, held := u.held, nextId := s.nextId + 1
                                peerAsks := (line, imp) :: s.peerAsks.filter fun y => y.1 != line
                                msgs := s.msgs ++ [{ id := s.nextId, line := line, src := 49, dst := none, kind := .request r, sent := s.cycle
                                                     told := [] }] } ∧
                heldOf u 49 line = { heldOf s 49 line with req := some (r, s.cycle) }))) ∧
    let late (line : Nat) : Prop := ∃ m ∈ s.msgs, m.line = line ∧ m.sent + 262144 ≤ s.cycle ∧
      (m.kind = .recall ∧ m.dst = some 49 ∨ ∃ r, m.kind = .forward r ∧ m.dst = some 49 ∨ m.kind = .activate r ∧ m.src ≠ 49)
    ((∀ e ∈ s.peerTab, e.2.1 = imp → ¬ late e.1) → exec (.peerRecallTimeout imp) s = .next s) ∧
    ∀ line n : Nat, s.peerTab.filter (fun e => e.2.1 == imp) = [(line, imp, n)] → late line → n ≤ (heldOf s 49 line).tok →
      (∀ i, (s.master i).errSize < 6) → 0 < s.masters.length →
      ∃ u : State, exec (.peerRecallTimeout imp) s = .next u ∧
        u.mem = (if (heldOf s 49 line).own = true ∧ (n = (heldOf s 49 line).tok ∨ ownerImp s line = some imp) ∧
                    (heldOf s 49 line).dirty = true then
                   memSetAll s.mem (s.stale.filter fun c => lineOf c.1 == line)
                 else s.mem) ∧
        u.peerTab = s.peerTab.filter (fun e => e.2.1 != imp) ∧
        (heldOf u 49 line).tok = (heldOf s 49 line).tok - n ∧ (homeOf u line).ht = (homeOf s line).ht + n ∧
        ((∀ q ∈ s.quires, (∀ e ∈ q.log, ∀ a ∈ e.acc, lineOf a.loc ≠ line) ∧ ∀ r, q.region = some r → line ∉ r.reads ++ r.writes) →
          (∀ p ∈ s.pending, lineOf p.loc ≠ line) → (∀ x ∈ s.msgs, x.line = line → ∀ d k y, x.kind ≠ .posted d k y) →
          u.master 0 = { s.master 0 with errFull := true, errLost := min ((s.master 0).errLost + 1) 65535 }) ∧
        ∀ c : Nat, lineContexts s (fun l => l == line) = [c] → errorMaster s (some c) < s.masters.length →
          u.master (errorMaster s (some c)) =
            { s.master (errorMaster s (some c)) with
              errFull := true, errLost := min ((s.master (errorMaster s (some c))).errLost + 1) 65535 }

/-- The power manager (R95, R96, R489, R490): an idle gathering goes to RETAIN within the retention budget and keeps everything; beyond
the budget it goes to FLUSHED, its tokens home, its TLB and record cache empty; a gathering in RETAIN wakes, one in FLUSHED only
for a placement; at the end of each window the governor adds a throttle cycle above the limit, up to 60, and takes one away
below 95 % of it. -/
def Sys2Proof.Machine.PowerManagerActs : Prop :=
  (∀ (s : State) (g : Nat), g < 48 → g < s.gaths.length → (s.gath g).sleep = .awake → (∀ f ∈ s.folios, g ∉ f.cores.map gathOf) →
    (∀ q ∈ s.quires, gathOf q.slot.core ≠ g) → (s.gath g).bench = [] → (∀ u ∈ s.huddles, u.gath ≠ g) → (∀ v ∈ s.serving, v.huddle.gath ≠ g) →
    (∀ b ∈ (s.gath g).banks, b = .cache ∨ ∃ o, b = .scratch o) →
    (∀ p ∈ s.passes, ∀ t ∈ p.tiles, t.gath ≠ g) →
    let retained := (s.gaths.filter fun x => x.sleep == .retain).length
    (retained < min 48 s.retmax →
      exec (.gatheringSleep g) s = .next { s with gaths := s.gaths.set g { s.gath g with sleep := .retain } }) ∧
    (min 48 s.retmax ≤ retained → (∀ p ∈ s.pending, p.gath ≠ g) →
      ∃ u : State, exec (.gatheringSleep g) s = .next u ∧ u.mem = s.mem ∧
        u.gath g = { s.gath g with sleep := .flushed, tlb := [], recs := [], lru := [] } ∧
        (∀ k, k ≠ g → u.gath k = s.gath k) ∧ (∀ h ∈ u.held, h.agent = g → h.tok = 0 ∧ h.req = none) ∧
        (∀ m ∈ u.msgs, m.dst = some g → ∀ n o d y f, m.kind ≠ .tokens n o d y f) ∧
        ∀ l ∈ u.leases, l.at_ ≠ .tile g ∧ ∀ c, gathOf c = g → l.at_ ≠ .constant c ∧ l.at_ ≠ .sampler c)) ∧
  (∀ (s : State) (g : Nat) (x : Gath), s.gaths[g]? = some x →
    let becomes (z : Sleep) : State := { s with gaths := s.gaths.set g { x with sleep := z } }
    (x.sleep = .awake → exec (.gatheringWake g) s = .next s) ∧
    (x.sleep = .retain → exec (.gatheringWake g) s = .next (becomes .awake)) ∧
    (x.sleep = .flushed → (∃ f ∈ s.folios, g ∈ f.cores.map gathOf) → exec (.gatheringWake g) s = .next (becomes .awake)) ∧
    (x.sleep = .flushed → (∀ f ∈ s.folios, g ∉ f.cores.map gathOf) → exec (.gatheringWake g) s = .next s)) ∧
  ∀ (s : State) (est : Nat),
    let limit := min s.powLimit (match s.product with
      | .f1w => 700
      | .f1m => 1200
      | .die => if Config.dieLimit = 0 then 1200 else min Config.dieLimit 1200)
    exec (.governorWindowEnd est) s = .next
      { s with
        est := est % 65536
        extra := if limit < est then min (s.extra + 1) 60 else if est * 100 < 95 * limit then s.extra - 1 else s.extra }

/-- Peers and the power manager (R95, R96, R102, R103, R104, R485, R489, R490): what an importer's accesses and its silence do at the
exporter, and how gatherings sleep and wake and the governor throttles. -/
def Obligations.PeersAndPowerManagerAct : Prop := PeersShareExportedLines ∧ PowerManagerActs

/-- A copy's end (R122, R123, R147, R149, R152, R166, R389, R392), of one 16-byte unit from generic memory to the scratchpad by a copy without
barrier and ring that is among the sixteen of its gathering which move data: COPY_COMPLETE moves the unit's bytes and no others, and the tag is DONE with status OK; a fault other than
NOT_VALID ends it with status FAULT, moving nothing; one on a page that is not valid pauses it; COPY_FAULT_END lays out the moves of a
copy that has met no fault, and does no more. -/
def Obligations.CopiesEndAtTheirMoment : Prop :=
  ∀ (s : State) (core : Nat) (fo : Folio) (t : Tag) (w0 w1 w2 w3 : Word) (qid nc : Nat), s.folio fo.id = some fo → t.num < 64 → t.core = core →
    fo.tags.find? (fun y => y.core == core && y.num == t.num) = some t → t.st = .running → t.paused = false → t.prog = none →
    t.op = 0x1A0 → t.match_ = true → t.bar = none → t.slices = [{ qid := qid, blocks := [[w0, w1, w2, w3]], nc := nc }] → w3 = 16 → copyMoving s core t = true →
    rcRingSize fo.rcd = 0 → (∀ x ∈ s.folios, x.win = []) → w2.toNat + 16 ≤ scratchBytes fo.rcd →
    let tag := fo.id * 64 + t.num
    let va := w0.toNat + 2 ^ 32 * w1.toNat
    let via : Via := { core := none, gath := some (gathOf core) }
    let tags (x : Tag) (f : Tag → Tag) : Tag := if x.core = core ∧ x.num = t.num then f x else x
    let ended (x : Nat) (y : Tag) : Tag :=
      { y with st := .done, lstat := x, slices := [], started := none, paused := false, match_ := true, prog := none, rows := [] }
    let rc := relCore (some fo) core
    let laid : CopyProg :=
      { addr := va % 2 ^ 57, size := 16, wrote := [], lines := [], arrived := []
        left := (List.range 2).map fun k =>
          { src := .mem (va + 8 * k) false, val := none, dst := [(rc, .scr (w2.toNat + 8 * k))], n := 8, add := none } }
    let s0 : State :=
      { s with
        folios := s.folios.map fun x =>
          if x.id = fo.id then { x with tags := x.tags.map fun y => tags y fun z => { z with prog := some laid } } else x }
    (∀ p : Page, (tlbLookup s via fo.ctx va).isSome = true → va % 16 = 0 →
      (∀ k, k < 2 → xlate s via fo.ctx (va + 8 * k) .read = (s, .ok { p with loc := p.loc + 8 * k })) →
      exec (.copyFaultEnd core tag) s = .next s0 ∧
      (hasPending s (gathOf core) (lineOf p.loc) = false → NothingPosted s → keyTag s (p.loc / 16) = p.key → p.loc % 16 = 0 → p.nc = false →
        (homeOf s (lineOf p.loc)).ckey = some p.key → (heldOf s (gathOf core) (lineOf p.loc)).tok ≠ 0 →
        (heldOf s (gathOf core) (lineOf p.loc)).valid = true → memWf fo.scr = true →
        ∃ (u : State) (fo' : Folio), exec (.copyComplete core tag) s = .next u ∧ u = { s with folios := u.folios, gaths := u.gaths } ∧
          (∀ g, { u.gath g with lru := [] } = { s.gath g with lru := [] }) ∧ u.folio fo.id = some fo' ∧
          fo' = { fo with scr := fo'.scr, tags := fo.tags.map fun y => tags y (ended 0) } ∧
          ∀ l, memGet fo'.scr l = if w2.toNat ≤ l ∧ l < w2.toNat + 16 then memGet s.mem (p.loc + (l - w2.toNat)) else memGet fo.scr l)) ∧
    ∀ (r : Nat) (i : Instr), i ∈ [Instr.copyComplete core tag, .copyFaultEnd core tag] →
      (r = 0 → xlate s0 via fo.ctx va .read = (s0, .error 0) → ∃ (u : State) (fo' : Folio), exec i s = .next u ∧ u.folio fo.id = some fo' ∧
        fo' = { fo with tags := fo.tags.map fun y => tags y fun z => { z with prog := some laid, paused := true } }) ∧
      (r ≠ 0 → 2 ^ 57 ≤ va ∨ (tlbLookup s via fo.ctx va).isSome = true ∧ va % 16 = 0 →
        (∀ k, k < 2 → xlate s via fo.ctx (va + 8 * k) .read = (s, .error r)) →
        ∃ (u : State) (fo' : Folio), exec i s = .next u ∧ u.folio fo.id = some fo' ∧
          fo' = { fo with tags := fo.tags.map fun y => tags y (ended 1) })

/-- A pass goes on (R418 to R422, R426 to R428, R434, R441, R442, R443): its boundaries lead from stage to stage when the present one
has completed, doing the leases' expiry; the mesh stage leaves its primitives in order; a tile is dealt to a gathering whose
banks begin to drain; rasterisation makes a fragment for each sampled pixel of the tile that a primitive covers, and no other;
in IMMEDIATE mode its last tile is followed by the boundary before fragment shading; a reconstruction or post folio's planes are filled. -/
def Obligations.PassesGoFromStageToStage : Prop :=
  ∀ (s : State) (p : Pass) (n : Node), s.pass p.id = some p → s.node p.node = some n → n.ready.isSome = true → n.failed = none →
    n.requeued = [] → p.fail = none → (s.ctx p.ctx).dead = false →
    let passes (f : Pass → Pass) : List Pass := s.passes.map fun x => if x.id = p.id then f x else x
    let expired : State :=
      { s with
        leases := s.leases.map fun l => if l.kfield = p.ctx ∨ l.kfield = 64 then { l with expired := true } else l
        gaths := s.gaths.map fun g => { g with recs := g.recs.filter fun e => e.ctx != p.ctx } }
    (p.st = .start → p.imm = false →
      exec (.stageBoundary p.id) s = .next { s with passes := passes fun x => { x with st := .mesh } }) ∧
    ((∀ f ∈ s.folios, f.node ≠ p.node) → s.pending = [] → s.msgs = [] →
      (p.st = .mesh → pdMeshEx p.desc ≤ p.nextFid → ∃ (u : State) (p' : Pass), exec (.stageBoundary p.id) s = .next u ∧
        u = { expired with passes := u.passes } ∧ u.pass p.id = some p' ∧
        p' = { p with st := .sample, nextFid := 0, nextTile := 0, prims := p'.prims } ∧ p'.prims.Pairwise (fun a b => a.order ≤ b.order) ∧
        ∀ x, x ∈ p'.prims → ∃ e ∈ p.meshOut, ∃ k w : Nat, (k, w) ∈ e.2.2 ∧ w.testBit 24 = false ∧
          x.order = ((p.meshOut.filter fun y => decide (y.1 < e.1)).map fun y => y.2.2.length).sum + k ∧
          w % 256 < e.2.1.length ∧ w / 256 % 256 < e.2.1.length ∧ w / 65536 % 256 < e.2.1.length ∧
          x.v0 = e.2.1.getD (w % 256) [] ∧ x.v1 = e.2.1.getD (w / 256 % 256) [] ∧ x.v2 = e.2.1.getD (w / 65536 % 256) []) ∧
      ∀ (a b : PassSt), p.st = a →
        (a = .raster ∧ p.imm = true ∧ b = .resolve ∧ tileCount p.desc ≤ p.nextTile ∧ p.quires = [] ∧ p.appends = [] ∧
            (∀ r ∈ s.rays, r.node ≠ p.node) ∨
          tileCount p.desc ≤ p.nextFid ∧ (a = .resolve ∧ b = .recon ∨ a = .recon ∧ b = .post)) →
        exec (.stageBoundary p.id) s = .next
          { expired with passes := passes fun x => { x with st := b, nextFid := 0, nextTile := 0 } }) ∧
    (p.st = .raster → p.imm = false → passTmpl p 2 ≠ 0 → p.nextTile < tileCount p.desc → p.tiles = [] → (∀ x ∈ s.nodes, x.gang = []) →
      (s.gath 0).banks = List.replicate 64 .cache → 0 < s.gaths.length → pdLbanks p.desc ≤ 16 →
      ∃ (u : State) (p' : Pass) (t : Tile), exec (.tileDeal p.id) s = .next u ∧ u = { s with gaths := u.gaths, passes := u.passes } ∧
        u.pass p.id = some p' ∧ p' = { p with nextTile := p.nextTile + 1, tiles := [t] } ∧ t.n = p.nextTile ∧ t.gath = 0 ∧
        t.rastered = false ∧ t.resolved = false ∧ t.pages = [] ∧ (∀ g, g ≠ 0 → u.gath g = s.gath g) ∧
        (u.gath 0).banks = List.replicate (pdLbanks p.desc) (.drain (tileOwner p.id p.nextTile) false) ++
          List.replicate (64 - pdLbanks p.desc) .cache) ∧
    (∀ tile : Nat, p.st = .raster →
      (p.imm = true ∧ tile = p.nextTile ∧ tile < tileCount p.desc ∨
        p.imm = false ∧ (∃ t ∈ p.tiles, t.n = tile ∧ t.rastered = false) ∧
          ∀ g ∈ s.gaths, ∀ x, BankSt.drain (tileOwner p.id tile) x ∉ g.banks) →
      let last : Prop := p.imm = true ∧ tile + 1 = tileCount p.desc
      (last → s.pending = [] ∧ s.msgs = []) →
      ∃ (u : State) (p' : Pass) (new : List Frag), exec (.tileRasterisation p.id tile) s = .next u ∧
        (last → u = { expired with passes := u.passes }) ∧ (¬ last → u = { s with passes := u.passes }) ∧
        u.pass p.id = some p' ∧
        p' = { p with frags := p.frags ++ new, quires := p'.quires, tiles := p'.tiles, nextTile := if p.imm then tile + 1 else p.nextTile } ∧
        (p.imm = false → ∀ t ∈ p'.tiles, t.n = tile → t.rastered = true) ∧
        ∀ f : Frag, f ∈ new ↔ f.tile = tile ∧ f.st = .none ∧ f.retired = false ∧ (f.x, f.y) ∈ p.samples ∧
          f.x / 64 = tile % tilesX p.desc ∧ f.y / 64 = tile / tilesX p.desc ∧
          ∃ x ∈ p.prims, x.order = f.order ∧
            primCovers (pdWm p.desc) (pdHm p.desc) (pdCull p.desc) (pdJx p.desc) (pdJy p.desc) x f.x f.y = true) ∧
    ∀ (f : Folio) (planes : List (Nat × List Byte)) (bs : List Byte) (s1 s2 : State), s.folios = [f] → f.pass = p.id →
      f.st = .draining → (f.stage = .recon ∨ f.stage = .post) → (s.ctx f.ctx).dead = false →
      (∀ g ∈ s.gaths, ∀ x, BankSt.drain f.id x ∉ g.banks) →
      let g := gathOf (f.cores.headD 0)
      rcMapped f.rcd = false → f.win = [] → readStage g f.ctx p.desc f.tile (planeList p.desc (decide (f.stage = .post))) s = (s1, .ok planes) →
      stageReadAll g f.ctx 1 (densityAddrs p.desc f.tile) s1 = (s2, .ok bs) → (∀ b ∈ bs, b.toNat ≤ 5) → s2.folios = [f] →
      exec (.reconstructionFill f.id) s = .next
        { s2 with
          folios := [{ f with st := .filling, scr := (planes ++ [(0x25800, bs)]).foldl (fun (m : Mem) (e : Nat × List Byte) => memSetN m e.1 e.2) f.scr }] }

/-- Engines and the routines they launch (R439, R454, R455, R457, R459, R460, R461, R463, R464): a service takes the huddle's rays off its chain, streams the subtree and
completes its ray as MISS when the ray is invalid or enters no child with an empty stack, as HIT when it holds a hit, and as
ERROR where the subtree cannot be read or is malformed or the ray's node is no node of it; a queued ray, and a merge that has its pair, run in a folio of their template
placed on their own gathering, when it is the one folio the distributor has to place. -/
def Obligations.EnginesServeAndLaunch : Prop :=
  (∀ (s : State) (g c h a : Nat) (r : Ray), LoneRay s g c h a r →
    let ends (st reason : Nat) : Prop := ∃ (u : State) (y : Ray), exec (.traversalService g) s = .next u ∧ u.huddles = [] ∧
      u.ray c h = some y ∧ y.at_ = .complete ∧ bitsOf y.rcd 343 341 = st ∧ (st = 4 → bitsOf y.rcd 839 832 = reason) ∧
      u.rays.length = s.rays.length
    let s0 : State := { s with huddles := [] }
    (∀ (s1 s2 : State) (e : Nat) (bs : List Byte), e ≠ 0 → streamSubtree [] s0 g c a = (s1, .error e) → s1.huddles = [] → s1.rays = s.rays →
      engineRead s1 g c (rayAddr s1 c h) 128 = (s2, .ok bs) → RayWritable s1 s2 g c h r → ends 4 (e % 128)) ∧
    ∀ (s1 s2 : State) (t : Subtree) (bs : List Byte), streamSubtree [] s0 g c a = (s1, .ok t) → RayWritable s0 s1 g c h r →
      engineRead s1 g c (rayAddr s1 c h) 128 = (s2, .ok bs) → RayWritable s0 s2 g c h r →
      (subtreeOk t = false → ends 4 0x40) ∧
      (subtreeOk t = true → r.cancel = false →
        let x := cleanFlags (bytesVal bs)
        let b := t.blocks.getD (ryIdx x) 0
        (rayInvalid x = true → ends 1 0) ∧
        (rayInvalid x = false → reloadOk x = true → ryMode x < 2 → (ryIdx x = 0 ∨ t.nodes ≤ ryIdx x ∨ nodeOk t b = false) → ends 4 0x40) ∧
        (rayInvalid x = false → reloadOk x = true → ryMode x < 2 → 0 < ryIdx x → ryIdx x < t.nodes → nodeOk t b = true → rySp x = 0 →
          (∀ k, k < 6 → childType b k ≠ 0 → (ryMode x = 0 ∨ (ryMask x).testBit k = true) → boxEnter x (childLo b k) (childHi b k) = none) →
          (ryHk x = 0 → ends 1 0) ∧ (ryHk x ≠ 0 → ryFlag x 4 = false → ends 0 0)))) ∧
  (∀ (s s1 s2 : State) (g : Nat) (r : Ray) (b0 b1 : List Byte), r.wpend = false → (s.ctx r.ctx).dead = false → (s.ctx r.ctx).tgEn = true → r.gath = g →
    s.rays.filter (fun x => x.at_ == .routineQ) = [r] → s.ray r.ctx r.handle = some r →
    engineRead s g r.ctx r.rout 64 = (s1, .ok b0) → engineRead s1 g r.ctx (r.rout + 64) 64 = (s2, .ok b1) →
    EmptyGathering s2 g r.ctx → s2.rays = s.rays → s2.passes = [] →
    (∃ u, agentRead s2 { core := none, gath := some g } r.ctx r.rout 64 = (u, .ok b0)) →
    (∃ u, agentRead s2 { core := none, gath := some g } r.ctx (r.rout + 64) 64 = (u, .ok b1)) →
    let rc := setField (setField (setField (setField (bytesVal (b0 ++ b1)) 159 128 1) 175 160 1) 191 176 1) 208 192 1
    routineOk (s2.ctx r.ctx).tgHsize (s2.ctx r.ctx).tgQsize rc = true → rcDet rc = false →
    ∃ (u : State) (f : Folio), exec (.routineFolioLaunch g) s = .next u ∧ u.folios = [f] ∧ u.mem = s2.mem ∧ u.quires = s2.quires ∧
      f.stage = .routine ∧ f.rcd = rc ∧ f.ctx = r.ctx ∧ f.node = r.node ∧ f.cores = [4 * g] ∧ f.st = .draining ∧
      f.start = [[r.handle, r.skind, r.ct, r.cbary, r.cprim, rayAddr s2 r.ctx r.handle, r.user]
        ++ [bitsOf r.rcd 340 336, bitsOf r.rcd 927 896, bitsOf r.rcd 959 928, bit r.anyhit, r.node, r.tile]] ∧
      f.tile = r.tile ∧ f.pass = ((s2.node r.node).bind (·.pass)).getD 0 ∧
      u.ray r.ctx r.handle = some { r with at_ := .inRoutine }) ∧
  ∀ (s : State) (g : Nat) (p : Pass) (a : Append) (n : Node) (near far : Nat), EmptyGathering s g p.ctx → s.passes = [p] →
    (∀ x ∈ s.rays, x.at_ ≠ .routineQ) → s.node p.node = some n → p.appends.filter (fun x => x.merging && x.result.isNone) = [a] → a.gath = g → a.pair = some (near, far) →
    placeFail (passTmpl p 5) false = none → rcDet (passTmpl p 5) = false → rcFcores (passTmpl p 5) = 0 → rcQw (passTmpl p 5) = 0 →
    rcFthreads (passTmpl p 5) = 16 → rcTags (passTmpl p 5) ≤ 4 → 16 * regGranule (rcRegs (passTmpl p 5)) ≤ 4096 →
    ∃ (u : State) (f : Folio), exec (.mergeRoutineLaunch p.id) s = .next u ∧ u.folios = [f] ∧ u.mem = s.mem ∧ u.quires = s.quires ∧
      u.passes = s.passes ∧ f.stage = .merge ∧ f.rcd = passTmpl p 5 ∧ f.pass = p.id ∧ f.cores = [4 * g] ∧ f.st = .draining ∧
      f.recAddr = n.addr ∧ f.recSlot = n.slot ∧
      f.start = [a.id :: ((List.range 4).map fun k => near / 2 ^ (32 * k) % 2 ^ 32) ++ (List.range 4).map fun k => far / 2 ^ (32 * k) % 2 ^ 32]

/-- Decoding and encoding agree (R242, R248, R260, R261). A well-formed word's encoding decodes to it, with every operand at every
value; and a word that decodes is the encoding of the well-formed instruction it decodes to. -/
def Obligations.DecodeAndEncodeAgree : Prop :=
  (∀ i : Instr, IsWord i → i.wf = true → decode (encode i) = .ok i) ∧
  ∀ (w : DWord) (i : Instr), decode w = .ok i → IsWord i ∧ i.wf = true ∧ encode i = w

/-- Words that the manual writes out decode to the instructions it names (R242, R245, R248, R264, R286, R293, R301, R311, R324,
R348, R378, R386), and unassigned opcodes (R260, R261) to none. -/
def Obligations.WrittenWordsDecode : Prop :=
  decode 0x003C004010203001 = .ok (.bilv ⟨false, 0, 0, false⟩ ⟨4, 1, 2, 3, false, false, false, false, 0, false, 1⟩) ∧
  decode 0x101E006040500000 = .ok (.xorBits ⟨false, 4, 0, false⟩ ⟨6, 4, 5, 0, false, false, false, false, 0, false, 0⟩) ∧
  decode 0x8030007060000000 = .ok (.clz ⟨true, 0, 0, false⟩ ⟨7, 6, 0, 0, false, false, false, false, 0, false, 0⟩) ∧
  decode 0x0882008020300000 = .ok (.fmul ⟨false, 2, 0, false⟩ ⟨8, 2, 3, 0, false, false, false, false, 0, false, 0⟩) ∧
  decode 0x1880609080400000 = .ok (.fadd ⟨false, 6, 3, false⟩ ⟨9, 8, 4, 0, false, false, false, false, 0, false, 0⟩) ∧
  decode 0x1934014082600000 = .ok (.cvt4 ⟨false, 6, 0, false⟩ ⟨20, 8, 38, 0, false, false, false, false, 0, false, 0⟩) ∧
  decode 0xC0000C0D0B004870 = .ok (.pformWord true 0 ⟨.iadd, 0, false, 12, 13, false⟩ ⟨.fmul, 0, false, 9, 14, false⟩) ∧
  decode 0x5950002C0A800968 = .ok (.pformWord false 6 ⟨.fadd, 0, false, 0, 44, false⟩ ⟨.fadd, 0, false, 1, 45, false⟩) ∧
  decode 0x105A00408140000F = .ok (.icmpI ⟨false, 4, 0, false⟩ ⟨4, 8, false, false, 0x14, 15⟩) ∧
  decode 0x01A4009140300020 = .ok (.shflI ⟨false, 0, 0, false⟩ ⟨9, 20, false, false, 3, 32⟩) ∧
  decode 0x01A200D010800000 = .ok (.shfl ⟨false, 0, 0, false⟩ ⟨13, 1, 8, 0, false, false, false, false, 0, false, 0⟩) ∧
  decode 0x018C000000008000 = .ok (.meet ⟨false, 0, 0, false⟩ ⟨0, 8, 0⟩) ∧
  decode 0x818E200000004000 = .ok (.brk ⟨true, 0, 1, false⟩ ⟨0, 4, 0⟩) ∧
  decode 0x8180400FFFFFC000 = .ok (.bra ⟨true, 0, 2, false⟩ ⟨0, -4, 0⟩) ∧
  decode 0x01D4001000000000 = .ok (.movs ⟨false, 0, 0, false⟩ ⟨1, 0, 0, 0, false, false, false, false, 0, false, 0⟩) ∧
  decode 0x81C2000000000004 = .ok (.commit ⟨true, 0, 0, false⟩ ⟨0, 0, 0, 0, false, false, false, false, 0, false, 4⟩) ∧
  decode 0x0280006020414060 = .ok (.atom ⟨false, 0, 0, false⟩ ⟨6, 2, 4, 20, false, false, false, false, 1, true, 0⟩) ∧
  decode 0x860200E080006962 = .ok (.ldAcq ⟨true, 1, 0, false⟩ ⟨14, 8, 0, 6, true, false, false, true, 1, true, 2⟩) ∧
  decode 0x8292000000000020 = .ok (.fpop ⟨true, 0, 0, false⟩ ⟨0, 0, 0, 0, false, false, false, false, 0, true, 0⟩) ∧
  decode 0x0300410000208420 = .ok (.mmaN8Sp ⟨false, 0, 2, false⟩ ⟨16, 0, 2, 8, false, true, false, false, 0, true, 0⟩) ∧
  decode 0x070A008000809B61 = .ok (.mmaN16SpAcc ⟨false, 1, 0, false⟩ ⟨8, 0, 8, 9, true, false, true, true, 1, true, 1⟩) ∧
  decode 0x03400010408000A0 = .ok (.cpy ⟨false, 0, 0, false⟩ ⟨1, 4, 8, false, 0, false, 2, true, 0⟩) ∧
  decode 0x0348000101981823 = .ok (.cpym ⟨false, 0, 0, false⟩ ⟨0, 16, 25, true, 1, true, 0, true, 3⟩) ∧
  decode 0x038400C000400021 = .ok (.lappend ⟨false, 0, 0, false⟩ ⟨12, 0, 4, 0, false, false, false, false, 0, true, 1⟩) ∧
  decode 0x83A0014000800460 = .ok (.trace ⟨true, 0, 0, false⟩ ⟨20, 0, 8, 0, false, true, false, false, 1, true, 0⟩) ∧
  decode 0x0BA4015140000000 = .ok (.twait ⟨false, 2, 0, false⟩ ⟨21, 20, 0, 0, false, false, false, false, 0, false, 0⟩) ∧
  decode 0x83A80181400000A0 = .ok (.thit ⟨true, 0, 0, false⟩ ⟨24, 20, 0, 0, false, false, false, false, 2, true, 0⟩) ∧
  decode 0x83AA001030000060 = .ok (.ireport ⟨true, 0, 0, false⟩ ⟨1, 3, 0, 0, false, false, false, false, 1, true, 0⟩) ∧
  ∀ op : Nat, op ∈ [0x022, 0x057, 0x061, 0x0CD, 0x105, 0x1AA, 0x1DB, 0x1FF] →
    decode (BitVec.ofNat 64 (op * 2 ^ 49)) = .error .illegalOpcode

/-- A step runs the decoded word (R42, R70, R176, R177, R242, R258, R303); the agenda of moves is the model's own (log 3). A step whose next move is an event executes it one cycle on.
A step whose next move is a word of a quire with a running rally fetches the 8 bytes at the rally's PC, decodes them, and
executes the instruction for the threads of the leading set whose guards hold, then moves the rally on; nothing else
is executed. Where the word is fetched, decodes and needs nothing but plain issue, the whole living leading set runs it. After a move
the L2 makes room in its sets (R70), which leaves memory's contents and every register, and the step notes which slots have become ready
(R212); it changes nothing else. -/
def Obligations.StepRunsTheDecodedWord : Prop :=
  (∀ (s : State) (e : Instr) (rest : List Move), s.agenda = .event e :: rest →
    step s = match exec e { s with agenda := rest, cycle := s.cycle + 1 } with
      | .next u => .next (noteReady (fitL2 u))
      | .fault k => .fault k
      | .refused k => .refused k) ∧
  (∀ (s : State) (slot : Slot) (lazy : Bool) (rest : List Move), s.agenda = .word slot lazy :: rest →
    ∃ s1 : State, (issueWord { s with agenda := rest } slot lazy).1 = s1 ∧
      (((issueWord { s with agenda := rest } slot lazy).2 = none ∧ step s = .next (noteReady (fitL2 s1))) ∨
        ∃ (q : Quire) (r : Rally) (s2 : State) (w : Nat) (i : Instr) (cur : Cur),
          s.quire slot = some q ∧ q.rally = some r ∧
          fetchWord { s with agenda := rest } slot q.ctx r.next.toNat = (s2, .ok w) ∧ decode (BitVec.ofNat 64 w) = .ok i ∧
          s1.cur = some cur ∧ cur.slot = slot ∧ cur.pc = r.next ∧ (∀ t ∈ cur.act, t ∈ r.lead) ∧
          step s = match exec i s1 with
            | .next u => .next (noteReady (fitL2 (finishWord u)))
            | .fault e => .fault e
            | .refused e => .refused e)) ∧
  (∀ u : State, AtTheHome u (fitL2 u) ∧ (fitL2 u).mem = u.mem ∧ ((l2Lines u).length ≤ 16 → fitL2 u = u)) ∧
  (∀ u : State, noteReady u = { u with quires := (noteReady u).quires, cores := (noteReady u).cores } ∧
    (noteReady u).quires.map (fun q => { q with ready := none }) = u.quires.map (fun q => { q with ready := none }) ∧
    (noteReady u).cores.map (fun c => { c with oldest := none }) = u.cores.map (fun c => { c with oldest := none })) ∧
  ∀ (s s2 : State) (slot : Slot) (lazy : Bool) (rest : List Move) (q : Quire) (r : Rally) (w op : Nat) (i : Instr) (h : Hdr) (p : Parts),
    s.agenda = .word slot lazy :: rest → s.quire slot = some q → q.rally = some r → (s.ctx q.ctx).dead = false → q.wait = none →
    r.lead.filter (fun t => thGet q t false Thread.alive) ≠ [] → r.words ≠ 24 →
    (r.words = 0 → ∀ t ∈ r.lead, thGet q t false (fun th => th.xfer) = false) →
    fetchWord { s with agenda := rest } slot q.ctx r.next.toNat = (s2, .ok w) → s2.quire slot = some q →
    decode (BitVec.ofNat 64 w) = .ok i → i.word = some (op, h, p) → PlainIssue s2 slot q (.form op h p) op h →
    ∃ (s1 : State) (cur : Cur) (q1 : Quire),
      s1.cur = some cur ∧ cur.slot = slot ∧ cur.pc = r.next ∧ cur.act = r.lead.filter (fun t => thGet q t false Thread.alive) ∧
      cur.view = [] ∧ s1.mem = s2.mem ∧ s1.quire slot = some q1 ∧ q1.th = q.th ∧ q1.s = q.s ∧ q1.q = q.q ∧
      step s = match exec i s1 with
        | .next u => .next (noteReady (fitL2 (finishWord u)))
        | .fault e => .fault e
        | .refused e => .refused e

/-- What reset leaves, where the manual states it (R37, R50, R199, R401, R412, R447, R478, R486, R489, R491). FW_OK and READY are 0 at
reset; once bring-up is through, FAB_EN, DEVNUM, EST and EXTRA are 0, only master 0 is privileged, RETMAX is 48, no context is
assigned and every context block reads zero to every master; the error rings are empty, every bank is in CACHE and the
measurements are clear; the block of a context that is assigned then reads as its table gives it: zero, but for a weight of 1.
Memory is in canonical form. -/
def Obligations.ResetLeavesTheStatedValues : Prop :=
  readReg State.reset 0 0x0A04 / 2 ^ 30 = 0 ∧ readReg resetReady 0 0x0A04 / 2 ^ 30 = 3 ∧
  readReg resetReady 0 0x0A00 = 0 ∧ readReg resetReady 0 0x0A08 = 1 ∧ readReg resetReady 0 0x0A0C / 2 ^ 16 = 48 ∧
  readReg resetReady 0 0x0A10 = 0 ∧
  (∀ c : Nat, c < 64 → readReg resetReady 0 (0x0A40 + 4 * c) = 0) ∧
  (∀ m off : Nat, m < 32 → 0x10000 ≤ off → off < 0x14000 → readReg resetReady m off = 0) ∧
  (∀ m off : Nat, m < 32 → off ∈ [0x800, 0x804, 0x808, 0x80C, 0x810] → readReg resetReady m off = 0) ∧
  (∀ g b : Nat, g < 48 → b < 64 → (State.reset.gath g).banks[b]? = some .cache) ∧
  (∀ k : Nat, k < 16 → State.reset.meas[k]? = some 0) ∧
  (∀ c m : Nat, c < 64 → m < 32 → ∃ u : State, exec (.ctxOwnerAssign 0 c m) resetReady = .next u ∧
    ∀ off : Nat, off < 0x100 → off % 4 = 0 → readReg u m (0x10000 + 0x100 * c + off) = if off = 0x50 then 0x10000 else 0) ∧
  memWf State.reset.mem = true

/-- Every step keeps memory in its canonical form: addresses rise strictly and no listed byte is what an unlisted one reads as
(the model's own form of memory, log 5). It holds at reset (ResetLeavesTheStatedValues) and is the premise of the statements
that read memory back. -/
def Obligations.EveryStepKeepsMemoryCanonical : Prop :=
  ∀ s u : State, memWf s.mem = true → step s = .next u → memWf u.mem = true

/-- Every step keeps the scratchpad of every resident folio in canonical form (the model's own form, log 5). -/
def Obligations.EveryStepKeepsScratchpadsCanonical : Prop :=
  ∀ s u : State, (∀ f ∈ s.folios, memWf f.scr = true) → step s = .next u → ∀ f ∈ u.folios, memWf f.scr = true
end

