-- ==== Sys2Proof/Laws/Memory.lean ====
section
/-! SUPPORT. The laws of byte memory: a read after a write, and that every operation on memory keeps the canonical form,
so that equal memories are equal lists. -/

namespace Sys2Proof.Machine

theorem memWfFrom_mono {lo lo' : Nat} {m : Mem} (h : lo' ≤ lo) (hm : memWfFrom lo m = true) : memWfFrom lo' m = true := by
  cases m with
  | nil => rfl
  | cons e m =>
    obtain ⟨a, b⟩ := e
    simp only [memWfFrom, Bool.and_eq_true, decide_eq_true_eq] at hm ⊢
    exact ⟨⟨by omega, hm.1.2⟩, hm.2⟩

theorem memWfFrom_memSet {lo : Nat} {m : Mem} (hm : memWfFrom lo m = true) (x : Nat) (v : Byte) (hx : lo ≤ x) :
    memWfFrom lo (memSet m x v) = true := by
  induction m generalizing lo with
  | nil =>
    rw [memSet]
    split
    · rfl
    · rename_i hv
      simp only [memWfFrom, Bool.and_eq_true, decide_eq_true_eq, bne_iff_ne, ne_eq]
      exact ⟨⟨hx, hv⟩, trivial⟩
  | cons e m ih =>
    obtain ⟨a, b⟩ := e
    simp only [memWfFrom, Bool.and_eq_true, decide_eq_true_eq] at hm
    rw [memSet]
    split
    · split
      · simp only [memWfFrom, Bool.and_eq_true, decide_eq_true_eq]; exact hm
      · rename_i h hv
        simp only [memWfFrom, Bool.and_eq_true, decide_eq_true_eq, bne_iff_ne, ne_eq, hv, not_false_eq_true]
        exact ⟨⟨hx, trivial⟩, ⟨by omega, by simpa using hm.1.2⟩, hm.2⟩
    · split
      · split
        · exact memWfFrom_mono (by omega) hm.2
        · rename_i h he hv
          subst he
          simp only [memWfFrom, Bool.and_eq_true, decide_eq_true_eq, bne_iff_ne, ne_eq, hv, not_false_eq_true]
          exact ⟨⟨hx, trivial⟩, hm.2⟩
      · simp only [memWfFrom, Bool.and_eq_true, decide_eq_true_eq]
        exact ⟨hm.1, ih hm.2 (by omega)⟩

/-- Writing a byte keeps the canonical form. -/
theorem memWf_memSet {m : Mem} (hm : memWf m = true) (x : Nat) (v : Byte) : memWf (memSet m x v) = true :=
  memWfFrom_memSet hm x v (Nat.zero_le x)

theorem memWf_memSetN {m : Mem} (hm : memWf m = true) (a : Nat) (bs : List Byte) : memWf (memSetN m a bs) = true := by
  induction bs generalizing m a with
  | nil => exact hm
  | cons b bs ih => exact ih (memWf_memSet hm a b) (a + 1)

theorem memWf_memSetAll {m : Mem} (hm : memWf m = true) (l : List (Nat × Byte)) : memWf (memSetAll m l) = true := by
  induction l generalizing m with
  | nil => exact hm
  | cons e l ih => exact ih (memWf_memSet hm e.1 e.2)

theorem memWfFrom_filter {lo : Nat} {m : Mem} (p : Nat × Byte → Bool) (hm : memWfFrom lo m = true) :
    memWfFrom lo (m.filter p) = true := by
  induction m generalizing lo with
  | nil => rfl
  | cons e m ih =>
    obtain ⟨a, b⟩ := e
    simp only [memWfFrom, Bool.and_eq_true, decide_eq_true_eq] at hm
    rw [List.filter_cons]
    split
    · simp only [memWfFrom, Bool.and_eq_true, decide_eq_true_eq]
      exact ⟨hm.1, ih hm.2⟩
    · exact memWfFrom_mono (by omega) (ih hm.2)

/-- Dropping listed bytes keeps the canonical form. -/
theorem memWf_filter {m : Mem} (p : Nat × Byte → Bool) (hm : memWf m = true) : memWf (m.filter p) = true :=
  memWfFrom_filter p hm

theorem memGet_lt {lo : Nat} {m : Mem} (hm : memWfFrom lo m = true) {x : Nat} (hx : x < lo) : memGet m x = 0 := by
  cases m with
  | nil => rfl
  | cons e m =>
    obtain ⟨a, b⟩ := e
    simp only [memWfFrom, Bool.and_eq_true, decide_eq_true_eq] at hm
    rw [memGet, if_neg (by omega), if_pos (by omega)]

/-- A byte read after a write of one byte: the byte written there, every other byte as before. -/
theorem memGet_memSet {m : Mem} (hm : memWf m = true) (x : Nat) (v : Byte) (y : Nat) :
    memGet (memSet m x v) y = if y = x then v else memGet m y := by
  have aux : ∀ (lo : Nat) (m : Mem), memWfFrom lo m = true → memGet (memSet m x v) y = if y = x then v else memGet m y := by
    intro lo m
    induction m generalizing lo with
    | nil =>
      intro _
      rw [memSet]
      by_cases hy : y = x
      · subst hy; split
        · rename_i hv; rw [if_pos rfl, hv]; rfl
        · rw [if_pos rfl, memGet, if_pos rfl]
      · rw [if_neg hy]; split
        · rfl
        · show memGet [(x, v)] y = 0
          rw [memGet, if_neg (Ne.symm hy)]; split <;> rfl
    | cons e m ih =>
      obtain ⟨a, b⟩ := e
      intro hm
      simp only [memWfFrom, Bool.and_eq_true, decide_eq_true_eq] at hm
      rw [memSet]
      split
      · rename_i hxa
        by_cases hy : y = x
        · subst hy
          by_cases hv : v = 0
          · rw [if_pos hv, if_pos rfl, memGet, if_neg (by omega), if_pos hxa, hv]
          · rw [if_neg hv, if_pos rfl, memGet, if_pos rfl]
        · by_cases hv : v = 0
          · simp [hv, hy]
          · simp only [hv, if_false, hy]
            rw [memGet, if_neg (Ne.symm hy)]
            by_cases hyx : y < x
            · rw [if_pos hyx, memGet, if_neg (by omega), if_pos (by omega)]
            · rw [if_neg hyx]
      · split
        · rename_i hxa he
          subst he
          have hlt : memGet m x = 0 := memGet_lt hm.2 (by omega)
          by_cases hv : v = 0
          · by_cases hy : y = x
            · subst hy; simp [hv, hlt]
            · simp only [hv, if_true, hy, if_false]
              rw [memGet, if_neg (Ne.symm hy)]
              by_cases hyx : y < x
              · rw [if_pos hyx]; exact memGet_lt hm.2 (by omega)
              · rw [if_neg hyx]
          · by_cases hy : y = x
            · subst hy; rw [if_neg hv, if_pos rfl, memGet, if_pos rfl]
            · simp only [hv, if_false, hy]
              rw [memGet, memGet, if_neg (Ne.symm hy), if_neg (Ne.symm hy)]
        · rename_i hxa he
          rw [memGet, memGet, ih (a + 1) hm.2]
          by_cases hy : y = x
          · subst hy
            rw [if_neg (by omega), if_neg (by omega), if_pos rfl, if_pos rfl]
          · rw [if_neg hy, if_neg hy]
  exact aux 0 m hm

/-- Bytes read after a run of bytes is written. -/
theorem memGet_memSetN {m : Mem} (hm : memWf m = true) (a : Nat) (bs : List Byte) (y : Nat) :
    memGet (memSetN m a bs) y = if a ≤ y ∧ y < a + bs.length then bs.getD (y - a) 0 else memGet m y := by
  induction bs generalizing m a with
  | nil =>
    have h : ¬ (a ≤ y ∧ y < a + ([] : List Byte).length) := by simp
    rw [if_neg h]; rfl
  | cons b bs ih =>
    rw [memSetN, ih (memWf_memSet hm a b), memGet_memSet hm]
    simp only [List.length_cons]
    by_cases h1 : a + 1 ≤ y ∧ y < a + 1 + bs.length
    · have h2 : a ≤ y ∧ y < a + (bs.length + 1) := by omega
      have h3 : y - a = (y - (a + 1)) + 1 := by omega
      rw [if_pos h1, if_pos h2, h3, List.getD_cons_succ]
    · by_cases h4 : y = a
      · subst h4; simp
      · have h2 : ¬ (a ≤ y ∧ y < a + (bs.length + 1)) := by omega
        rw [if_neg h1, if_neg h4, if_neg h2]

/-- A memory in canonical form is what it reads as. -/
theorem memWf_ext {m m' : Mem} (hm : memWf m = true) (hm' : memWf m' = true) (h : ∀ x, memGet m x = memGet m' x) : m = m' := by
  have aux : ∀ (m m' : Mem) (lo : Nat), memWfFrom lo m = true → memWfFrom lo m' = true → (∀ x, memGet m x = memGet m' x) → m = m' := by
    intro m
    induction m with
    | nil =>
      intro m' lo _ h2 h
      cases m' with
      | nil => rfl
      | cons e m' =>
        obtain ⟨a, b⟩ := e
        simp only [memWfFrom, Bool.and_eq_true, decide_eq_true_eq, bne_iff_ne, ne_eq] at h2
        have := h a
        simp only [memGet, if_true] at this
        exact absurd this.symm h2.1.2
    | cons e m ih =>
      obtain ⟨a, b⟩ := e
      intro m' lo h1 h2 h
      simp only [memWfFrom, Bool.and_eq_true, decide_eq_true_eq, bne_iff_ne, ne_eq] at h1
      cases m' with
      | nil =>
        have := h a
        simp only [memGet, if_true] at this
        exact absurd this h1.1.2
      | cons e' m' =>
        obtain ⟨a', b'⟩ := e'
        simp only [memWfFrom, Bool.and_eq_true, decide_eq_true_eq, bne_iff_ne, ne_eq] at h2
        have ha : a = a' := by
          rcases Nat.lt_trichotomy a a' with hlt | he | hgt
          · have := h a
            rw [memGet, memGet, if_pos rfl, if_neg (by omega), if_pos hlt] at this
            exact absurd this h1.1.2
          · exact he
          · have := h a'
            rw [memGet, memGet, if_pos rfl, if_neg (by omega), if_pos hgt] at this
            exact absurd this.symm h2.1.2
        subst ha
        have hb : b = b' := by
          have := h a
          simpa only [memGet, if_true] using this
        subst hb
        congr 1
        refine ih m' (a + 1) h1.2 h2.2 fun x => ?_
        by_cases hx : a < x
        · have := h x
          rwa [memGet, memGet, if_neg (by omega), if_neg (by omega), if_neg (by omega), if_neg (by omega)] at this
        · rw [memGet_lt h1.2 (by omega), memGet_lt h2.2 (by omega)]
  exact aux m m' 0 hm hm' h

end Sys2Proof.Machine
end

