-- ==== Sys2Proof/Laws/State.lean ====
section
/-! SUPPORT. What each update of the state leaves: one lemma for each field and update, so that no proof unfolds a record
update; and what a changed part reads as afterwards. -/

namespace Sys2Proof.Machine

variable (s : State)
section
variable (c : Nat) (f : Ctx → Ctx)
@[simp] theorem State.setCtx_cycle : (s.setCtx c f).cycle = s.cycle := rfl
@[simp] theorem State.setCtx_agenda : (s.setCtx c f).agenda = s.agenda := rfl
@[simp] theorem State.setCtx_turn : (s.setCtx c f).turn = s.turn := rfl
@[simp] theorem State.setCtx_fresh : (s.setCtx c f).fresh = s.fresh := rfl
@[simp] theorem State.setCtx_cur : (s.setCtx c f).cur = s.cur := rfl
@[simp] theorem State.setCtx_nextId : (s.setCtx c f).nextId = s.nextId := rfl
@[simp] theorem State.setCtx_boot : (s.setCtx c f).boot = s.boot := rfl
@[simp] theorem State.setCtx_fwOk : (s.setCtx c f).fwOk = s.fwOk := rfl
@[simp] theorem State.setCtx_ready : (s.setCtx c f).ready = s.ready := rfl
@[simp] theorem State.setCtx_product : (s.setCtx c f).product = s.product := rfl
@[simp] theorem State.setCtx_installed : (s.setCtx c f).installed = s.installed := rfl
@[simp] theorem State.setCtx_hostCache : (s.setCtx c f).hostCache = s.hostCache := rfl
@[simp] theorem State.setCtx_hostMem : (s.setCtx c f).hostMem = s.hostMem := rfl
@[simp] theorem State.setCtx_meas : (s.setCtx c f).meas = s.meas := rfl
@[simp] theorem State.setCtx_spdm : (s.setCtx c f).spdm = s.spdm := rfl
@[simp] theorem State.setCtx_fabEn : (s.setCtx c f).fabEn = s.fabEn := rfl
@[simp] theorem State.setCtx_devnum : (s.setCtx c f).devnum = s.devnum := rfl
@[simp] theorem State.setCtx_mstPriv : (s.setCtx c f).mstPriv = s.mstPriv := rfl
@[simp] theorem State.setCtx_retmax : (s.setCtx c f).retmax = s.retmax := rfl
@[simp] theorem State.setCtx_powLimit : (s.setCtx c f).powLimit = s.powLimit := rfl
@[simp] theorem State.setCtx_extra : (s.setCtx c f).extra = s.extra := rfl
@[simp] theorem State.setCtx_est : (s.setCtx c f).est = s.est := rfl
@[simp] theorem State.setCtx_corrected : (s.setCtx c f).corrected = s.corrected := rfl
@[simp] theorem State.setCtx_routeTab : (s.setCtx c f).routeTab = s.routeTab := rfl
@[simp] theorem State.setCtx_exportTab : (s.setCtx c f).exportTab = s.exportTab := rfl
@[simp] theorem State.setCtx_ports : (s.setCtx c f).ports = s.ports := rfl
@[simp] theorem State.setCtx_masters : (s.setCtx c f).masters = s.masters := rfl
@[simp] theorem State.setCtx_gaths : (s.setCtx c f).gaths = s.gaths := rfl
@[simp] theorem State.setCtx_cores : (s.setCtx c f).cores = s.cores := rfl
@[simp] theorem State.setCtx_mem : (s.setCtx c f).mem = s.mem := rfl
@[simp] theorem State.setCtx_stale : (s.setCtx c f).stale = s.stale := rfl
@[simp] theorem State.setCtx_keyTags : (s.setCtx c f).keyTags = s.keyTags := rfl
@[simp] theorem State.setCtx_homes : (s.setCtx c f).homes = s.homes := rfl
@[simp] theorem State.setCtx_ptrs : (s.setCtx c f).ptrs = s.ptrs := rfl
@[simp] theorem State.setCtx_monitors : (s.setCtx c f).monitors = s.monitors := rfl
@[simp] theorem State.setCtx_held : (s.setCtx c f).held = s.held := rfl
@[simp] theorem State.setCtx_msgs : (s.setCtx c f).msgs = s.msgs := rfl
@[simp] theorem State.setCtx_persists : (s.setCtx c f).persists = s.persists := rfl
@[simp] theorem State.setCtx_pending : (s.setCtx c f).pending = s.pending := rfl
@[simp] theorem State.setCtx_leases : (s.setCtx c f).leases = s.leases := rfl
@[simp] theorem State.setCtx_bridges : (s.setCtx c f).bridges = s.bridges := rfl
@[simp] theorem State.setCtx_hostLines : (s.setCtx c f).hostLines = s.hostLines := rfl
@[simp] theorem State.setCtx_peerTab : (s.setCtx c f).peerTab = s.peerTab := rfl
@[simp] theorem State.setCtx_peerAsks : (s.setCtx c f).peerAsks = s.peerAsks := rfl
@[simp] theorem State.setCtx_peerOwns : (s.setCtx c f).peerOwns = s.peerOwns := rfl
@[simp] theorem State.setCtx_peersDown : (s.setCtx c f).peersDown = s.peersDown := rfl
@[simp] theorem State.setCtx_walks : (s.setCtx c f).walks = s.walks := rfl
@[simp] theorem State.setCtx_walked : (s.setCtx c f).walked = s.walked := rfl
@[simp] theorem State.setCtx_badWalks : (s.setCtx c f).badWalks = s.badWalks := rfl
@[simp] theorem State.setCtx_badReads : (s.setCtx c f).badReads = s.badReads := rfl
@[simp] theorem State.setCtx_nodes : (s.setCtx c f).nodes = s.nodes := rfl
@[simp] theorem State.setCtx_spawnUsed : (s.setCtx c f).spawnUsed = s.spawnUsed := rfl
@[simp] theorem State.setCtx_spawnLate : (s.setCtx c f).spawnLate = s.spawnLate := rfl
@[simp] theorem State.setCtx_folios : (s.setCtx c f).folios = s.folios := rfl
@[simp] theorem State.setCtx_waitHead : (s.setCtx c f).waitHead = s.waitHead := rfl
@[simp] theorem State.setCtx_quires : (s.setCtx c f).quires = s.quires := rfl
@[simp] theorem State.setCtx_passes : (s.setCtx c f).passes = s.passes := rfl
@[simp] theorem State.setCtx_rays : (s.setCtx c f).rays = s.rays := rfl
@[simp] theorem State.setCtx_huddles : (s.setCtx c f).huddles = s.huddles := rfl
@[simp] theorem State.setCtx_serving : (s.setCtx c f).serving = s.serving := rfl
end

section
variable (c : Nat) (f : Master → Master)
@[simp] theorem State.setMaster_cycle : (s.setMaster c f).cycle = s.cycle := rfl
@[simp] theorem State.setMaster_agenda : (s.setMaster c f).agenda = s.agenda := rfl
@[simp] theorem State.setMaster_turn : (s.setMaster c f).turn = s.turn := rfl
@[simp] theorem State.setMaster_fresh : (s.setMaster c f).fresh = s.fresh := rfl
@[simp] theorem State.setMaster_cur : (s.setMaster c f).cur = s.cur := rfl
@[simp] theorem State.setMaster_nextId : (s.setMaster c f).nextId = s.nextId := rfl
@[simp] theorem State.setMaster_boot : (s.setMaster c f).boot = s.boot := rfl
@[simp] theorem State.setMaster_fwOk : (s.setMaster c f).fwOk = s.fwOk := rfl
@[simp] theorem State.setMaster_ready : (s.setMaster c f).ready = s.ready := rfl
@[simp] theorem State.setMaster_product : (s.setMaster c f).product = s.product := rfl
@[simp] theorem State.setMaster_installed : (s.setMaster c f).installed = s.installed := rfl
@[simp] theorem State.setMaster_hostCache : (s.setMaster c f).hostCache = s.hostCache := rfl
@[simp] theorem State.setMaster_hostMem : (s.setMaster c f).hostMem = s.hostMem := rfl
@[simp] theorem State.setMaster_meas : (s.setMaster c f).meas = s.meas := rfl
@[simp] theorem State.setMaster_spdm : (s.setMaster c f).spdm = s.spdm := rfl
@[simp] theorem State.setMaster_fabEn : (s.setMaster c f).fabEn = s.fabEn := rfl
@[simp] theorem State.setMaster_devnum : (s.setMaster c f).devnum = s.devnum := rfl
@[simp] theorem State.setMaster_mstPriv : (s.setMaster c f).mstPriv = s.mstPriv := rfl
@[simp] theorem State.setMaster_retmax : (s.setMaster c f).retmax = s.retmax := rfl
@[simp] theorem State.setMaster_powLimit : (s.setMaster c f).powLimit = s.powLimit := rfl
@[simp] theorem State.setMaster_extra : (s.setMaster c f).extra = s.extra := rfl
@[simp] theorem State.setMaster_est : (s.setMaster c f).est = s.est := rfl
@[simp] theorem State.setMaster_corrected : (s.setMaster c f).corrected = s.corrected := rfl
@[simp] theorem State.setMaster_routeTab : (s.setMaster c f).routeTab = s.routeTab := rfl
@[simp] theorem State.setMaster_exportTab : (s.setMaster c f).exportTab = s.exportTab := rfl
@[simp] theorem State.setMaster_ports : (s.setMaster c f).ports = s.ports := rfl
@[simp] theorem State.setMaster_ctxs : (s.setMaster c f).ctxs = s.ctxs := rfl
@[simp] theorem State.setMaster_gaths : (s.setMaster c f).gaths = s.gaths := rfl
@[simp] theorem State.setMaster_cores : (s.setMaster c f).cores = s.cores := rfl
@[simp] theorem State.setMaster_mem : (s.setMaster c f).mem = s.mem := rfl
@[simp] theorem State.setMaster_stale : (s.setMaster c f).stale = s.stale := rfl
@[simp] theorem State.setMaster_keyTags : (s.setMaster c f).keyTags = s.keyTags := rfl
@[simp] theorem State.setMaster_homes : (s.setMaster c f).homes = s.homes := rfl
@[simp] theorem State.setMaster_ptrs : (s.setMaster c f).ptrs = s.ptrs := rfl
@[simp] theorem State.setMaster_monitors : (s.setMaster c f).monitors = s.monitors := rfl
@[simp] theorem State.setMaster_held : (s.setMaster c f).held = s.held := rfl
@[simp] theorem State.setMaster_msgs : (s.setMaster c f).msgs = s.msgs := rfl
@[simp] theorem State.setMaster_persists : (s.setMaster c f).persists = s.persists := rfl
@[simp] theorem State.setMaster_pending : (s.setMaster c f).pending = s.pending := rfl
@[simp] theorem State.setMaster_leases : (s.setMaster c f).leases = s.leases := rfl
@[simp] theorem State.setMaster_bridges : (s.setMaster c f).bridges = s.bridges := rfl
@[simp] theorem State.setMaster_hostLines : (s.setMaster c f).hostLines = s.hostLines := rfl
@[simp] theorem State.setMaster_peerTab : (s.setMaster c f).peerTab = s.peerTab := rfl
@[simp] theorem State.setMaster_peerAsks : (s.setMaster c f).peerAsks = s.peerAsks := rfl
@[simp] theorem State.setMaster_peerOwns : (s.setMaster c f).peerOwns = s.peerOwns := rfl
@[simp] theorem State.setMaster_peersDown : (s.setMaster c f).peersDown = s.peersDown := rfl
@[simp] theorem State.setMaster_walks : (s.setMaster c f).walks = s.walks := rfl
@[simp] theorem State.setMaster_walked : (s.setMaster c f).walked = s.walked := rfl
@[simp] theorem State.setMaster_badWalks : (s.setMaster c f).badWalks = s.badWalks := rfl
@[simp] theorem State.setMaster_badReads : (s.setMaster c f).badReads = s.badReads := rfl
@[simp] theorem State.setMaster_nodes : (s.setMaster c f).nodes = s.nodes := rfl
@[simp] theorem State.setMaster_spawnUsed : (s.setMaster c f).spawnUsed = s.spawnUsed := rfl
@[simp] theorem State.setMaster_spawnLate : (s.setMaster c f).spawnLate = s.spawnLate := rfl
@[simp] theorem State.setMaster_folios : (s.setMaster c f).folios = s.folios := rfl
@[simp] theorem State.setMaster_waitHead : (s.setMaster c f).waitHead = s.waitHead := rfl
@[simp] theorem State.setMaster_quires : (s.setMaster c f).quires = s.quires := rfl
@[simp] theorem State.setMaster_passes : (s.setMaster c f).passes = s.passes := rfl
@[simp] theorem State.setMaster_rays : (s.setMaster c f).rays = s.rays := rfl
@[simp] theorem State.setMaster_huddles : (s.setMaster c f).huddles = s.huddles := rfl
@[simp] theorem State.setMaster_serving : (s.setMaster c f).serving = s.serving := rfl
end

section
variable (c : Nat) (f : Gath → Gath)
@[simp] theorem State.setGath_cycle : (s.setGath c f).cycle = s.cycle := rfl
@[simp] theorem State.setGath_agenda : (s.setGath c f).agenda = s.agenda := rfl
@[simp] theorem State.setGath_turn : (s.setGath c f).turn = s.turn := rfl
@[simp] theorem State.setGath_fresh : (s.setGath c f).fresh = s.fresh := rfl
@[simp] theorem State.setGath_cur : (s.setGath c f).cur = s.cur := rfl
@[simp] theorem State.setGath_nextId : (s.setGath c f).nextId = s.nextId := rfl
@[simp] theorem State.setGath_boot : (s.setGath c f).boot = s.boot := rfl
@[simp] theorem State.setGath_fwOk : (s.setGath c f).fwOk = s.fwOk := rfl
@[simp] theorem State.setGath_ready : (s.setGath c f).ready = s.ready := rfl
@[simp] theorem State.setGath_product : (s.setGath c f).product = s.product := rfl
@[simp] theorem State.setGath_installed : (s.setGath c f).installed = s.installed := rfl
@[simp] theorem State.setGath_hostCache : (s.setGath c f).hostCache = s.hostCache := rfl
@[simp] theorem State.setGath_hostMem : (s.setGath c f).hostMem = s.hostMem := rfl
@[simp] theorem State.setGath_meas : (s.setGath c f).meas = s.meas := rfl
@[simp] theorem State.setGath_spdm : (s.setGath c f).spdm = s.spdm := rfl
@[simp] theorem State.setGath_fabEn : (s.setGath c f).fabEn = s.fabEn := rfl
@[simp] theorem State.setGath_devnum : (s.setGath c f).devnum = s.devnum := rfl
@[simp] theorem State.setGath_mstPriv : (s.setGath c f).mstPriv = s.mstPriv := rfl
@[simp] theorem State.setGath_retmax : (s.setGath c f).retmax = s.retmax := rfl
@[simp] theorem State.setGath_powLimit : (s.setGath c f).powLimit = s.powLimit := rfl
@[simp] theorem State.setGath_extra : (s.setGath c f).extra = s.extra := rfl
@[simp] theorem State.setGath_est : (s.setGath c f).est = s.est := rfl
@[simp] theorem State.setGath_corrected : (s.setGath c f).corrected = s.corrected := rfl
@[simp] theorem State.setGath_routeTab : (s.setGath c f).routeTab = s.routeTab := rfl
@[simp] theorem State.setGath_exportTab : (s.setGath c f).exportTab = s.exportTab := rfl
@[simp] theorem State.setGath_ports : (s.setGath c f).ports = s.ports := rfl
@[simp] theorem State.setGath_ctxs : (s.setGath c f).ctxs = s.ctxs := rfl
@[simp] theorem State.setGath_masters : (s.setGath c f).masters = s.masters := rfl
@[simp] theorem State.setGath_cores : (s.setGath c f).cores = s.cores := rfl
@[simp] theorem State.setGath_mem : (s.setGath c f).mem = s.mem := rfl
@[simp] theorem State.setGath_stale : (s.setGath c f).stale = s.stale := rfl
@[simp] theorem State.setGath_keyTags : (s.setGath c f).keyTags = s.keyTags := rfl
@[simp] theorem State.setGath_homes : (s.setGath c f).homes = s.homes := rfl
@[simp] theorem State.setGath_ptrs : (s.setGath c f).ptrs = s.ptrs := rfl
@[simp] theorem State.setGath_monitors : (s.setGath c f).monitors = s.monitors := rfl
@[simp] theorem State.setGath_held : (s.setGath c f).held = s.held := rfl
@[simp] theorem State.setGath_msgs : (s.setGath c f).msgs = s.msgs := rfl
@[simp] theorem State.setGath_persists : (s.setGath c f).persists = s.persists := rfl
@[simp] theorem State.setGath_pending : (s.setGath c f).pending = s.pending := rfl
@[simp] theorem State.setGath_leases : (s.setGath c f).leases = s.leases := rfl
@[simp] theorem State.setGath_bridges : (s.setGath c f).bridges = s.bridges := rfl
@[simp] theorem State.setGath_hostLines : (s.setGath c f).hostLines = s.hostLines := rfl
@[simp] theorem State.setGath_peerTab : (s.setGath c f).peerTab = s.peerTab := rfl
@[simp] theorem State.setGath_peerAsks : (s.setGath c f).peerAsks = s.peerAsks := rfl
@[simp] theorem State.setGath_peerOwns : (s.setGath c f).peerOwns = s.peerOwns := rfl
@[simp] theorem State.setGath_peersDown : (s.setGath c f).peersDown = s.peersDown := rfl
@[simp] theorem State.setGath_walks : (s.setGath c f).walks = s.walks := rfl
@[simp] theorem State.setGath_walked : (s.setGath c f).walked = s.walked := rfl
@[simp] theorem State.setGath_badWalks : (s.setGath c f).badWalks = s.badWalks := rfl
@[simp] theorem State.setGath_badReads : (s.setGath c f).badReads = s.badReads := rfl
@[simp] theorem State.setGath_nodes : (s.setGath c f).nodes = s.nodes := rfl
@[simp] theorem State.setGath_spawnUsed : (s.setGath c f).spawnUsed = s.spawnUsed := rfl
@[simp] theorem State.setGath_spawnLate : (s.setGath c f).spawnLate = s.spawnLate := rfl
@[simp] theorem State.setGath_folios : (s.setGath c f).folios = s.folios := rfl
@[simp] theorem State.setGath_waitHead : (s.setGath c f).waitHead = s.waitHead := rfl
@[simp] theorem State.setGath_quires : (s.setGath c f).quires = s.quires := rfl
@[simp] theorem State.setGath_passes : (s.setGath c f).passes = s.passes := rfl
@[simp] theorem State.setGath_rays : (s.setGath c f).rays = s.rays := rfl
@[simp] theorem State.setGath_huddles : (s.setGath c f).huddles = s.huddles := rfl
@[simp] theorem State.setGath_serving : (s.setGath c f).serving = s.serving := rfl
end

section
variable (c : Nat) (f : Core → Core)
@[simp] theorem State.setCore_cycle : (s.setCore c f).cycle = s.cycle := rfl
@[simp] theorem State.setCore_agenda : (s.setCore c f).agenda = s.agenda := rfl
@[simp] theorem State.setCore_turn : (s.setCore c f).turn = s.turn := rfl
@[simp] theorem State.setCore_fresh : (s.setCore c f).fresh = s.fresh := rfl
@[simp] theorem State.setCore_cur : (s.setCore c f).cur = s.cur := rfl
@[simp] theorem State.setCore_nextId : (s.setCore c f).nextId = s.nextId := rfl
@[simp] theorem State.setCore_boot : (s.setCore c f).boot = s.boot := rfl
@[simp] theorem State.setCore_fwOk : (s.setCore c f).fwOk = s.fwOk := rfl
@[simp] theorem State.setCore_ready : (s.setCore c f).ready = s.ready := rfl
@[simp] theorem State.setCore_product : (s.setCore c f).product = s.product := rfl
@[simp] theorem State.setCore_installed : (s.setCore c f).installed = s.installed := rfl
@[simp] theorem State.setCore_hostCache : (s.setCore c f).hostCache = s.hostCache := rfl
@[simp] theorem State.setCore_hostMem : (s.setCore c f).hostMem = s.hostMem := rfl
@[simp] theorem State.setCore_meas : (s.setCore c f).meas = s.meas := rfl
@[simp] theorem State.setCore_spdm : (s.setCore c f).spdm = s.spdm := rfl
@[simp] theorem State.setCore_fabEn : (s.setCore c f).fabEn = s.fabEn := rfl
@[simp] theorem State.setCore_devnum : (s.setCore c f).devnum = s.devnum := rfl
@[simp] theorem State.setCore_mstPriv : (s.setCore c f).mstPriv = s.mstPriv := rfl
@[simp] theorem State.setCore_retmax : (s.setCore c f).retmax = s.retmax := rfl
@[simp] theorem State.setCore_powLimit : (s.setCore c f).powLimit = s.powLimit := rfl
@[simp] theorem State.setCore_extra : (s.setCore c f).extra = s.extra := rfl
@[simp] theorem State.setCore_est : (s.setCore c f).est = s.est := rfl
@[simp] theorem State.setCore_corrected : (s.setCore c f).corrected = s.corrected := rfl
@[simp] theorem State.setCore_routeTab : (s.setCore c f).routeTab = s.routeTab := rfl
@[simp] theorem State.setCore_exportTab : (s.setCore c f).exportTab = s.exportTab := rfl
@[simp] theorem State.setCore_ports : (s.setCore c f).ports = s.ports := rfl
@[simp] theorem State.setCore_ctxs : (s.setCore c f).ctxs = s.ctxs := rfl
@[simp] theorem State.setCore_masters : (s.setCore c f).masters = s.masters := rfl
@[simp] theorem State.setCore_gaths : (s.setCore c f).gaths = s.gaths := rfl
@[simp] theorem State.setCore_mem : (s.setCore c f).mem = s.mem := rfl
@[simp] theorem State.setCore_stale : (s.setCore c f).stale = s.stale := rfl
@[simp] theorem State.setCore_keyTags : (s.setCore c f).keyTags = s.keyTags := rfl
@[simp] theorem State.setCore_homes : (s.setCore c f).homes = s.homes := rfl
@[simp] theorem State.setCore_ptrs : (s.setCore c f).ptrs = s.ptrs := rfl
@[simp] theorem State.setCore_monitors : (s.setCore c f).monitors = s.monitors := rfl
@[simp] theorem State.setCore_held : (s.setCore c f).held = s.held := rfl
@[simp] theorem State.setCore_msgs : (s.setCore c f).msgs = s.msgs := rfl
@[simp] theorem State.setCore_persists : (s.setCore c f).persists = s.persists := rfl
@[simp] theorem State.setCore_pending : (s.setCore c f).pending = s.pending := rfl
@[simp] theorem State.setCore_leases : (s.setCore c f).leases = s.leases := rfl
@[simp] theorem State.setCore_bridges : (s.setCore c f).bridges = s.bridges := rfl
@[simp] theorem State.setCore_hostLines : (s.setCore c f).hostLines = s.hostLines := rfl
@[simp] theorem State.setCore_peerTab : (s.setCore c f).peerTab = s.peerTab := rfl
@[simp] theorem State.setCore_peerAsks : (s.setCore c f).peerAsks = s.peerAsks := rfl
@[simp] theorem State.setCore_peerOwns : (s.setCore c f).peerOwns = s.peerOwns := rfl
@[simp] theorem State.setCore_peersDown : (s.setCore c f).peersDown = s.peersDown := rfl
@[simp] theorem State.setCore_walks : (s.setCore c f).walks = s.walks := rfl
@[simp] theorem State.setCore_walked : (s.setCore c f).walked = s.walked := rfl
@[simp] theorem State.setCore_badWalks : (s.setCore c f).badWalks = s.badWalks := rfl
@[simp] theorem State.setCore_badReads : (s.setCore c f).badReads = s.badReads := rfl
@[simp] theorem State.setCore_nodes : (s.setCore c f).nodes = s.nodes := rfl
@[simp] theorem State.setCore_spawnUsed : (s.setCore c f).spawnUsed = s.spawnUsed := rfl
@[simp] theorem State.setCore_spawnLate : (s.setCore c f).spawnLate = s.spawnLate := rfl
@[simp] theorem State.setCore_folios : (s.setCore c f).folios = s.folios := rfl
@[simp] theorem State.setCore_waitHead : (s.setCore c f).waitHead = s.waitHead := rfl
@[simp] theorem State.setCore_quires : (s.setCore c f).quires = s.quires := rfl
@[simp] theorem State.setCore_passes : (s.setCore c f).passes = s.passes := rfl
@[simp] theorem State.setCore_rays : (s.setCore c f).rays = s.rays := rfl
@[simp] theorem State.setCore_huddles : (s.setCore c f).huddles = s.huddles := rfl
@[simp] theorem State.setCore_serving : (s.setCore c f).serving = s.serving := rfl
end

section
variable (c : Slot) (f : Quire → Quire)
@[simp] theorem State.setQuire_cycle : (s.setQuire c f).cycle = s.cycle := rfl
@[simp] theorem State.setQuire_agenda : (s.setQuire c f).agenda = s.agenda := rfl
@[simp] theorem State.setQuire_turn : (s.setQuire c f).turn = s.turn := rfl
@[simp] theorem State.setQuire_fresh : (s.setQuire c f).fresh = s.fresh := rfl
@[simp] theorem State.setQuire_cur : (s.setQuire c f).cur = s.cur := rfl
@[simp] theorem State.setQuire_nextId : (s.setQuire c f).nextId = s.nextId := rfl
@[simp] theorem State.setQuire_boot : (s.setQuire c f).boot = s.boot := rfl
@[simp] theorem State.setQuire_fwOk : (s.setQuire c f).fwOk = s.fwOk := rfl
@[simp] theorem State.setQuire_ready : (s.setQuire c f).ready = s.ready := rfl
@[simp] theorem State.setQuire_product : (s.setQuire c f).product = s.product := rfl
@[simp] theorem State.setQuire_installed : (s.setQuire c f).installed = s.installed := rfl
@[simp] theorem State.setQuire_hostCache : (s.setQuire c f).hostCache = s.hostCache := rfl
@[simp] theorem State.setQuire_hostMem : (s.setQuire c f).hostMem = s.hostMem := rfl
@[simp] theorem State.setQuire_meas : (s.setQuire c f).meas = s.meas := rfl
@[simp] theorem State.setQuire_spdm : (s.setQuire c f).spdm = s.spdm := rfl
@[simp] theorem State.setQuire_fabEn : (s.setQuire c f).fabEn = s.fabEn := rfl
@[simp] theorem State.setQuire_devnum : (s.setQuire c f).devnum = s.devnum := rfl
@[simp] theorem State.setQuire_mstPriv : (s.setQuire c f).mstPriv = s.mstPriv := rfl
@[simp] theorem State.setQuire_retmax : (s.setQuire c f).retmax = s.retmax := rfl
@[simp] theorem State.setQuire_powLimit : (s.setQuire c f).powLimit = s.powLimit := rfl
@[simp] theorem State.setQuire_extra : (s.setQuire c f).extra = s.extra := rfl
@[simp] theorem State.setQuire_est : (s.setQuire c f).est = s.est := rfl
@[simp] theorem State.setQuire_corrected : (s.setQuire c f).corrected = s.corrected := rfl
@[simp] theorem State.setQuire_routeTab : (s.setQuire c f).routeTab = s.routeTab := rfl
@[simp] theorem State.setQuire_exportTab : (s.setQuire c f).exportTab = s.exportTab := rfl
@[simp] theorem State.setQuire_ports : (s.setQuire c f).ports = s.ports := rfl
@[simp] theorem State.setQuire_ctxs : (s.setQuire c f).ctxs = s.ctxs := rfl
@[simp] theorem State.setQuire_masters : (s.setQuire c f).masters = s.masters := rfl
@[simp] theorem State.setQuire_gaths : (s.setQuire c f).gaths = s.gaths := rfl
@[simp] theorem State.setQuire_cores : (s.setQuire c f).cores = s.cores := rfl
@[simp] theorem State.setQuire_mem : (s.setQuire c f).mem = s.mem := rfl
@[simp] theorem State.setQuire_stale : (s.setQuire c f).stale = s.stale := rfl
@[simp] theorem State.setQuire_keyTags : (s.setQuire c f).keyTags = s.keyTags := rfl
@[simp] theorem State.setQuire_homes : (s.setQuire c f).homes = s.homes := rfl
@[simp] theorem State.setQuire_ptrs : (s.setQuire c f).ptrs = s.ptrs := rfl
@[simp] theorem State.setQuire_monitors : (s.setQuire c f).monitors = s.monitors := rfl
@[simp] theorem State.setQuire_held : (s.setQuire c f).held = s.held := rfl
@[simp] theorem State.setQuire_msgs : (s.setQuire c f).msgs = s.msgs := rfl
@[simp] theorem State.setQuire_persists : (s.setQuire c f).persists = s.persists := rfl
@[simp] theorem State.setQuire_pending : (s.setQuire c f).pending = s.pending := rfl
@[simp] theorem State.setQuire_leases : (s.setQuire c f).leases = s.leases := rfl
@[simp] theorem State.setQuire_bridges : (s.setQuire c f).bridges = s.bridges := rfl
@[simp] theorem State.setQuire_hostLines : (s.setQuire c f).hostLines = s.hostLines := rfl
@[simp] theorem State.setQuire_peerTab : (s.setQuire c f).peerTab = s.peerTab := rfl
@[simp] theorem State.setQuire_peerAsks : (s.setQuire c f).peerAsks = s.peerAsks := rfl
@[simp] theorem State.setQuire_peerOwns : (s.setQuire c f).peerOwns = s.peerOwns := rfl
@[simp] theorem State.setQuire_peersDown : (s.setQuire c f).peersDown = s.peersDown := rfl
@[simp] theorem State.setQuire_walks : (s.setQuire c f).walks = s.walks := rfl
@[simp] theorem State.setQuire_walked : (s.setQuire c f).walked = s.walked := rfl
@[simp] theorem State.setQuire_badWalks : (s.setQuire c f).badWalks = s.badWalks := rfl
@[simp] theorem State.setQuire_badReads : (s.setQuire c f).badReads = s.badReads := rfl
@[simp] theorem State.setQuire_nodes : (s.setQuire c f).nodes = s.nodes := rfl
@[simp] theorem State.setQuire_spawnUsed : (s.setQuire c f).spawnUsed = s.spawnUsed := rfl
@[simp] theorem State.setQuire_spawnLate : (s.setQuire c f).spawnLate = s.spawnLate := rfl
@[simp] theorem State.setQuire_folios : (s.setQuire c f).folios = s.folios := rfl
@[simp] theorem State.setQuire_waitHead : (s.setQuire c f).waitHead = s.waitHead := rfl
@[simp] theorem State.setQuire_passes : (s.setQuire c f).passes = s.passes := rfl
@[simp] theorem State.setQuire_rays : (s.setQuire c f).rays = s.rays := rfl
@[simp] theorem State.setQuire_huddles : (s.setQuire c f).huddles = s.huddles := rfl
@[simp] theorem State.setQuire_serving : (s.setQuire c f).serving = s.serving := rfl
end

section
variable (c : Nat) (f : Folio → Folio)
@[simp] theorem State.setFolio_cycle : (s.setFolio c f).cycle = s.cycle := rfl
@[simp] theorem State.setFolio_agenda : (s.setFolio c f).agenda = s.agenda := rfl
@[simp] theorem State.setFolio_turn : (s.setFolio c f).turn = s.turn := rfl
@[simp] theorem State.setFolio_fresh : (s.setFolio c f).fresh = s.fresh := rfl
@[simp] theorem State.setFolio_cur : (s.setFolio c f).cur = s.cur := rfl
@[simp] theorem State.setFolio_nextId : (s.setFolio c f).nextId = s.nextId := rfl
@[simp] theorem State.setFolio_boot : (s.setFolio c f).boot = s.boot := rfl
@[simp] theorem State.setFolio_fwOk : (s.setFolio c f).fwOk = s.fwOk := rfl
@[simp] theorem State.setFolio_ready : (s.setFolio c f).ready = s.ready := rfl
@[simp] theorem State.setFolio_product : (s.setFolio c f).product = s.product := rfl
@[simp] theorem State.setFolio_installed : (s.setFolio c f).installed = s.installed := rfl
@[simp] theorem State.setFolio_hostCache : (s.setFolio c f).hostCache = s.hostCache := rfl
@[simp] theorem State.setFolio_hostMem : (s.setFolio c f).hostMem = s.hostMem := rfl
@[simp] theorem State.setFolio_meas : (s.setFolio c f).meas = s.meas := rfl
@[simp] theorem State.setFolio_spdm : (s.setFolio c f).spdm = s.spdm := rfl
@[simp] theorem State.setFolio_fabEn : (s.setFolio c f).fabEn = s.fabEn := rfl
@[simp] theorem State.setFolio_devnum : (s.setFolio c f).devnum = s.devnum := rfl
@[simp] theorem State.setFolio_mstPriv : (s.setFolio c f).mstPriv = s.mstPriv := rfl
@[simp] theorem State.setFolio_retmax : (s.setFolio c f).retmax = s.retmax := rfl
@[simp] theorem State.setFolio_powLimit : (s.setFolio c f).powLimit = s.powLimit := rfl
@[simp] theorem State.setFolio_extra : (s.setFolio c f).extra = s.extra := rfl
@[simp] theorem State.setFolio_est : (s.setFolio c f).est = s.est := rfl
@[simp] theorem State.setFolio_corrected : (s.setFolio c f).corrected = s.corrected := rfl
@[simp] theorem State.setFolio_routeTab : (s.setFolio c f).routeTab = s.routeTab := rfl
@[simp] theorem State.setFolio_exportTab : (s.setFolio c f).exportTab = s.exportTab := rfl
@[simp] theorem State.setFolio_ports : (s.setFolio c f).ports = s.ports := rfl
@[simp] theorem State.setFolio_ctxs : (s.setFolio c f).ctxs = s.ctxs := rfl
@[simp] theorem State.setFolio_masters : (s.setFolio c f).masters = s.masters := rfl
@[simp] theorem State.setFolio_gaths : (s.setFolio c f).gaths = s.gaths := rfl
@[simp] theorem State.setFolio_cores : (s.setFolio c f).cores = s.cores := rfl
@[simp] theorem State.setFolio_mem : (s.setFolio c f).mem = s.mem := rfl
@[simp] theorem State.setFolio_stale : (s.setFolio c f).stale = s.stale := rfl
@[simp] theorem State.setFolio_keyTags : (s.setFolio c f).keyTags = s.keyTags := rfl
@[simp] theorem State.setFolio_homes : (s.setFolio c f).homes = s.homes := rfl
@[simp] theorem State.setFolio_ptrs : (s.setFolio c f).ptrs = s.ptrs := rfl
@[simp] theorem State.setFolio_monitors : (s.setFolio c f).monitors = s.monitors := rfl
@[simp] theorem State.setFolio_held : (s.setFolio c f).held = s.held := rfl
@[simp] theorem State.setFolio_msgs : (s.setFolio c f).msgs = s.msgs := rfl
@[simp] theorem State.setFolio_persists : (s.setFolio c f).persists = s.persists := rfl
@[simp] theorem State.setFolio_pending : (s.setFolio c f).pending = s.pending := rfl
@[simp] theorem State.setFolio_leases : (s.setFolio c f).leases = s.leases := rfl
@[simp] theorem State.setFolio_bridges : (s.setFolio c f).bridges = s.bridges := rfl
@[simp] theorem State.setFolio_hostLines : (s.setFolio c f).hostLines = s.hostLines := rfl
@[simp] theorem State.setFolio_peerTab : (s.setFolio c f).peerTab = s.peerTab := rfl
@[simp] theorem State.setFolio_peerAsks : (s.setFolio c f).peerAsks = s.peerAsks := rfl
@[simp] theorem State.setFolio_peerOwns : (s.setFolio c f).peerOwns = s.peerOwns := rfl
@[simp] theorem State.setFolio_peersDown : (s.setFolio c f).peersDown = s.peersDown := rfl
@[simp] theorem State.setFolio_walks : (s.setFolio c f).walks = s.walks := rfl
@[simp] theorem State.setFolio_walked : (s.setFolio c f).walked = s.walked := rfl
@[simp] theorem State.setFolio_badWalks : (s.setFolio c f).badWalks = s.badWalks := rfl
@[simp] theorem State.setFolio_badReads : (s.setFolio c f).badReads = s.badReads := rfl
@[simp] theorem State.setFolio_nodes : (s.setFolio c f).nodes = s.nodes := rfl
@[simp] theorem State.setFolio_spawnUsed : (s.setFolio c f).spawnUsed = s.spawnUsed := rfl
@[simp] theorem State.setFolio_spawnLate : (s.setFolio c f).spawnLate = s.spawnLate := rfl
@[simp] theorem State.setFolio_waitHead : (s.setFolio c f).waitHead = s.waitHead := rfl
@[simp] theorem State.setFolio_quires : (s.setFolio c f).quires = s.quires := rfl
@[simp] theorem State.setFolio_passes : (s.setFolio c f).passes = s.passes := rfl
@[simp] theorem State.setFolio_rays : (s.setFolio c f).rays = s.rays := rfl
@[simp] theorem State.setFolio_huddles : (s.setFolio c f).huddles = s.huddles := rfl
@[simp] theorem State.setFolio_serving : (s.setFolio c f).serving = s.serving := rfl
end

section
variable (c : Nat) (f : Node → Node)
@[simp] theorem State.setNode_cycle : (s.setNode c f).cycle = s.cycle := rfl
@[simp] theorem State.setNode_agenda : (s.setNode c f).agenda = s.agenda := rfl
@[simp] theorem State.setNode_turn : (s.setNode c f).turn = s.turn := rfl
@[simp] theorem State.setNode_fresh : (s.setNode c f).fresh = s.fresh := rfl
@[simp] theorem State.setNode_cur : (s.setNode c f).cur = s.cur := rfl
@[simp] theorem State.setNode_nextId : (s.setNode c f).nextId = s.nextId := rfl
@[simp] theorem State.setNode_boot : (s.setNode c f).boot = s.boot := rfl
@[simp] theorem State.setNode_fwOk : (s.setNode c f).fwOk = s.fwOk := rfl
@[simp] theorem State.setNode_ready : (s.setNode c f).ready = s.ready := rfl
@[simp] theorem State.setNode_product : (s.setNode c f).product = s.product := rfl
@[simp] theorem State.setNode_installed : (s.setNode c f).installed = s.installed := rfl
@[simp] theorem State.setNode_hostCache : (s.setNode c f).hostCache = s.hostCache := rfl
@[simp] theorem State.setNode_hostMem : (s.setNode c f).hostMem = s.hostMem := rfl
@[simp] theorem State.setNode_meas : (s.setNode c f).meas = s.meas := rfl
@[simp] theorem State.setNode_spdm : (s.setNode c f).spdm = s.spdm := rfl
@[simp] theorem State.setNode_fabEn : (s.setNode c f).fabEn = s.fabEn := rfl
@[simp] theorem State.setNode_devnum : (s.setNode c f).devnum = s.devnum := rfl
@[simp] theorem State.setNode_mstPriv : (s.setNode c f).mstPriv = s.mstPriv := rfl
@[simp] theorem State.setNode_retmax : (s.setNode c f).retmax = s.retmax := rfl
@[simp] theorem State.setNode_powLimit : (s.setNode c f).powLimit = s.powLimit := rfl
@[simp] theorem State.setNode_extra : (s.setNode c f).extra = s.extra := rfl
@[simp] theorem State.setNode_est : (s.setNode c f).est = s.est := rfl
@[simp] theorem State.setNode_corrected : (s.setNode c f).corrected = s.corrected := rfl
@[simp] theorem State.setNode_routeTab : (s.setNode c f).routeTab = s.routeTab := rfl
@[simp] theorem State.setNode_exportTab : (s.setNode c f).exportTab = s.exportTab := rfl
@[simp] theorem State.setNode_ports : (s.setNode c f).ports = s.ports := rfl
@[simp] theorem State.setNode_ctxs : (s.setNode c f).ctxs = s.ctxs := rfl
@[simp] theorem State.setNode_masters : (s.setNode c f).masters = s.masters := rfl
@[simp] theorem State.setNode_gaths : (s.setNode c f).gaths = s.gaths := rfl
@[simp] theorem State.setNode_cores : (s.setNode c f).cores = s.cores := rfl
@[simp] theorem State.setNode_mem : (s.setNode c f).mem = s.mem := rfl
@[simp] theorem State.setNode_stale : (s.setNode c f).stale = s.stale := rfl
@[simp] theorem State.setNode_keyTags : (s.setNode c f).keyTags = s.keyTags := rfl
@[simp] theorem State.setNode_homes : (s.setNode c f).homes = s.homes := rfl
@[simp] theorem State.setNode_ptrs : (s.setNode c f).ptrs = s.ptrs := rfl
@[simp] theorem State.setNode_monitors : (s.setNode c f).monitors = s.monitors := rfl
@[simp] theorem State.setNode_held : (s.setNode c f).held = s.held := rfl
@[simp] theorem State.setNode_msgs : (s.setNode c f).msgs = s.msgs := rfl
@[simp] theorem State.setNode_persists : (s.setNode c f).persists = s.persists := rfl
@[simp] theorem State.setNode_pending : (s.setNode c f).pending = s.pending := rfl
@[simp] theorem State.setNode_leases : (s.setNode c f).leases = s.leases := rfl
@[simp] theorem State.setNode_bridges : (s.setNode c f).bridges = s.bridges := rfl
@[simp] theorem State.setNode_hostLines : (s.setNode c f).hostLines = s.hostLines := rfl
@[simp] theorem State.setNode_peerTab : (s.setNode c f).peerTab = s.peerTab := rfl
@[simp] theorem State.setNode_peerAsks : (s.setNode c f).peerAsks = s.peerAsks := rfl
@[simp] theorem State.setNode_peerOwns : (s.setNode c f).peerOwns = s.peerOwns := rfl
@[simp] theorem State.setNode_peersDown : (s.setNode c f).peersDown = s.peersDown := rfl
@[simp] theorem State.setNode_walks : (s.setNode c f).walks = s.walks := rfl
@[simp] theorem State.setNode_walked : (s.setNode c f).walked = s.walked := rfl
@[simp] theorem State.setNode_badWalks : (s.setNode c f).badWalks = s.badWalks := rfl
@[simp] theorem State.setNode_badReads : (s.setNode c f).badReads = s.badReads := rfl
@[simp] theorem State.setNode_spawnUsed : (s.setNode c f).spawnUsed = s.spawnUsed := rfl
@[simp] theorem State.setNode_spawnLate : (s.setNode c f).spawnLate = s.spawnLate := rfl
@[simp] theorem State.setNode_folios : (s.setNode c f).folios = s.folios := rfl
@[simp] theorem State.setNode_waitHead : (s.setNode c f).waitHead = s.waitHead := rfl
@[simp] theorem State.setNode_quires : (s.setNode c f).quires = s.quires := rfl
@[simp] theorem State.setNode_passes : (s.setNode c f).passes = s.passes := rfl
@[simp] theorem State.setNode_rays : (s.setNode c f).rays = s.rays := rfl
@[simp] theorem State.setNode_huddles : (s.setNode c f).huddles = s.huddles := rfl
@[simp] theorem State.setNode_serving : (s.setNode c f).serving = s.serving := rfl
end

section
variable (c : Nat) (f : Pass → Pass)
@[simp] theorem State.setPass_cycle : (s.setPass c f).cycle = s.cycle := rfl
@[simp] theorem State.setPass_agenda : (s.setPass c f).agenda = s.agenda := rfl
@[simp] theorem State.setPass_turn : (s.setPass c f).turn = s.turn := rfl
@[simp] theorem State.setPass_fresh : (s.setPass c f).fresh = s.fresh := rfl
@[simp] theorem State.setPass_cur : (s.setPass c f).cur = s.cur := rfl
@[simp] theorem State.setPass_nextId : (s.setPass c f).nextId = s.nextId := rfl
@[simp] theorem State.setPass_boot : (s.setPass c f).boot = s.boot := rfl
@[simp] theorem State.setPass_fwOk : (s.setPass c f).fwOk = s.fwOk := rfl
@[simp] theorem State.setPass_ready : (s.setPass c f).ready = s.ready := rfl
@[simp] theorem State.setPass_product : (s.setPass c f).product = s.product := rfl
@[simp] theorem State.setPass_installed : (s.setPass c f).installed = s.installed := rfl
@[simp] theorem State.setPass_hostCache : (s.setPass c f).hostCache = s.hostCache := rfl
@[simp] theorem State.setPass_hostMem : (s.setPass c f).hostMem = s.hostMem := rfl
@[simp] theorem State.setPass_meas : (s.setPass c f).meas = s.meas := rfl
@[simp] theorem State.setPass_spdm : (s.setPass c f).spdm = s.spdm := rfl
@[simp] theorem State.setPass_fabEn : (s.setPass c f).fabEn = s.fabEn := rfl
@[simp] theorem State.setPass_devnum : (s.setPass c f).devnum = s.devnum := rfl
@[simp] theorem State.setPass_mstPriv : (s.setPass c f).mstPriv = s.mstPriv := rfl
@[simp] theorem State.setPass_retmax : (s.setPass c f).retmax = s.retmax := rfl
@[simp] theorem State.setPass_powLimit : (s.setPass c f).powLimit = s.powLimit := rfl
@[simp] theorem State.setPass_extra : (s.setPass c f).extra = s.extra := rfl
@[simp] theorem State.setPass_est : (s.setPass c f).est = s.est := rfl
@[simp] theorem State.setPass_corrected : (s.setPass c f).corrected = s.corrected := rfl
@[simp] theorem State.setPass_routeTab : (s.setPass c f).routeTab = s.routeTab := rfl
@[simp] theorem State.setPass_exportTab : (s.setPass c f).exportTab = s.exportTab := rfl
@[simp] theorem State.setPass_ports : (s.setPass c f).ports = s.ports := rfl
@[simp] theorem State.setPass_ctxs : (s.setPass c f).ctxs = s.ctxs := rfl
@[simp] theorem State.setPass_masters : (s.setPass c f).masters = s.masters := rfl
@[simp] theorem State.setPass_gaths : (s.setPass c f).gaths = s.gaths := rfl
@[simp] theorem State.setPass_cores : (s.setPass c f).cores = s.cores := rfl
@[simp] theorem State.setPass_mem : (s.setPass c f).mem = s.mem := rfl
@[simp] theorem State.setPass_stale : (s.setPass c f).stale = s.stale := rfl
@[simp] theorem State.setPass_keyTags : (s.setPass c f).keyTags = s.keyTags := rfl
@[simp] theorem State.setPass_homes : (s.setPass c f).homes = s.homes := rfl
@[simp] theorem State.setPass_ptrs : (s.setPass c f).ptrs = s.ptrs := rfl
@[simp] theorem State.setPass_monitors : (s.setPass c f).monitors = s.monitors := rfl
@[simp] theorem State.setPass_held : (s.setPass c f).held = s.held := rfl
@[simp] theorem State.setPass_msgs : (s.setPass c f).msgs = s.msgs := rfl
@[simp] theorem State.setPass_persists : (s.setPass c f).persists = s.persists := rfl
@[simp] theorem State.setPass_pending : (s.setPass c f).pending = s.pending := rfl
@[simp] theorem State.setPass_leases : (s.setPass c f).leases = s.leases := rfl
@[simp] theorem State.setPass_bridges : (s.setPass c f).bridges = s.bridges := rfl
@[simp] theorem State.setPass_hostLines : (s.setPass c f).hostLines = s.hostLines := rfl
@[simp] theorem State.setPass_peerTab : (s.setPass c f).peerTab = s.peerTab := rfl
@[simp] theorem State.setPass_peerAsks : (s.setPass c f).peerAsks = s.peerAsks := rfl
@[simp] theorem State.setPass_peerOwns : (s.setPass c f).peerOwns = s.peerOwns := rfl
@[simp] theorem State.setPass_peersDown : (s.setPass c f).peersDown = s.peersDown := rfl
@[simp] theorem State.setPass_walks : (s.setPass c f).walks = s.walks := rfl
@[simp] theorem State.setPass_walked : (s.setPass c f).walked = s.walked := rfl
@[simp] theorem State.setPass_badWalks : (s.setPass c f).badWalks = s.badWalks := rfl
@[simp] theorem State.setPass_badReads : (s.setPass c f).badReads = s.badReads := rfl
@[simp] theorem State.setPass_nodes : (s.setPass c f).nodes = s.nodes := rfl
@[simp] theorem State.setPass_spawnUsed : (s.setPass c f).spawnUsed = s.spawnUsed := rfl
@[simp] theorem State.setPass_spawnLate : (s.setPass c f).spawnLate = s.spawnLate := rfl
@[simp] theorem State.setPass_folios : (s.setPass c f).folios = s.folios := rfl
@[simp] theorem State.setPass_waitHead : (s.setPass c f).waitHead = s.waitHead := rfl
@[simp] theorem State.setPass_quires : (s.setPass c f).quires = s.quires := rfl
@[simp] theorem State.setPass_rays : (s.setPass c f).rays = s.rays := rfl
@[simp] theorem State.setPass_huddles : (s.setPass c f).huddles = s.huddles := rfl
@[simp] theorem State.setPass_serving : (s.setPass c f).serving = s.serving := rfl
end

section
variable (l : List Move)
@[simp] theorem State.push_cycle : (s.push l).cycle = s.cycle := rfl
@[simp] theorem State.push_turn : (s.push l).turn = s.turn := rfl
@[simp] theorem State.push_fresh : (s.push l).fresh = s.fresh := rfl
@[simp] theorem State.push_cur : (s.push l).cur = s.cur := rfl
@[simp] theorem State.push_nextId : (s.push l).nextId = s.nextId := rfl
@[simp] theorem State.push_boot : (s.push l).boot = s.boot := rfl
@[simp] theorem State.push_fwOk : (s.push l).fwOk = s.fwOk := rfl
@[simp] theorem State.push_ready : (s.push l).ready = s.ready := rfl
@[simp] theorem State.push_product : (s.push l).product = s.product := rfl
@[simp] theorem State.push_installed : (s.push l).installed = s.installed := rfl
@[simp] theorem State.push_hostCache : (s.push l).hostCache = s.hostCache := rfl
@[simp] theorem State.push_hostMem : (s.push l).hostMem = s.hostMem := rfl
@[simp] theorem State.push_meas : (s.push l).meas = s.meas := rfl
@[simp] theorem State.push_spdm : (s.push l).spdm = s.spdm := rfl
@[simp] theorem State.push_fabEn : (s.push l).fabEn = s.fabEn := rfl
@[simp] theorem State.push_devnum : (s.push l).devnum = s.devnum := rfl
@[simp] theorem State.push_mstPriv : (s.push l).mstPriv = s.mstPriv := rfl
@[simp] theorem State.push_retmax : (s.push l).retmax = s.retmax := rfl
@[simp] theorem State.push_powLimit : (s.push l).powLimit = s.powLimit := rfl
@[simp] theorem State.push_extra : (s.push l).extra = s.extra := rfl
@[simp] theorem State.push_est : (s.push l).est = s.est := rfl
@[simp] theorem State.push_corrected : (s.push l).corrected = s.corrected := rfl
@[simp] theorem State.push_routeTab : (s.push l).routeTab = s.routeTab := rfl
@[simp] theorem State.push_exportTab : (s.push l).exportTab = s.exportTab := rfl
@[simp] theorem State.push_ports : (s.push l).ports = s.ports := rfl
@[simp] theorem State.push_ctxs : (s.push l).ctxs = s.ctxs := rfl
@[simp] theorem State.push_masters : (s.push l).masters = s.masters := rfl
@[simp] theorem State.push_gaths : (s.push l).gaths = s.gaths := rfl
@[simp] theorem State.push_cores : (s.push l).cores = s.cores := rfl
@[simp] theorem State.push_mem : (s.push l).mem = s.mem := rfl
@[simp] theorem State.push_stale : (s.push l).stale = s.stale := rfl
@[simp] theorem State.push_keyTags : (s.push l).keyTags = s.keyTags := rfl
@[simp] theorem State.push_homes : (s.push l).homes = s.homes := rfl
@[simp] theorem State.push_ptrs : (s.push l).ptrs = s.ptrs := rfl
@[simp] theorem State.push_monitors : (s.push l).monitors = s.monitors := rfl
@[simp] theorem State.push_held : (s.push l).held = s.held := rfl
@[simp] theorem State.push_msgs : (s.push l).msgs = s.msgs := rfl
@[simp] theorem State.push_persists : (s.push l).persists = s.persists := rfl
@[simp] theorem State.push_pending : (s.push l).pending = s.pending := rfl
@[simp] theorem State.push_leases : (s.push l).leases = s.leases := rfl
@[simp] theorem State.push_bridges : (s.push l).bridges = s.bridges := rfl
@[simp] theorem State.push_hostLines : (s.push l).hostLines = s.hostLines := rfl
@[simp] theorem State.push_peerTab : (s.push l).peerTab = s.peerTab := rfl
@[simp] theorem State.push_peerAsks : (s.push l).peerAsks = s.peerAsks := rfl
@[simp] theorem State.push_peerOwns : (s.push l).peerOwns = s.peerOwns := rfl
@[simp] theorem State.push_peersDown : (s.push l).peersDown = s.peersDown := rfl
@[simp] theorem State.push_walks : (s.push l).walks = s.walks := rfl
@[simp] theorem State.push_walked : (s.push l).walked = s.walked := rfl
@[simp] theorem State.push_badWalks : (s.push l).badWalks = s.badWalks := rfl
@[simp] theorem State.push_badReads : (s.push l).badReads = s.badReads := rfl
@[simp] theorem State.push_nodes : (s.push l).nodes = s.nodes := rfl
@[simp] theorem State.push_spawnUsed : (s.push l).spawnUsed = s.spawnUsed := rfl
@[simp] theorem State.push_spawnLate : (s.push l).spawnLate = s.spawnLate := rfl
@[simp] theorem State.push_folios : (s.push l).folios = s.folios := rfl
@[simp] theorem State.push_waitHead : (s.push l).waitHead = s.waitHead := rfl
@[simp] theorem State.push_quires : (s.push l).quires = s.quires := rfl
@[simp] theorem State.push_passes : (s.push l).passes = s.passes := rfl
@[simp] theorem State.push_rays : (s.push l).rays = s.rays := rfl
@[simp] theorem State.push_huddles : (s.push l).huddles = s.huddles := rfl
@[simp] theorem State.push_serving : (s.push l).serving = s.serving := rfl
end

section
variable (l : List Move)
@[simp] theorem State.later_cycle : (s.later l).cycle = s.cycle := rfl
@[simp] theorem State.later_turn : (s.later l).turn = s.turn := rfl
@[simp] theorem State.later_fresh : (s.later l).fresh = s.fresh := rfl
@[simp] theorem State.later_cur : (s.later l).cur = s.cur := rfl
@[simp] theorem State.later_nextId : (s.later l).nextId = s.nextId := rfl
@[simp] theorem State.later_boot : (s.later l).boot = s.boot := rfl
@[simp] theorem State.later_fwOk : (s.later l).fwOk = s.fwOk := rfl
@[simp] theorem State.later_ready : (s.later l).ready = s.ready := rfl
@[simp] theorem State.later_product : (s.later l).product = s.product := rfl
@[simp] theorem State.later_installed : (s.later l).installed = s.installed := rfl
@[simp] theorem State.later_hostCache : (s.later l).hostCache = s.hostCache := rfl
@[simp] theorem State.later_hostMem : (s.later l).hostMem = s.hostMem := rfl
@[simp] theorem State.later_meas : (s.later l).meas = s.meas := rfl
@[simp] theorem State.later_spdm : (s.later l).spdm = s.spdm := rfl
@[simp] theorem State.later_fabEn : (s.later l).fabEn = s.fabEn := rfl
@[simp] theorem State.later_devnum : (s.later l).devnum = s.devnum := rfl
@[simp] theorem State.later_mstPriv : (s.later l).mstPriv = s.mstPriv := rfl
@[simp] theorem State.later_retmax : (s.later l).retmax = s.retmax := rfl
@[simp] theorem State.later_powLimit : (s.later l).powLimit = s.powLimit := rfl
@[simp] theorem State.later_extra : (s.later l).extra = s.extra := rfl
@[simp] theorem State.later_est : (s.later l).est = s.est := rfl
@[simp] theorem State.later_corrected : (s.later l).corrected = s.corrected := rfl
@[simp] theorem State.later_routeTab : (s.later l).routeTab = s.routeTab := rfl
@[simp] theorem State.later_exportTab : (s.later l).exportTab = s.exportTab := rfl
@[simp] theorem State.later_ports : (s.later l).ports = s.ports := rfl
@[simp] theorem State.later_ctxs : (s.later l).ctxs = s.ctxs := rfl
@[simp] theorem State.later_masters : (s.later l).masters = s.masters := rfl
@[simp] theorem State.later_gaths : (s.later l).gaths = s.gaths := rfl
@[simp] theorem State.later_cores : (s.later l).cores = s.cores := rfl
@[simp] theorem State.later_mem : (s.later l).mem = s.mem := rfl
@[simp] theorem State.later_stale : (s.later l).stale = s.stale := rfl
@[simp] theorem State.later_keyTags : (s.later l).keyTags = s.keyTags := rfl
@[simp] theorem State.later_homes : (s.later l).homes = s.homes := rfl
@[simp] theorem State.later_ptrs : (s.later l).ptrs = s.ptrs := rfl
@[simp] theorem State.later_monitors : (s.later l).monitors = s.monitors := rfl
@[simp] theorem State.later_held : (s.later l).held = s.held := rfl
@[simp] theorem State.later_msgs : (s.later l).msgs = s.msgs := rfl
@[simp] theorem State.later_persists : (s.later l).persists = s.persists := rfl
@[simp] theorem State.later_pending : (s.later l).pending = s.pending := rfl
@[simp] theorem State.later_leases : (s.later l).leases = s.leases := rfl
@[simp] theorem State.later_bridges : (s.later l).bridges = s.bridges := rfl
@[simp] theorem State.later_hostLines : (s.later l).hostLines = s.hostLines := rfl
@[simp] theorem State.later_peerTab : (s.later l).peerTab = s.peerTab := rfl
@[simp] theorem State.later_peerAsks : (s.later l).peerAsks = s.peerAsks := rfl
@[simp] theorem State.later_peerOwns : (s.later l).peerOwns = s.peerOwns := rfl
@[simp] theorem State.later_peersDown : (s.later l).peersDown = s.peersDown := rfl
@[simp] theorem State.later_walks : (s.later l).walks = s.walks := rfl
@[simp] theorem State.later_walked : (s.later l).walked = s.walked := rfl
@[simp] theorem State.later_badWalks : (s.later l).badWalks = s.badWalks := rfl
@[simp] theorem State.later_badReads : (s.later l).badReads = s.badReads := rfl
@[simp] theorem State.later_nodes : (s.later l).nodes = s.nodes := rfl
@[simp] theorem State.later_spawnUsed : (s.later l).spawnUsed = s.spawnUsed := rfl
@[simp] theorem State.later_spawnLate : (s.later l).spawnLate = s.spawnLate := rfl
@[simp] theorem State.later_folios : (s.later l).folios = s.folios := rfl
@[simp] theorem State.later_waitHead : (s.later l).waitHead = s.waitHead := rfl
@[simp] theorem State.later_quires : (s.later l).quires = s.quires := rfl
@[simp] theorem State.later_passes : (s.later l).passes = s.passes := rfl
@[simp] theorem State.later_rays : (s.later l).rays = s.rays := rfl
@[simp] theorem State.later_huddles : (s.later l).huddles = s.huddles := rfl
@[simp] theorem State.later_serving : (s.later l).serving = s.serving := rfl
end

section
variable (l : Nat) (f : Home → Home)
@[simp] theorem setHome_cycle : (setHome s l f).cycle = s.cycle := rfl
@[simp] theorem setHome_agenda : (setHome s l f).agenda = s.agenda := rfl
@[simp] theorem setHome_turn : (setHome s l f).turn = s.turn := rfl
@[simp] theorem setHome_fresh : (setHome s l f).fresh = s.fresh := rfl
@[simp] theorem setHome_cur : (setHome s l f).cur = s.cur := rfl
@[simp] theorem setHome_nextId : (setHome s l f).nextId = s.nextId := rfl
@[simp] theorem setHome_boot : (setHome s l f).boot = s.boot := rfl
@[simp] theorem setHome_fwOk : (setHome s l f).fwOk = s.fwOk := rfl
@[simp] theorem setHome_ready : (setHome s l f).ready = s.ready := rfl
@[simp] theorem setHome_product : (setHome s l f).product = s.product := rfl
@[simp] theorem setHome_installed : (setHome s l f).installed = s.installed := rfl
@[simp] theorem setHome_hostCache : (setHome s l f).hostCache = s.hostCache := rfl
@[simp] theorem setHome_hostMem : (setHome s l f).hostMem = s.hostMem := rfl
@[simp] theorem setHome_meas : (setHome s l f).meas = s.meas := rfl
@[simp] theorem setHome_spdm : (setHome s l f).spdm = s.spdm := rfl
@[simp] theorem setHome_fabEn : (setHome s l f).fabEn = s.fabEn := rfl
@[simp] theorem setHome_devnum : (setHome s l f).devnum = s.devnum := rfl
@[simp] theorem setHome_mstPriv : (setHome s l f).mstPriv = s.mstPriv := rfl
@[simp] theorem setHome_retmax : (setHome s l f).retmax = s.retmax := rfl
@[simp] theorem setHome_powLimit : (setHome s l f).powLimit = s.powLimit := rfl
@[simp] theorem setHome_extra : (setHome s l f).extra = s.extra := rfl
@[simp] theorem setHome_est : (setHome s l f).est = s.est := rfl
@[simp] theorem setHome_corrected : (setHome s l f).corrected = s.corrected := rfl
@[simp] theorem setHome_routeTab : (setHome s l f).routeTab = s.routeTab := rfl
@[simp] theorem setHome_exportTab : (setHome s l f).exportTab = s.exportTab := rfl
@[simp] theorem setHome_ports : (setHome s l f).ports = s.ports := rfl
@[simp] theorem setHome_ctxs : (setHome s l f).ctxs = s.ctxs := rfl
@[simp] theorem setHome_masters : (setHome s l f).masters = s.masters := rfl
@[simp] theorem setHome_gaths : (setHome s l f).gaths = s.gaths := rfl
@[simp] theorem setHome_cores : (setHome s l f).cores = s.cores := rfl
@[simp] theorem setHome_mem : (setHome s l f).mem = s.mem := rfl
@[simp] theorem setHome_stale : (setHome s l f).stale = s.stale := rfl
@[simp] theorem setHome_keyTags : (setHome s l f).keyTags = s.keyTags := rfl
@[simp] theorem setHome_ptrs : (setHome s l f).ptrs = s.ptrs := rfl
@[simp] theorem setHome_monitors : (setHome s l f).monitors = s.monitors := rfl
@[simp] theorem setHome_held : (setHome s l f).held = s.held := rfl
@[simp] theorem setHome_msgs : (setHome s l f).msgs = s.msgs := rfl
@[simp] theorem setHome_persists : (setHome s l f).persists = s.persists := rfl
@[simp] theorem setHome_pending : (setHome s l f).pending = s.pending := rfl
@[simp] theorem setHome_leases : (setHome s l f).leases = s.leases := rfl
@[simp] theorem setHome_bridges : (setHome s l f).bridges = s.bridges := rfl
@[simp] theorem setHome_hostLines : (setHome s l f).hostLines = s.hostLines := rfl
@[simp] theorem setHome_peerTab : (setHome s l f).peerTab = s.peerTab := rfl
@[simp] theorem setHome_peerAsks : (setHome s l f).peerAsks = s.peerAsks := rfl
@[simp] theorem setHome_peerOwns : (setHome s l f).peerOwns = s.peerOwns := rfl
@[simp] theorem setHome_peersDown : (setHome s l f).peersDown = s.peersDown := rfl
@[simp] theorem setHome_walks : (setHome s l f).walks = s.walks := rfl
@[simp] theorem setHome_walked : (setHome s l f).walked = s.walked := rfl
@[simp] theorem setHome_badWalks : (setHome s l f).badWalks = s.badWalks := rfl
@[simp] theorem setHome_badReads : (setHome s l f).badReads = s.badReads := rfl
@[simp] theorem setHome_nodes : (setHome s l f).nodes = s.nodes := rfl
@[simp] theorem setHome_spawnUsed : (setHome s l f).spawnUsed = s.spawnUsed := rfl
@[simp] theorem setHome_spawnLate : (setHome s l f).spawnLate = s.spawnLate := rfl
@[simp] theorem setHome_folios : (setHome s l f).folios = s.folios := rfl
@[simp] theorem setHome_waitHead : (setHome s l f).waitHead = s.waitHead := rfl
@[simp] theorem setHome_quires : (setHome s l f).quires = s.quires := rfl
@[simp] theorem setHome_passes : (setHome s l f).passes = s.passes := rfl
@[simp] theorem setHome_rays : (setHome s l f).rays = s.rays := rfl
@[simp] theorem setHome_huddles : (setHome s l f).huddles = s.huddles := rfl
@[simp] theorem setHome_serving : (setHome s l f).serving = s.serving := rfl
end

section
variable (a l : Nat) (f : Held → Held)
@[simp] theorem setHeld_cycle : (setHeld s a l f).cycle = s.cycle := rfl
@[simp] theorem setHeld_agenda : (setHeld s a l f).agenda = s.agenda := rfl
@[simp] theorem setHeld_turn : (setHeld s a l f).turn = s.turn := rfl
@[simp] theorem setHeld_fresh : (setHeld s a l f).fresh = s.fresh := rfl
@[simp] theorem setHeld_cur : (setHeld s a l f).cur = s.cur := rfl
@[simp] theorem setHeld_nextId : (setHeld s a l f).nextId = s.nextId := rfl
@[simp] theorem setHeld_boot : (setHeld s a l f).boot = s.boot := rfl
@[simp] theorem setHeld_fwOk : (setHeld s a l f).fwOk = s.fwOk := rfl
@[simp] theorem setHeld_ready : (setHeld s a l f).ready = s.ready := rfl
@[simp] theorem setHeld_product : (setHeld s a l f).product = s.product := rfl
@[simp] theorem setHeld_installed : (setHeld s a l f).installed = s.installed := rfl
@[simp] theorem setHeld_hostCache : (setHeld s a l f).hostCache = s.hostCache := rfl
@[simp] theorem setHeld_hostMem : (setHeld s a l f).hostMem = s.hostMem := rfl
@[simp] theorem setHeld_meas : (setHeld s a l f).meas = s.meas := rfl
@[simp] theorem setHeld_spdm : (setHeld s a l f).spdm = s.spdm := rfl
@[simp] theorem setHeld_fabEn : (setHeld s a l f).fabEn = s.fabEn := rfl
@[simp] theorem setHeld_devnum : (setHeld s a l f).devnum = s.devnum := rfl
@[simp] theorem setHeld_mstPriv : (setHeld s a l f).mstPriv = s.mstPriv := rfl
@[simp] theorem setHeld_retmax : (setHeld s a l f).retmax = s.retmax := rfl
@[simp] theorem setHeld_powLimit : (setHeld s a l f).powLimit = s.powLimit := rfl
@[simp] theorem setHeld_extra : (setHeld s a l f).extra = s.extra := rfl
@[simp] theorem setHeld_est : (setHeld s a l f).est = s.est := rfl
@[simp] theorem setHeld_corrected : (setHeld s a l f).corrected = s.corrected := rfl
@[simp] theorem setHeld_routeTab : (setHeld s a l f).routeTab = s.routeTab := rfl
@[simp] theorem setHeld_exportTab : (setHeld s a l f).exportTab = s.exportTab := rfl
@[simp] theorem setHeld_ports : (setHeld s a l f).ports = s.ports := rfl
@[simp] theorem setHeld_ctxs : (setHeld s a l f).ctxs = s.ctxs := rfl
@[simp] theorem setHeld_masters : (setHeld s a l f).masters = s.masters := rfl
@[simp] theorem setHeld_gaths : (setHeld s a l f).gaths = s.gaths := rfl
@[simp] theorem setHeld_cores : (setHeld s a l f).cores = s.cores := rfl
@[simp] theorem setHeld_mem : (setHeld s a l f).mem = s.mem := rfl
@[simp] theorem setHeld_stale : (setHeld s a l f).stale = s.stale := rfl
@[simp] theorem setHeld_keyTags : (setHeld s a l f).keyTags = s.keyTags := rfl
@[simp] theorem setHeld_homes : (setHeld s a l f).homes = s.homes := rfl
@[simp] theorem setHeld_ptrs : (setHeld s a l f).ptrs = s.ptrs := rfl
@[simp] theorem setHeld_monitors : (setHeld s a l f).monitors = s.monitors := rfl
@[simp] theorem setHeld_msgs : (setHeld s a l f).msgs = s.msgs := rfl
@[simp] theorem setHeld_persists : (setHeld s a l f).persists = s.persists := rfl
@[simp] theorem setHeld_pending : (setHeld s a l f).pending = s.pending := rfl
@[simp] theorem setHeld_leases : (setHeld s a l f).leases = s.leases := rfl
@[simp] theorem setHeld_bridges : (setHeld s a l f).bridges = s.bridges := rfl
@[simp] theorem setHeld_hostLines : (setHeld s a l f).hostLines = s.hostLines := rfl
@[simp] theorem setHeld_peerTab : (setHeld s a l f).peerTab = s.peerTab := rfl
@[simp] theorem setHeld_peerAsks : (setHeld s a l f).peerAsks = s.peerAsks := rfl
@[simp] theorem setHeld_peerOwns : (setHeld s a l f).peerOwns = s.peerOwns := rfl
@[simp] theorem setHeld_peersDown : (setHeld s a l f).peersDown = s.peersDown := rfl
@[simp] theorem setHeld_walks : (setHeld s a l f).walks = s.walks := rfl
@[simp] theorem setHeld_walked : (setHeld s a l f).walked = s.walked := rfl
@[simp] theorem setHeld_badWalks : (setHeld s a l f).badWalks = s.badWalks := rfl
@[simp] theorem setHeld_badReads : (setHeld s a l f).badReads = s.badReads := rfl
@[simp] theorem setHeld_nodes : (setHeld s a l f).nodes = s.nodes := rfl
@[simp] theorem setHeld_spawnUsed : (setHeld s a l f).spawnUsed = s.spawnUsed := rfl
@[simp] theorem setHeld_spawnLate : (setHeld s a l f).spawnLate = s.spawnLate := rfl
@[simp] theorem setHeld_folios : (setHeld s a l f).folios = s.folios := rfl
@[simp] theorem setHeld_waitHead : (setHeld s a l f).waitHead = s.waitHead := rfl
@[simp] theorem setHeld_quires : (setHeld s a l f).quires = s.quires := rfl
@[simp] theorem setHeld_passes : (setHeld s a l f).passes = s.passes := rfl
@[simp] theorem setHeld_rays : (setHeld s a l f).rays = s.rays := rfl
@[simp] theorem setHeld_huddles : (setHeld s a l f).huddles = s.huddles := rfl
@[simp] theorem setHeld_serving : (setHeld s a l f).serving = s.serving := rfl
end

theorem find_updWhere {α : Type} (p r : α → Bool) (f : α → α) (l : List α) (h : ∀ x, p x = true → r (f x) = r x) :
    (updWhere p f l).find? r = (l.find? r).map fun x => if p x then f x else x := by
  induction l with
  | nil => rfl
  | cons a l ih =>
    have hr : r (if p a then f a else a) = r a := by
      by_cases hp : p a = true
      · rw [if_pos hp]; exact h a hp
      · rw [if_neg hp]
    rw [updWhere, List.map_cons, List.find?_cons, List.find?_cons, hr]
    cases r a
    · exact ih
    · rfl

/-- A quire after a change that keeps its slot: the changed one at that slot, every other as before. -/
theorem State.quire_setQuire (q r : Slot) (f : Quire → Quire) (h : ∀ x, (f x).slot = x.slot) :
    (s.setQuire q f).quire r = (s.quire r).map fun x => if x.slot == q then f x else x :=
  find_updWhere _ _ f s.quires fun x _ => by rw [h x]

theorem State.folio_setFolio (i j : Nat) (f : Folio → Folio) (h : ∀ x, (f x).id = x.id) :
    (s.setFolio i f).folio j = (s.folio j).map fun x => if x.id == i then f x else x :=
  find_updWhere _ _ f s.folios fun x _ => by rw [h x]

theorem State.node_setNode (i j : Nat) (f : Node → Node) (h : ∀ x, (f x).id = x.id) :
    (s.setNode i f).node j = (s.node j).map fun x => if x.id == i then f x else x :=
  find_updWhere _ _ f s.nodes fun x _ => by rw [h x]

theorem State.pass_setPass (i j : Nat) (f : Pass → Pass) (h : ∀ x, (f x).id = x.id) :
    (s.setPass i f).pass j = (s.pass j).map fun x => if x.id == i then f x else x :=
  find_updWhere _ _ f s.passes fun x _ => by rw [h x]

theorem State.ctx_setCtx (c d : Nat) (f : Ctx → Ctx) (h : c < s.ctxs.length) :
    (s.setCtx c f).ctx d = if c = d then f (s.ctx d) else s.ctx d := by
  simp only [State.ctx, State.setCtx, List.getD_eq_getElem?_getD, List.getElem?_modify]
  by_cases hd : c = d
  · subst hd; simp [h]
  · simp [hd]

theorem State.gath_setGath (c d : Nat) (f : Gath → Gath) (h : c < s.gaths.length) :
    (s.setGath c f).gath d = if c = d then f (s.gath d) else s.gath d := by
  simp only [State.gath, State.setGath, List.getD_eq_getElem?_getD, List.getElem?_modify]
  by_cases hd : c = d
  · subst hd; simp [h]
  · simp [hd]

theorem State.master_setMaster (c d : Nat) (f : Master → Master) (h : c < s.masters.length) :
    (s.setMaster c f).master d = if c = d then f (s.master d) else s.master d := by
  simp only [State.master, State.setMaster, List.getD_eq_getElem?_getD, List.getElem?_modify]
  by_cases hd : c = d
  · subst hd; simp [h]
  · simp [hd]

end Sys2Proof.Machine
end

