-- ==== Sys2Proof/Laws/Coh.lean ====
section
/-! SUPPORT. The coherence operations and memory: which of them leave memory alone, and that those that write keep its
canonical form. -/

namespace Sys2Proof.Machine

variable (s : State)

@[simp] theorem tokensLeave_mem (g l : Nat) : (tokensLeave s g l).mem = s.mem := rfl
@[simp] theorem storeStrikes_mem (g l : Nat) (q : Option Slot) : (storeStrikes s g l q).mem = s.mem := rfl
@[simp] theorem cleanLine_mem (l : Nat) : (cleanLine s l).mem = s.mem := rfl
@[simp] theorem keepStale_mem (l : Loc) : (keepStale s l).mem = s.mem := by unfold keepStale; split <;> rfl
@[simp] theorem winWrite_mem (f o : Nat) (b : Byte) : (winWrite s f o b).mem = s.mem := rfl
@[simp] theorem setWin_mem (f l : Nat) (g : WinLine → WinLine) : (setWin s f l g).mem = s.mem := rfl
@[simp] theorem wakeGath_mem (a : Nat) : (wakeGath s a).mem = s.mem := rfl
@[simp] theorem awayStrikes_mem (g l : Nat) : (awayStrikes s g l).mem = s.mem := rfl
@[simp] theorem lineStrikes_mem (l : Nat) (q : Option Slot) : (lineStrikes s l q).mem = s.mem := rfl
@[simp] theorem touchLine_mem (g : Nat) (e : Bool × Nat) : (touchLine s g e).mem = s.mem := rfl
@[simp] theorem peerSync_mem (l : Nat) : (peerSync s l).mem = s.mem := rfl
@[simp] theorem bindLoads_mem (g l : Nat) (x : List (Slot × Nat × Nat × Nat)) : (bindLoads s g l x).mem = s.mem := rfl
@[simp] theorem sendMsg_mem (l a : Nat) (d : Option Nat) (k : MsgKind) : (sendMsg s l a d k).mem = s.mem := rfl

/-- A fold of operations that each leave memory alone leaves memory alone. -/
theorem foldl_mem {α : Type} (f : State → α → State) (h : ∀ s a, (f s a).mem = s.mem) (l : List α) : (l.foldl f s).mem = s.mem := by
  induction l generalizing s with
  | nil => rfl
  | cons a l ih => rw [List.foldl_cons, ih, h]

/-- A fold of operations that each keep the canonical form keeps it. -/
theorem foldl_memWf {α : Type} (f : State → α → State) (h : ∀ s a, memWf s.mem = true → memWf (f s a).mem = true) (l : List α)
    (hs : memWf s.mem = true) : memWf (l.foldl f s).mem = true := by
  induction l generalizing s with
  | nil => exact hs
  | cons a l ih => exact ih (f s a) (h s a hs)

/-- A choice between two states that both leave memory alone. -/
theorem ite_mem {p : Prop} [Decidable p] {a b : State} (ha : a.mem = s.mem) (hb : b.mem = s.mem) : (if p then a else b).mem = s.mem := by
  split
  · exact ha
  · exact hb

@[simp] theorem sendTokens_mem (l a : Nat) (d : Option Nat) (n : Nat) (o x y : Bool) : (sendTokens s l a d n o x y).mem = s.mem := by
  unfold sendTokens
  split
  · rfl
  · cases d <;> rfl

@[simp] theorem sendRequest_mem (a l : Nat) (r : Req) : (sendRequest s a l r).mem = s.mem := by
  unfold sendRequest
  split
  · rfl
  · rfl
  · rw [sendMsg_mem, setHeld_mem]

@[simp] theorem fillGone_mem (a l : Nat) : (fillGone s a l).mem = s.mem := by
  unfold fillGone
  exact ite_mem s (by rw [sendRequest_mem, setHeld_mem]) (setHeld_mem s a l _)

@[simp] theorem recallFill_mem (m : Msg) : (recallFill s m).mem = s.mem := by
  unfold recallFill
  split
  · rfl
  · split <;> simp

@[simp] theorem kickPersist_mem (l : Nat) : (kickPersist s l).mem = s.mem := by
  unfold kickPersist
  split
  · rfl
  · exact ite_mem s rfl rfl

@[simp] theorem wakeAll_mem : (wakeAll s).mem = s.mem := rfl

@[simp] theorem dropLeases_mem (l : Nat) : (dropLeases s l).mem = s.mem := by
  unfold dropLeases
  rw [setHome_mem]
  exact ite_mem s (wakeAll_mem s) rfl

@[simp] theorem recallTokens_mem (l : Nat) (b : Option Nat) : (recallTokens s l b).mem = s.mem := by
  have h0 (u : State) (as : List Nat) : (as.foldl wakeGath u).mem = u.mem := foldl_mem u wakeGath (fun s a => wakeGath_mem s a) as
  have h1 (u : State) (as : List Nat) :
      (as.foldl (fun s a => setHeld (tokensLeave (wakeGath s a) a l) a l Held.emptied) u).mem = u.mem :=
    foldl_mem u (fun s a => setHeld (tokensLeave (wakeGath s a) a l) a l Held.emptied) (fun _ _ => rfl) as
  have h2 (u : State) (ms : List Msg) : (ms.foldl recallFill u).mem = u.mem := foldl_mem u _ (fun s m => recallFill_mem s m) ms
  unfold recallTokens
  dsimp only
  refine ite_mem s ?_ ?_
  · rw [setHome_mem, peerSync_mem]; exact (h2 _ _).trans ((h1 _ _).trans (h0 _ _))
  · rw [cleanLine_mem, setHome_mem, peerSync_mem]; exact (h2 _ _).trans ((h1 _ _).trans (h0 _ _))

@[simp] theorem pinOverflow_mem (c : List Nat) (g : Nat) : (pinOverflow s c g).mem = s.mem := by
  unfold pinOverflow
  dsimp only
  split <;> rfl

@[simp] theorem sendHome_mem (a l : Nat) : (sendHome s a l).mem = s.mem := by
  unfold sendHome
  simp only [sendTokens_mem, setHome_mem, setHeld_mem]

@[simp] theorem tokensHome_mem (a l : Nat) : (tokensHome s a l).mem = s.mem := sendHome_mem _ a l

@[simp] theorem evictLine_mem (g : Nat) (e : Bool × Nat) : (evictLine s g e).mem = s.mem := by
  unfold evictLine
  exact ite_mem s rfl (by rw [sendHome_mem]; rfl)

@[simp] theorem unpinSet_mem (g : Nat) (c : List (Bool × Nat)) (n : Nat) : (unpinSet g c n s).mem = s.mem := by
  induction n generalizing s with
  | zero => rfl
  | succ n ih => exact ite_mem s ((ih _).trans (pinOverflow_mem s _ g)) rfl

@[simp] theorem bumpVer_mem (l : Nat) : (bumpVer s l).mem = s.mem := by
  unfold bumpVer
  rw [setHome_mem]
  exact ite_mem s rfl rfl

@[simp] theorem lastToken_mem (l : Nat) : (lastToken s l).mem = s.mem := by
  unfold lastToken
  exact ite_mem s rfl (bumpVer_mem s l)

@[simp] theorem settlePers_mem (a l : Nat) : (settlePers s a l).mem = s.mem := by
  unfold settlePers
  exact ite_mem s rfl (by rw [sendMsg_mem, setHeld_mem])

@[simp] theorem collectHeld_mem (a l : Nat) : (collectHeld s a l).mem = s.mem := by
  have h (u : State) (p : Prop) [Decidable p] : (if p then settlePers u a l else u).mem = u.mem := ite_mem u (settlePers_mem u a l) rfl
  unfold collectHeld
  refine ite_mem s rfl ?_
  dsimp only
  refine ite_mem s ?_ ?_
  · rw [kickPersist_mem, h, setHeld_mem, setHome_mem, recallTokens_mem, lastToken_mem]
  · rw [kickPersist_mem, h, setHeld_mem, setHome_mem, recallTokens_mem, lastToken_mem]

@[simp] theorem settleFor_mem (k : Key) (l : Nat) (b : Option Nat) : (settleFor s k l b).mem = s.mem := by
  unfold settleFor
  dsimp only
  refine ite_mem s rfl (ite_mem s (setHome_mem s l _) ?_)
  rw [kickPersist_mem, setHome_mem, cleanLine_mem, dropLeases_mem, recallTokens_mem]
  cases b with
  | none => rfl
  | some a => exact ite_mem s rfl rfl

@[simp] theorem settleCopies_mem (k : Key) (l : Loc) : (settleCopies s k l).mem = s.mem := settleFor_mem s k _ _

@[simp] theorem ownerGives_mem (l : Nat) : (ownerGives s l).mem = s.mem := by
  unfold ownerGives
  split
  · refine ite_mem s ?_ ?_
    · rw [peerSync_mem, setHome_mem, setHeld_mem]; rfl
    · rw [peerSync_mem, cleanLine_mem, setHome_mem, setHeld_mem]; rfl
  · rfl

@[simp] theorem landOwner_mem (m : Msg) : (landOwner s m).mem = s.mem := by
  unfold landOwner
  split
  · dsimp only
    split
    · rfl
    · rw [cleanLine_mem, setHome_mem, recallFill_mem]
  · rfl

@[simp] theorem homeObtain_mem (l : Nat) : (homeObtain s l).mem = s.mem := by
  unfold homeObtain
  refine ite_mem s ?_ rfl
  rw [kickPersist_mem]
  split
  · unfold recallOwner
    exact ite_mem s (by rw [ownerGives_mem, landOwner_mem]) (landOwner_mem s _)
  · exact ownerGives_mem s l

variable {s}

theorem memWf_loseLine (h : memWf s.mem = true) (l : Nat) : memWf (loseLine s l).mem = true := memWf_memSetAll h _

theorem memWf_rekeyBlock (h : memWf s.mem = true) (k : Key) (b : Nat) : memWf (rekeyBlock s k b).mem = true := by
  unfold rekeyBlock
  split
  · exact h
  · exact memWf_memSetN h _ _

theorem memWf_physWrite (h : memWf s.mem = true) (k : Key) (l : Loc) (b : Byte) : memWf (physWrite s k l b).mem = true :=
  memWf_memSet (memWf_rekeyBlock h k _) l b

theorem memWf_physWriteAll (h : memWf s.mem = true) (k : Key) (l : List (Nat × Byte)) : memWf (physWriteAll s k l).mem = true := by
  induction l generalizing s with
  | nil => exact h
  | cons e l ih => exact ih (memWf_physWrite h k e.1 e.2)

theorem memWf_writeM (h : memWf s.mem = true) (a : Nat) (k : Key) (l : Loc) (b : Byte) : memWf (writeM s a k l b).mem = true := by
  have h1 : memWf (physWrite (keepStale s l) k l b).mem = true := memWf_physWrite (by simpa using h) k l b
  unfold writeM
  dsimp only
  split <;> exact h1

theorem memWf_winBack (h : memWf s.mem = true) (f l : Nat) : memWf (winBack s f l).mem = true := by
  unfold winBack
  split
  · split
    · rw [setWin_mem]; exact memWf_physWriteAll h _ _
    · exact h
  · exact h

theorem memWf_winFill (h : memWf s.mem = true) (f o : Nat) (k : Key) : memWf (winFill s f o k).mem = true := by
  unfold winFill
  split
  · split
    · exact h
    · simp only [setWin_mem, State.setFolio_mem]
      exact memWf_winBack h f _
  · exact h

/-- The pending stores of a line keep the canonical form as they are performed. -/
theorem memWf_performLine (h : memWf s.mem = true) (g l : Nat) : memWf (performLine s g l).mem = true := by
  unfold performLine
  split
  · dsimp only
    refine foldl_memWf _ _ (fun s p hs => memWf_writeM hs g _ _ _) _ ?_
    rw [settleFor_mem, awayStrikes_mem, collectHeld_mem]; exact h
  · exact h

theorem memWf_drainGath (h : memWf s.mem = true) (g : Nat) : memWf (drainGath s g).mem = true :=
  foldl_memWf s (fun s l => performLine s g l) (fun _ l hs => memWf_performLine hs g l) _ h

/-- A line that leaves a full set keeps the canonical form. -/
theorem memWf_evictWay (h : memWf s.mem = true) (g : Nat) (c : List (Bool × Nat)) : memWf (evictWay s g c).mem = true := by
  unfold evictWay
  dsimp only
  split
  · rw [evictLine_mem]; exact h
  · split
    · rw [evictLine_mem]; exact memWf_performLine h g _
    · exact h

/-- A line that gets its place keeps the canonical form. -/
theorem memWf_allocLine (h : memWf s.mem = true) (g : Nat) (e : Bool × Nat) : memWf (allocLine s g e).mem = true := by
  unfold allocLine
  split
  · exact h
  · dsimp only
    split
    · exact h
    · rw [touchLine_mem]; exact memWf_evictWay (by rw [unpinSet_mem]; exact h) g _

theorem memWf_collect (h : memWf s.mem = true) (a l : Nat) : memWf (collect s a l).mem = true := by
  unfold collect
  split
  · exact h
  · rw [collectHeld_mem]; exact memWf_allocLine h a _

theorem memWf_homeWriteLine (h : memWf s.mem = true) (k : Key) (l : Nat) (cs : List (Nat × Byte)) :
    memWf (homeWriteLine s k l cs).mem = true := by
  unfold homeWriteLine
  split
  · rw [foldl_mem _ _ (fun s (c : Nat × Byte) => winWrite_mem s _ _ c.2)]
    exact memWf_winFill (by simpa using h) _ _ _
  · dsimp only
    have h1 := memWf_physWriteAll (s := bumpVer (recallTokens (settleFor (lineStrikes s l none) k l none) l none) l) (by simpa using h) k cs
    split
    · rw [State.later_mem, kickPersist_mem]; exact h1
    · rw [kickPersist_mem]; exact h1

/-- Writes at their homes keep the canonical form. -/
theorem memWf_homeWriteCells (h : memWf s.mem = true) (k : Key) (cs : List (Nat × Byte)) : memWf (homeWriteCells s k cs).mem = true :=
  foldl_memWf s _ (fun _ l hs => memWf_homeWriteLine hs k l _) _ h

/-- A write at the home keeps the canonical form. -/
theorem memWf_homeWrite (h : memWf s.mem = true) (k : Key) (l : Loc) (bs : List Byte) : memWf (homeWrite s k l bs).mem = true :=
  memWf_homeWriteCells h k _

theorem memWf_performPosted (h : memWf s.mem = true) (m : Msg) : memWf (performPosted s m).mem = true := by
  unfold performPosted
  dsimp only
  split
  · split
    · refine memWf_homeWriteCells ?_ _ _; exact h
    · refine memWf_homeWriteCells ?_ _ _; exact h
  · exact h

/-- Posted writes keep the canonical form as they are performed. -/
theorem memWf_performRuns (h : memWf s.mem = true) (p : Msg → Bool) : memWf (performRuns s p).mem = true := by
  refine foldl_memWf s _ (fun s m hs => ?_) _ h
  split
  · exact foldl_memWf s _ (fun s m hs => memWf_performPosted hs m) _ hs
  · exact hs

theorem memWf_settleKey (h : memWf s.mem = true) (g : Nat) (k : Key) (l : Nat) : memWf (settleKey s g k l).mem = true := by
  have h1 (p : Prop) [Decidable p] : memWf (if p then performLine s g l else s).mem = true := by
    split
    · exact memWf_performLine h g l
    · exact h
  unfold settleKey
  dsimp only
  split
  · exact h1 _
  · exact memWf_performRuns (h1 _) _

theorem memWf_settlePosted (h : memWf s.mem = true) (g l : Nat) : memWf (settlePosted s g l).mem = true := by
  unfold settlePosted
  split
  · exact h
  · exact memWf_performRuns h _

/-- A store that enters keeps the canonical form. -/
theorem memWf_enterByte (h : memWf s.mem = true) (g : Nat) (q : Option Slot) (c : Nat) (k : Key) (l : Loc) (b : Byte) :
    memWf (enterByte s g q c k l b).mem = true := by
  unfold enterByte
  split
  · rw [winWrite_mem]; exact memWf_winFill (by simpa using h) _ _ _
  · dsimp only
    have h1 := memWf_settlePosted (memWf_settleKey h g k (lineOf l)) g l
    have h2 := memWf_allocLine (s := storeStrikes (settlePosted (settleKey s g k (lineOf l)) g l) g (lineOf l) q) (by simpa using h1) g
      (false, lineOf l)
    split
    · exact memWf_writeM (by simpa using h2) g k l b
    · simpa using h2

theorem memWf_enterBytes (h : memWf s.mem = true) (g : Nat) (q : Option Slot) (c : Nat) (k : Key) (l : Loc) (bs : List Byte) :
    memWf (enterBytes s g q c k l bs).mem = true := by
  induction bs generalizing s l with
  | nil => exact h
  | cons b bs ih => exact ih (memWf_enterByte h g q c k l b) (l + 1)

theorem memWf_devWrite (h : memWf s.mem = true) (a : Nat) (bs : List Byte) : memWf (devWrite s a bs).mem = true :=
  memWf_homeWrite h .opened a bs

end Sys2Proof.Machine
end

