-- ==== Sys2Proof/Laws/Words.lean ====
section
/-! SUPPORT. What the shared operations of the words do, said once: register blocks, predicates, and the change of one
quire for its active threads. -/

namespace Sys2Proof.Machine

theorem active_of_running {s : State} {cur : Cur} {q : Quire} (h : Running s cur q) : s.active = some cur := by
  have h2 : cur.act.isEmpty = false := by
    have := h.2.1
    cases hc : cur.act with
    | nil => exact absurd hc this
    | cons => rfl
  simp [State.active, h.1, h2]

theorem length_putWords (l : List Word) (r : Nat) (ws : List Word) : (putWords l r ws).length = l.length := by
  induction ws generalizing l r with
  | nil => rfl
  | cons w ws ih => simp [putWords, ih]

theorem putWords_get (l : List Word) (r : Nat) (ws : List Word) (i : Nat) :
    (putWords l r ws)[i]? = (l[i]?).map fun old => if r ≤ i ∧ i < r + ws.length then ws.getD (i - r) 0 else old := by
  induction ws generalizing l r with
  | nil =>
    have h : ¬ (r ≤ i ∧ i < r + ([] : List Word).length) := by simp
    simp only [putWords, if_neg h, Option.map_id']
  | cons w ws ih =>
    rw [putWords, ih]
    by_cases hi : i < l.length
    · rw [List.getElem?_eq_getElem hi, List.getElem?_set]
      by_cases h1 : r = i
      · subst h1; simp [hi]
      · have h2 : (r + 1 ≤ i ∧ i < r + 1 + ws.length) ↔ (r ≤ i ∧ i < r + (ws.length + 1)) := by omega
        simp only [h1, if_false, List.getElem?_eq_getElem hi, Option.map_some, List.length_cons, h2]
        split
        · have h3 : i - r = (i - (r + 1)) + 1 := by omega
          rw [h3]; simp
        · rfl
    · have : (l.set r w)[i]? = none := by simp; omega
      have h0 : l[i]? = none := by simp; omega
      rw [this, h0]; rfl

theorem length_wordsOf (n x : Nat) : (wordsOf n x).length = n := by
  induction n generalizing x with
  | zero => rfl
  | succ n ih => simp [wordsOf, ih]

theorem wordsOf_get (n x i : Nat) (h : i < n) : (wordsOf n x).getD i 0 = wordAt x i := by
  induction n generalizing x i with
  | zero => omega
  | succ n ih =>
    cases i with
    | zero => simp [wordsOf, wordAt]
    | succ i =>
      have h1 := ih (x / 4294967296) i (by omega)
      have h2 : x / 4294967296 / 2 ^ (32 * i) = x / 2 ^ (32 * (i + 1)) := by
        rw [show (4294967296 : Nat) = 2 ^ 32 from rfl, Nat.div_div_eq_div_mul, ← Nat.pow_add, Nat.mul_add, Nat.add_comm]
      rw [wordsOf, List.getD_cons_succ, h1, wordAt, wordAt, h2]

theorem putBlock_get (l : List Word) (d n x i : Nat) :
    (putWords l d (wordsOf n x))[i]? =
      (l[i]?).map fun old => (if d ≤ i ∧ i < d + n then some (wordAt x (i - d)) else none).getD old := by
  rw [putWords_get, length_wordsOf]
  congr 1; funext old
  split
  · rename_i h; rw [wordsOf_get n x (i - d) (by omega)]; rfl
  · rfl

theorem setTh_get (q : Quire) (t u : Nat) (f : Thread → Thread) :
    (q.setTh t f).th[u]? = if t = u then (q.th[u]?).map f else q.th[u]? := by
  simp only [Quire.setTh, List.getElem?_modify]
  split <;> simp

/-- Writing a block in each thread of a list writes exactly those registers. -/
theorem foldl_putV (d n : Nat) (val : Nat → Nat) (ts : List Nat) (q : Quire) :
    OnlyVec q (ts.foldl (fun q t => q.putV t d n (val t)) q)
      (fun t r => if t ∈ ts ∧ d ≤ r ∧ r < d + n then some (wordAt (val t) (r - d)) else none) := by
  induction ts generalizing q with
  | nil => exact ⟨rfl, rfl, fun t th h => ⟨th, h, rfl, fun r => by simp⟩⟩
  | cons a ts ih =>
    obtain ⟨h1, h2, h3⟩ := ih (q.putV a d n (val a))
    refine ⟨?_, ?_, ?_⟩
    · rw [List.foldl_cons, h1]; rfl
    · rw [List.foldl_cons, h2]; simp [Quire.putV, Quire.setTh]
    · intro t th ht
      have ha : (q.putV a d n (val a)).th[t]? = some (if a = t then { th with v := putWords th.v d (wordsOf n (val a)) } else th) := by
        rw [Quire.putV, setTh_get, ht]; split <;> rfl
      obtain ⟨th', e1, e2, e3⟩ := h3 t _ ha
      refine ⟨th', e1, ?_, fun r => ?_⟩
      · rw [e2]; split <;> rfl
      · rw [e3 r]
        by_cases hat : a = t
        · subst hat
          simp only [if_true, putBlock_get, Option.map_map]
          congr 1; funext old
          by_cases hr : d ≤ r ∧ r < d + n <;> by_cases hm : a ∈ ts <;> simp [hr, hm]
        · simp only [if_neg hat]
          have : (t ∈ a :: ts) ↔ t ∈ ts := by simp [Ne.symm hat]
          simp only [this]

/-- Writing a scalar block writes exactly those scalars. -/
theorem putS_only (q : Quire) (d n x : Nat) :
    OnlySca q (q.putS d n x) (fun r => if d ≤ r ∧ r < d + n then some (wordAt x (r - d)) else none) :=
  ⟨rfl, fun r => putBlock_get q.s d n x r⟩

theorem actors_uni {cur : Cur} (h : cur.act ≠ []) : actors cur true = [cur.act.headD 0] := by
  cases hc : cur.act with
  | nil => exact absurd hc h
  | cons a l => simp [actors, hc]

theorem writesBlock_forThreads {cur : Cur} (q : Quire) (u : Bool) (d n : Nat) (val : Nat → Nat) (h : cur.act ≠ []) :
    WritesBlock q ((actors cur u).foldl (fun q t => q.putD u t d n (val t)) q) cur u d n val := by
  cases u with
  | true => simpa [WritesBlock, actors_uni h, Quire.putD] using putS_only q d n (val (cur.act.headD 0))
  | false => simpa [WritesBlock, actors, Quire.putD] using foldl_putV d n val cur.act q

/-- A word that computes a block writes it and changes nothing else. -/
theorem aluWord_writes {s : State} {cur : Cur} {q : Quire} (h : Running s cur q) (u : Bool) (d n : Nat)
    (f : Quire → Cur → Nat → Nat) :
    ∃ g : Quire → Quire, aluWord u d n f s = .next (s.setQuire cur.slot g) ∧ WritesBlock q (g q) cur u d n (f q cur) :=
  ⟨fun q0 => (actors cur u).foldl (fun q t => q.putD u t d n (f q0 cur t)) q0,
    by simp [aluWord, active_of_running h, forThreads], writesBlock_forThreads q u d n (f q cur) h.2.1⟩

theorem setPredBit_get {n : Nat} (b : BitVec n) (k i : Nat) (v : Bool) (hi : i < n) :
    (setPredBit b k v).getLsbD i = if i = k ∧ k ≠ 0 then v else b.getLsbD i := by
  unfold setPredBit
  by_cases h0 : k = 0
  · simp [h0]
  · have ht : (BitVec.ofNat n (2 ^ k)).getLsbD i = decide (i = k) := by
      rw [BitVec.getLsbD_ofNat, Nat.testBit_two_pow]; simp [hi, eq_comm]
    by_cases h : i = k
    · cases v
      · rw [if_neg h0, if_neg Bool.false_ne_true, BitVec.getLsbD_and, BitVec.getLsbD_not, ht, if_pos ⟨h, h0⟩]; simp [h]
      · rw [if_neg h0, if_pos rfl, BitVec.getLsbD_or, ht, if_pos ⟨h, h0⟩]; simp [h]
    · cases v
      · rw [if_neg h0, if_neg Bool.false_ne_true, BitVec.getLsbD_and, BitVec.getLsbD_not, ht, if_neg (by tauto)]; simp [h, hi]
      · rw [if_neg h0, if_pos rfl, BitVec.getLsbD_or, ht, if_neg (by tauto)]; simp [h]

/-- Writing a run of predicates of one thread. -/
def putRun (q : Quire) (u : Bool) (t d : Nat) (l : List Bool) : Quire :=
  l.zipIdx.foldl (fun q e => q.putPred u t (d + e.2) e.1) q

/-- The value that a run of predicates from d gives predicate k. -/
def runVal (d : Nat) (l : List Bool) (k : Nat) : Option Bool := if d ≤ k then l[k - d]? else none

theorem runVal_cons (m k : Nat) (b old : Bool) (l : List Bool) :
    (runVal (m + 1) l k).getD (if k = m then b else old) = (runVal m (b :: l) k).getD old := by
  unfold runVal
  by_cases hkd : k = m
  · subst hkd
    have h : ¬ k + 1 ≤ k := by omega
    simp [h]
  · by_cases hle : m ≤ k
    · have h3 : m + 1 ≤ k := by omega
      have h4 : k - m = (k - (m + 1)) + 1 := by omega
      simp only [hkd, if_false, hle, h3, if_true, h4, List.getElem?_cons_succ]
    · have h3 : ¬ m + 1 ≤ k := by omega
      simp [hle, h3, hkd]

theorem zipIdx_foldl_putQ (d : Nat) (t : Nat) (l : List Bool) (j : Nat) (q : Quire) :
    OnlyUni q ((l.zipIdx j).foldl (fun q e => q.putPred true t (d + e.2) e.1) q)
      (fun k => if k = 0 then none else runVal (d + j) l k) := by
  induction l generalizing j q with
  | nil => exact ⟨rfl, fun k _ => by simp [runVal]⟩
  | cons b l ih =>
    obtain ⟨h1, h2⟩ := ih (j + 1) (q.putQ (d + j) b)
    simp only [List.zipIdx_cons, List.foldl_cons, Quire.putPred, if_true] at h1 h2 ⊢
    refine ⟨by rw [h1]; rfl, fun k hk => ?_⟩
    rw [h2 k hk, show (q.putQ (d + j) b).q.getLsbD k = _ from setPredBit_get _ _ _ _ hk]
    by_cases h0 : k = 0
    · have : ¬ (k = d + j ∧ d + j ≠ 0) := by omega
      simp only [h0, if_true] at this ⊢
      rw [if_neg this]
    · have : (k = d + j ∧ d + j ≠ 0) ↔ k = d + j := by omega
      simp only [h0, if_false, this]
      exact runVal_cons (d + j) k b _ l

theorem zipIdx_foldl_putP (d : Nat) (a : Nat) (l : List Bool) (j : Nat) (q : Quire) :
    OnlyPrd q ((l.zipIdx j).foldl (fun q e => q.putPred false a (d + e.2) e.1) q)
      (fun t k => if t = a ∧ k ≠ 0 then runVal (d + j) l k else none) := by
  induction l generalizing j q with
  | nil => exact ⟨rfl, rfl, fun t th h => ⟨th, h, rfl, fun k _ => by simp [runVal]⟩⟩
  | cons b l ih =>
    obtain ⟨h1, h2, h3⟩ := ih (j + 1) (q.putP a (d + j) b)
    simp only [List.zipIdx_cons, List.foldl_cons, Quire.putPred, Bool.false_eq_true, if_false] at h1 h2 h3 ⊢
    refine ⟨by rw [h1]; rfl, by rw [h2, Quire.putP, Quire.setTh]; exact List.length_modify _ _ _, fun t th ht => ?_⟩
    have ha : (q.putP a (d + j) b).th[t]? = some (if a = t then { th with pr := setPredBit th.pr (d + j) b } else th) := by
      rw [Quire.putP, setTh_get, ht]; split <;> rfl
    obtain ⟨th', e1, e2, e3⟩ := h3 t _ ha
    refine ⟨th', e1, ?_, fun k hk => ?_⟩
    · rw [e2]; split <;> rfl
    · rw [e3 k hk]
      by_cases hat : t = a
      · subst hat
        simp only [if_true, true_and, setPredBit_get _ _ _ _ hk]
        by_cases h0 : k = 0
        · have : ¬ (k = d + j ∧ d + j ≠ 0) := by omega
          rw [if_neg this]; simp [h0]
        · have : (k = d + j ∧ d + j ≠ 0) ↔ k = d + j := by omega
          simp only [h0, ne_eq, not_false_eq_true, if_true, this]
          exact runVal_cons (d + j) k b _ l
      · simp [hat, Ne.symm hat]

theorem onlyPrd_trans {q q1 q2 : Quire} {w1 w2 : Nat → Nat → Option Bool} (h1 : OnlyPrd q q1 w1) (h2 : OnlyPrd q1 q2 w2) :
    OnlyPrd q q2 fun t k => (w2 t k).or (w1 t k) := by
  obtain ⟨a1, a2, a3⟩ := h1
  obtain ⟨b1, b2, b3⟩ := h2
  refine ⟨by rw [b1, a1], b2.trans a2, fun t th ht => ?_⟩
  obtain ⟨th1, e1, e2, e3⟩ := a3 t th ht
  obtain ⟨th2, f1, f2, f3⟩ := b3 t th1 e1
  refine ⟨th2, f1, by rw [f2, e2], fun k hk => ?_⟩
  rw [f3 k hk, e3 k hk]
  show _ = ((w2 t k).or (w1 t k)).getD _
  cases w2 t k <;> rfl

/-- Writing runs of predicates in each thread of a list writes exactly those predicates. -/
theorem foldl_putRun (d : Nat) (val : Nat → List Bool) (ts : List Nat) (q : Quire) :
    OnlyPrd q (ts.foldl (fun q t => putRun q false t d (val t)) q)
      (fun t k => if t ∈ ts ∧ k ≠ 0 then runVal d (val t) k else none) := by
  induction ts generalizing q with
  | nil => exact ⟨rfl, rfl, fun t th h => ⟨th, h, rfl, fun k _ => by simp⟩⟩
  | cons a ts ih =>
    have h := onlyPrd_trans (zipIdx_foldl_putP d a (val a) 0 q) (ih (putRun q false a d (val a)))
    rw [List.foldl_cons]
    convert h using 1
    funext t k
    by_cases h0 : k = 0
    · simp [h0]
    · by_cases hta : t = a
      · subst hta; by_cases hm : t ∈ ts <;> simp [hm, h0]
      · by_cases hm : t ∈ ts <;> simp [hm, h0, hta]

theorem writesPreds_forThreads {cur : Cur} (q : Quire) (u : Bool) (d : Nat) (val : Nat → List Bool) (h : cur.act ≠ []) :
    WritesPreds q ((actors cur u).foldl (fun q t => putRun q u t d (val t)) q) cur u fun t k => runVal d (val t) k := by
  cases u with
  | true => simpa [WritesPreds, actors_uni h, putRun] using zipIdx_foldl_putQ d (cur.act.headD 0) (val (cur.act.headD 0)) 0 q
  | false => simpa [WritesPreds, actors] using foldl_putRun d val cur.act q

/-- A word that computes predicates writes them and changes nothing else. -/
theorem prdWord_writes {s : State} {cur : Cur} {q : Quire} (h : Running s cur q) (u : Bool) (d : Nat)
    (f : Quire → Cur → Nat → List Bool) :
    ∃ g : Quire → Quire, prdWord u d f s = .next (s.setQuire cur.slot g) ∧
      WritesPreds q (g q) cur u fun t k => runVal d (f q cur t) k :=
  ⟨fun q0 => (actors cur u).foldl (fun q t => putRun q u t d (f q0 cur t)) q0,
    by simp [prdWord, active_of_running h, forThreads, putRun], writesPreds_forThreads q u d (f q cur) h.2.1⟩

end Sys2Proof.Machine
end

