-- ==== Sys2Proof/Tests/Slice0.lean ====
section
/-! SUPPORT. Tests: ill-formed terms that the checks refuse, words written out from the manual's encodings, one step of a few
instructions with results worked out from the rules, and for each statement states and operands that meet its hypotheses. -/

open Sys2Proof Sys2Proof.Machine

namespace Sys2Proof.Tests

set_option Elab.async false

/-! A small device: context 0 assigned with generic page 0 at physical 64 KiB, one folio, one quire of two threads on lane 0 of
core 0, thread 0 in a word at address 72. -/

def hdr : Hdr := { last := false, stall := 0, guard := 0, neg := false }
def ops : Full :=
  { d := 2, a := 4, b := 6, c := 0, sa := false, sb := false, sc := false, u := false, csel := 0, cen := false, cls := 0 }
def slot0 : Slot := { core := 0, lane := 0, q := 0 }
theorem noneOf {α : Type} {P : α → Prop} : ∀ x ∈ ([] : List α), P x := fun _ h => by cases h
def th0 : Thread :=
  { pc := 72, mr := none, depth := 0, y := false, td := 0, p := false, c := false, x := false, v := [0, 0, 5, 7, 128, 0, 3, 9]
    pr := 1, slice := List.replicate 64 0, npc := none, xfer := false, exiting := false, halt := none, tryTh := none
    frag := none, ray := none }
def q0 : Quire :=
  { slot := slot0, ctx := 0, folio := 1, qid := 0, w := 16, regs := 8, th := [th0, th0], s := [0, 0, 0, 0, 128, 0, 3, 0], q := 1
    ftz := false, ctr := [0, 0, 0, 0], born := 0, rally := none, rallies := 0, ready := none, wait := none, log := [], seq := 0
    region := none, chain := none, latch := none, deferred := [], fixp := [], varp := [] }
def cur0 : Cur :=
  { slot := slot0, pc := 72, lead := [0], was := [], act := [0], issues := [], view := [], lazy := false, last := false, yielded := false
    prog := [], began := 0, sweep := 0, stall := 0, dsts := none, ctr := none }
/-- One compute folio of 16 threads: PRIV 1,024, CKPT 512, SCR 1, one 32 KiB FIFO of 4-byte entries, 4 tags. -/
def rcd0 : Nat := setField (setField placedRecord 303 288 512) 226 224 1
def fo0 : Folio :=
  { placedFolio 0 with id := 1, rcd := rcd0 }
def ctx0 : Ctx := { Ctx.initial with v := true, ptbase := 0x1001, ran := true }
def tlb0 : Tlb := { ctx := 0, level := 0, page := 0, leaf := 0x102E1 }
def gath0 : Gath := { Gath.initial with tlb := [tlb0] }
/-- The device with a quire and a word in hand. -/
def sWith (q : Quire) (cur : Cur) : State :=
  { State.reset with
    boot := 3, fwOk := true, ready := true, installed := 0x100000, nextId := 2, cur := some cur
    ctxs := State.reset.ctxs.set 0 ctx0, gaths := State.reset.gaths.set 0 gath0
    nodes := [placedNode 0], folios := [fo0], quires := [q] }
def s0 : State := sWith q0 cur0
/-- Generic page 0, byte `a`. -/
def pg0 (a : Nat) : Page := { loc := 0x10000 + a, key := .opened, nc := false }

theorem running0 : Running s0 cur0 q0 := ⟨rfl, by decide, rfl, by decide⟩

/-! Witnesses of the statements' hypotheses. -/

theorem witness_integer_words : Running s0 cur0 q0 ∧ (intRule (.iadd hdr ops) q0 cur0).isSome = true := ⟨running0, rfl⟩
theorem witness_float_words : Running s0 cur0 q0 ∧ (floatRule (.ffma hdr ops) q0 cur0).isSome = true := ⟨running0, rfl⟩
theorem witness_packed_words : Running s0 cur0 q0 ∧ (packedRule (.hadd2 hdr ops) q0 cur0).isSome = true := ⟨running0, rfl⟩
theorem witness_moves : Running s0 cur0 q0 ∧ (moveRule (.mov4 hdr ops) q0 cur0).isSome = true := ⟨running0, rfl⟩
theorem witness_cross_thread : Running s0 cur0 q0 ∧ (crossRule (.shfl hdr ops) q0 cur0).isSome = true := ⟨running0, rfl⟩
theorem witness_predicates : Running s0 cur0 q0 ∧ (predRule (.icmp hdr ops) q0 cur0).isSome = true := ⟨running0, rfl⟩
theorem witness_match_form : (Instr.matchBits hdr { ops with b := 0 }).wf = true := by decide
theorem witness_iaddc_form : (Instr.iaddc hdr ops).wf = true := by decide
/-- A call at depth 0. -/
theorem witness_control : Running s0 cur0 q0 ∧ cur0.act.Nodup ∧
    ∃ ok f, controlRule (.call hdr { d := 0, off := 2, cls := 0 }) s0 q0 cur0 = some (ok, f) ∧ ok := by
  refine ⟨running0, by decide, _, _, rfl, fun t ht th hth => ?_⟩
  obtain rfl : t = 0 := by simpa [cur0] using ht
  have : th = th0 := (Option.some.inj hth).symm
  subst this; decide
/-- A return to address 128 from depth 1. -/
theorem witness_control_return : 8 ∣ src q0 cur0 false 0 4 2 ∧ ({ th0 with depth := 1 }).depth ≠ 0 ∧ th0.tryTh = none := by decide
theorem witness_movs : rcDet (s0.rcdOf cur0.slot) = false := by decide +kernel
theorem witness_regq_smaller : q0.region = none ∧ q0.latch = none ∧ q0.chain = none ∧ (∀ k ∈ q0.ctr, k = 0) ∧
    (s0.gath (gathOf cur0.slot.core)).bench = [] ∧ regGranule (4 : BitVec 8).toNat ≤ regGranule q0.regs := by decide
theorem witness_regq_larger : growWaits s0 cur0.slot none = false ∧
    q0.w * (regGranule (32 : BitVec 8).toNat - regGranule q0.regs) ≤ laneFree s0 cur0.slot := by decide
/-- TRAP where no capture is taken. -/
theorem witness_software_trap : Running s0 cur0 q0 ∧ cur0.act.Nodup ∧ (∀ t ∈ cur0.act, t < 64) ∧ q0.region = none ∧
    RealSlot cur0.slot ∧ q0.ctx < s0.ctxs.length ∧ (s0.ctx q0.ctx).capSize = 0 :=
  ⟨running0, by decide, by decide, rfl, by unfold RealSlot; decide, by decide, rfl⟩
theorem witness_resume : s0.ready = true ∧ (s0.ctx 0).v = true ∧ (s0.ctx 0).master = 0 := by decide

/-- A quire whose thread 0 is in a region at nesting depth `td`. -/
def tryTh0 : TryTh := { handler := 80, codereg := 1, depth0 := 0, live := [0, 1], regs := th0.v, chk := [], since := 0, abort := none, seen := th0.v, wrote := [] }
def reg0 : Region :=
  { members := [0], reads := [], writes := [], buf := [], entries := [], scope := 0, start := 0, begun := 0, collecting := none
    conflict := none }
def qTry (td : Nat) : Quire := { q0 with region := some reg0, th := [{ th0 with td := td, tryTh := some tryTh0 }, th0] }
theorem runningTry (td : Nat) : Running (sWith (qTry td) cur0) cur0 (qTry td) :=
  ⟨rfl, by decide, rfl, fun t ht => by simp [cur0] at ht; simp [ht, qTry], noneOf⟩
theorem witness_try_nests : Running (sWith (qTry 1) cur0) cur0 (qTry 1) ∧ NoSection (sWith (qTry 1) cur0) cur0 (qTry 1) ∧
    cur0.act.Nodup ∧ (qTry 1).region.isSome = true ∧ ∀ t ∈ cur0.act, ∀ th, (qTry 1).th[t]? = some th → th.td ≠ 7 := by
  refine ⟨runningTry 1, by unfold NoSection; decide, by decide, rfl, fun t ht th hth => ?_⟩
  obtain rfl : t = 0 := by simpa [cur0] using ht
  obtain rfl := Option.some.inj hth
  decide
theorem witness_commit_abort : Running (sWith (qTry 1) cur0) cur0 (qTry 1) ∧ cur0.act.Nodup ∧ (qTry 1).region = some reg0 ∧
    ∀ t ∈ cur0.act, ∀ th, (qTry 1).th[t]? = some th → th.td ≠ 0 := by
  refine ⟨runningTry 1, by decide, rfl, fun t ht th hth => ?_⟩
  obtain rfl : t = 0 := by simpa [cur0] using ht
  obtain rfl := Option.some.inj hth
  decide
theorem witness_commit_inner : Running (sWith (qTry 2) cur0) cur0 (qTry 2) ∧
    ∀ t ∈ cur0.act, ∀ th, (qTry 2).th[t]? = some th → th.td ≠ 1 := by
  refine ⟨runningTry 2, fun t ht th hth => ?_⟩
  obtain rfl : t = 0 := by simpa [cur0] using ht
  obtain rfl := Option.some.inj hth
  decide

/-- A section header at address 0 with the word at 72 as its one safe point (R270). -/
def memFci : Mem := memSetAll [] (cellsAt 0x10000 (bytesOf 16 (0x48444346 + 128 * 2 ^ 32 + 64 * 2 ^ 64 + 2 ^ 96)) ++ cellsAt 0x10040 (bytesOf 4 9))
def sTry : State := { s0 with mem := memFci }
theorem pair_of {α β : Type} (x : α × β) (y : β) (h : x.2 = y) : x = (x.1, y) := h ▸ rfl
def sTry1 : State := (safePoint sTry slot0 0 72).1
def sTry2 : State := (liveMask sTry1 slot0 0 72).1
def sTry3 : State := (writeCheckpoints q0 (List.range 8) [0] sTry2).1
theorem witness_try_opens : safePoint sTry slot0 0 72 = (sTry1, .ok true) ∧
    liveMask sTry1 slot0 0 72 = (sTry2, .ok (some (2 ^ 256 - 1))) ∧
    (List.range q0.regs).filter (fun r => (2 ^ 256 - 1).testBit r) = List.range 8 ∧
    16 + 4 * 8 ≤ rcCkpt (sTry2.rcdOf slot0) ∧ checkpointBehind q0 (sTry2.rcdOf slot0) 0 = false ∧ writeCheckpoints q0 (List.range 8) [0] sTry2 = (sTry3, some []) :=
  ⟨pair_of _ _ (by decide +kernel), pair_of _ _ (by decide +kernel), by decide +kernel, by decide +kernel, rfl,
    pair_of _ _ (by decide +kernel)⟩
theorem witness_try_opens_state : Running sTry cur0 q0 ∧ NoSection sTry cur0 q0 ∧ cur0.act.Nodup ∧ q0.region = none :=
  ⟨⟨rfl, by decide, rfl, by decide⟩, by unfold NoSection; decide, by decide, rfl⟩

/-! Accesses to memory. Address register pair v4 of thread 0 holds 128; the line is 0x201. -/

theorem act0 {P : Nat → Prop} (h : P 0) : ∀ t ∈ cur0.act, P t := fun t ht => by
  obtain rfl : t = 0 := by simpa [cur0] using ht
  exact h

def curLazy : Cur := { cur0 with lazy := true }
def fLd : Full := { ops with b := 0, cls := 2 }
theorem witness_log_generic : Running (sWith q0 curLazy) curLazy q0 ∧ curLazy.lazy = true ∧
    ∃ m, memRule (.ld hdr fLd) (sWith q0 curLazy) q0 curLazy = some m ∧ m.ok ∧ m.aligned curLazy ∧ (m.f.u = true → q0.region = none) ∧
      ∀ t ∈ actors curLazy m.f.u, m.fits (sWith q0 curLazy) slot0 q0 (fun _ => pg0 128) t := by
  refine ⟨⟨rfl, by decide, rfl, by decide⟩, rfl, _, rfl, ⟨by decide, nofun, by rintro (h | h) <;> cases h⟩, ?_, fun _ => rfl, ?_⟩
  · exact act0 (P := fun t => 4 ∣ ruleAddr false false false fLd q0 curLazy t) (by decide)
  · exact act0 (P := fun t => (ldStForm (sWith q0 curLazy) q0 curLazy fLd 0x100 false false false false false).fits (sWith q0 curLazy) slot0 q0 (fun _ => pg0 128) t)
      ⟨by decide +kernel, rfl, nofun⟩
theorem witness_log_private : ∃ m, memRule (.stp hdr { fLd with a := 1 }) (sWith q0 curLazy) q0 curLazy = some m ∧ m.ok ∧ m.aligned curLazy ∧
      ∀ t ∈ actors curLazy m.f.u, m.fits (sWith q0 curLazy) slot0 q0 (fun _ => pg0 128) t := by
  refine ⟨_, rfl, ⟨by decide, nofun, fun _ => act0 (P := fun t => q0.member t = false) rfl⟩, ?_, ?_⟩
  · exact act0 (P := fun t => 4 ∣ ruleAddr true false false { fLd with a := 1 } q0 curLazy t) (by decide)
  · exact act0 (P := fun t => (ldStForm (sWith q0 curLazy) q0 curLazy { fLd with a := 1 } 0x121 true false false true true).fits (sWith q0 curLazy) slot0 q0 (fun _ => pg0 128) t)
      ⟨by decide +kernel, fun h => absurd h (by decide)⟩
/-- Gathering 0 holds line 0x201 with `n` tokens and data. -/
def sLine (n : Nat) : State :=
  { s0 with
    homes := [{ homeOf s0 0x201 with ht := 64 - n, ho := false, hold := [0], ckey := some .opened }]
    held := [{ heldOf s0 0 0x201 with tok := n, own := true, valid := true }] }
theorem runningLine (n : Nat) : Running (sLine n) cur0 q0 := ⟨rfl, by decide, rfl, by decide⟩
def mLd (n : Nat) : MemForm := ldStForm (sLine n) q0 cur0 fLd 0x100 false false false false false
def mSt (n : Nat) : MemForm := ldStForm (sLine n) q0 cur0 fLd 0x102 false false false false true
def mRed (n : Nat) : MemForm := atomForm (sLine n) q0 cur0 ops 0x140 1 false false
theorem oneAccess {s : State} {m : MemForm} (hr : Running s cur0 q0) (hu : m.f.u = false) (ho : m.ok) (ha : m.len ∣ m.addr 0)
    (hf : m.fits s slot0 q0 (fun _ => pg0 128) 0) (hn : NothingPosted s) (hb : (s.gath 0).bench = []) : OneAccess s cur0 q0 m (pg0 128) 0 :=
  ⟨hr, hn, rfl, rfl, rfl, by rw [hu]; rfl, ho, act0 (P := fun t => m.len ∣ m.addr t) ha,
    by rw [hu]; exact act0 (P := fun t => q0.member t = false) rfl, fun _ => rfl, hf, fun _ => ⟨th0, rfl, rfl⟩,
    fun b h => by rw [show gathOf cur0.slot.core = 0 from rfl, hb] at h; cases h⟩
theorem lineSettled0 : LineSettled (sLine 64) 0 (pg0 128) 4 :=
  ⟨by decide +kernel, rfl, rfl, noneOf, by decide +kernel, by decide +kernel, by decide⟩
theorem lineSettled1 : LineSettled (sLine 0) 0 (pg0 128) 4 :=
  ⟨by decide +kernel, rfl, rfl, noneOf, by decide +kernel, by decide +kernel, by decide⟩
theorem witness_loads : ldStRule (.ld hdr fLd) (sLine 64) q0 cur0 = some (mLd 64) ∧ OneAccess (sLine 64) cur0 q0 (mLd 64) (pg0 128) 0 ∧
    LineSettled (sLine 64) 0 (pg0 128) 4 ∧ (heldOf (sLine 64) 0 (lineOf (pg0 128).loc)).tok = 64 ∧
    (heldOf (sLine 64) 0 (lineOf (pg0 128).loc)).valid = true :=
  ⟨rfl, oneAccess (runningLine 64) rfl ⟨by decide, nofun, by rintro (h | h) <;> cases h⟩ (by decide) ⟨by decide +kernel, rfl, nofun⟩ noneOf rfl,
    lineSettled0, by decide +kernel, by decide +kernel⟩
theorem witness_stores_all_tokens : ldStRule (.st hdr fLd) (sLine 64) q0 cur0 = some (mSt 64) ∧ OneAccess (sLine 64) cur0 q0 (mSt 64) (pg0 128) 0 ∧
    LineSettled (sLine 64) 0 (pg0 128) 4 ∧ keyTag (sLine 64) ((pg0 128).loc / 16) = .opened ∧ (mSt 64).drained (sLine 64) cur0 ∧
    memWf (sLine 64).mem = true ∧ ∀ p ∈ (sLine 64).pending, p.gath = 0 → lineOf p.loc % 256 ≠ 1 :=
  ⟨rfl, oneAccess (runningLine 64) rfl ⟨by decide, nofun, by rintro (h | h) <;> cases h⟩ (by decide) ⟨by decide +kernel, rfl, nofun⟩ noneOf rfl,
    lineSettled0, by decide +kernel, fun _ => noneOf, rfl, noneOf⟩
theorem witness_stores_without_tokens : OneAccess (sLine 0) cur0 q0 (mSt 0) (pg0 128) 0 ∧ LineSettled (sLine 0) 0 (pg0 128) 4 ∧
    (heldOf (sLine 0) 0 (lineOf (pg0 128).loc)).tok ≠ 64 :=
  ⟨oneAccess (runningLine 0) rfl ⟨by decide, nofun, by rintro (h | h) <;> cases h⟩ (by decide) ⟨by decide +kernel, rfl, nofun⟩ noneOf rfl,
    lineSettled1, by decide +kernel⟩
theorem witness_atomics : atomRule (.atom hdr ops) (sLine 64) q0 cur0 = some (mRed 64) ∧ OneAccess (sLine 64) cur0 q0 (mRed 64) (pg0 128) 0 ∧
    (mRed 64).drained (sLine 64) cur0 :=
  ⟨rfl, oneAccess (runningLine 64) rfl ⟨⟨by decide, by decide, by decide +kernel⟩, act0 (P := fun t => q0.member t = false) rfl⟩ (by decide)
      ⟨by decide +kernel, rfl, nofun⟩ noneOf rfl,
    fun _ => noneOf⟩
def mSts : MemForm := ldStForm s0 q0 cur0 fLd 0x112 true false false true true
theorem witness_scratchpad : memRule (.sts hdr fLd) s0 q0 cur0 = some mSts ∧ opSpace mSts.op = .scratch ∧ mSts.drained s0 cur0 ∧
    OneAccess s0 cur0 q0 mSts (pg0 128) 0 ∧ s0.folio q0.folio = some fo0 ∧ fo0.win = [] ∧ memWf fo0.scr = true :=
  ⟨rfl, rfl, fun _ => noneOf,
    oneAccess running0 rfl ⟨by decide, nofun, fun _ => act0 (P := fun t => q0.member t = false) rfl⟩ (by decide)
      (show mSts.addr 0 + mSts.len ≤ scratchBytes (s0.rcdOf slot0) by decide +kernel) noneOf rfl, rfl, rfl, rfl⟩
def mLdp : MemForm := ldStForm s0 q0 cur0 { fLd with a := 0 } 0x120 true false false false false
theorem witness_private : ldStRule (.ldp hdr { fLd with a := 0 }) s0 q0 cur0 = some mLdp ∧ OneAccess s0 cur0 q0 mLdp (pg0 128) 0 ∧
    mLdp.addr 0 + mLdp.len ≤ 64 ∧ q0.th[0]? = some th0 ∧ th0.slice.length = 64 :=
  ⟨rfl, oneAccess running0 rfl ⟨by decide, nofun, by rintro (h | h) <;> cases h⟩ (by decide) ⟨by decide +kernel, fun h => absurd h (by decide)⟩ noneOf rfl,
    by decide, rfl, rfl⟩
/-- A release store of 128 bits on a line without tokens: its scope waits for nothing. -/
def mStRel : MemForm := ldStForm (sLine 0) q0 cur0 { fLd with cls := 4 } 0x103 false false true false true
theorem witness_release_of_two_halves : ldStRule (.stRel hdr { fLd with cls := 4 }) (sLine 0) q0 cur0 = some mStRel ∧ mStRel.len = 16 ∧
    OneAccess (sLine 0) cur0 q0 mStRel (pg0 128) 0 ∧ LineSettled (sLine 0) 0 (pg0 128) 16 ∧ mStRel.drained (sLine 0) cur0 :=
  ⟨rfl, rfl, oneAccess (runningLine 0) rfl
      ⟨by decide, fun _ => ⟨by decide, nofun, nofun⟩, fun _ => act0 (P := fun t => q0.member t = false) rfl⟩ (by decide)
      ⟨by decide +kernel, rfl, nofun⟩ noneOf rfl,
    ⟨by decide +kernel, rfl, rfl, noneOf, by decide +kernel, by decide +kernel, by decide⟩, fun _ => noneOf⟩

/-! Constant, tensor, FIFO and image words; fences, barriers and tags. -/

def mLdc : MemForm := ldStForm s0 q0 cur0 fLd 0x124 false false false false false
def lease0 (w : LeaseAt) : Lease :=
  { at_ := w, line := 0x201, key := .opened, kfield := 64, ver := 0, exp := 65536, expired := false, data := List.replicate 128 1 }
def sLease (w : LeaseAt) : State := { s0 with leases := [lease0 w] }
def sHome : State := { s0 with homes := [{ homeOf s0 0x201 with ckey := some .opened }] }
theorem oneLdc {s : State} (h : Running s cur0 q0) (hf : mLdc.fits s slot0 q0 (fun _ => pg0 128) 0) (hn : NothingPosted s) (hb : (s.gath 0).bench = []) :
    OneAccess s cur0 q0 mLdc (pg0 128) 0 :=
  oneAccess h rfl ⟨by decide, nofun, by rintro (h | h) <;> cases h⟩ (by decide) hf hn hb
theorem witness_constant_hit : OneAccess (sLease (.constant 0)) cur0 q0 mLdc (pg0 128) 0 ∧ winFind (sLease (.constant 0)) (pg0 128).loc = none ∧
    LiveLease (sLease (.constant 0)) (.constant 0) (lineOf (pg0 128).loc) .opened (lease0 (.constant 0)) :=
  ⟨oneLdc ⟨rfl, by decide, rfl, by decide⟩ ⟨by decide +kernel, rfl, nofun⟩ noneOf rfl, rfl, rfl, rfl, by decide⟩
theorem witness_constant_miss : OneAccess sHome cur0 q0 mLdc (pg0 128) 0 ∧ winFind sHome (pg0 128).loc = none ∧
    LeaseMissing sHome (.constant 0) (lineOf (pg0 128).loc) .opened :=
  ⟨oneLdc ⟨rfl, by decide, rfl, by decide⟩ ⟨by decide +kernel, rfl, nofun⟩ noneOf rfl, rfl, rfl, rfl, by decide +kernel⟩

/-- A valid record at 128: FP32, rank 1, 6 elements from address 0. -/
def shape0 : RecEntry := { ctx := 0, addr := 128, val := setField (6 * 2 ^ 64 + 2 ^ 68 + 6 * 2 ^ 192) 655 640 4 }
def sLdt : State := { sLease (.tile 0) with gaths := State.reset.gaths.set 0 { gath0 with recs := [shape0] }, leases := [{ lease0 (.tile 0) with line := 0x200 }] }
def fLdt : Full := { ops with b := 2, c := 1, sa := true }
theorem witness_tensor : Running sLdt cur0 q0 ∧ actors cur0 fLdt.u = [0] ∧ src q0 cur0 true 0 fLdt.a 2 = 128 ∧ (sLdt.gath 0).recs = [shape0] ∧
    0 < sLdt.gaths.length ∧ shapeOk 128 shape0.val = true ∧ shRank shape0.val = fLdt.c.toNat % 8 ∧
    NothingPosted sLdt ∧ (∀ x ∈ sLdt.msgs, ∀ d k b, x.kind ≠ .write3 d k b) ∧ shElem shape0.val = 4 :=
  ⟨⟨rfl, by decide, rfl, by decide⟩, rfl, by decide, rfl, by decide, by decide +kernel, by decide +kernel, noneOf, noneOf, by decide +kernel⟩
/-- Element 5 is inside, element 7 (register v3) is not. -/
theorem witness_tensor_inside : (BitVec.ofNat 32 (block q0 cur0 false 0 2 1)).toInt < shExt shape0.val 0 ∧
    shBase shape0.val + 5 * shElem shape0.val = 20 ∧ xlate sLdt (laneVia slot0) 0 20 .read = (sLdt, .ok (pg0 20)) ∧
    LiveLease sLdt (.tile 0) (lineOf (pg0 20).loc) .opened { lease0 (.tile 0) with line := 0x200 } :=
  ⟨by decide +kernel, by decide +kernel, rfl, rfl, rfl, by decide⟩
theorem witness_tensor_outside : ¬ (BitVec.ofNat 32 (block q0 cur0 false 0 3 1)).toInt < shExt shape0.val 0 := by decide +kernel

theorem witness_prefetch_fault : ∃ r, xlate s0 (laneVia slot0) 0 (2 ^ 57) .read = (s0, .error r) := ⟨1, rfl⟩
theorem witness_prefetch : Running s0 cur0 q0 ∧ actors cur0 fLd.u = [0] ∧ ruleAddr false false false fLd q0 cur0 0 = 128 ∧
    xlate s0 (laneVia slot0) 0 128 .read = (s0, .ok (pg0 128)) ∧ winFind s0 (pg0 128).loc = none ∧ (homeOf s0 (lineOf (pg0 128).loc)).ckey = none ∧
    (heldOf s0 0 (lineOf (pg0 128).loc)).tok = 0 ∧ (heldOf s0 0 (lineOf (pg0 128).loc)).req = none ∧ s0.pending = [] ∧ NothingPosted s0 :=
  ⟨running0, rfl, by decide, rfl, rfl, rfl, rfl, rfl, rfl, noneOf⟩

def fFifo : Full := { ops with a := 0 }
theorem drained0 : Drained s0 slot0 := ⟨noneOf, noneOf⟩
theorem plain0 : PlainThreads s0 cur0 q0 := act0 (P := fun t => q0.member t = false ∧ sectionOpen s0 q0 t = false) (by decide)
theorem witness_fifo : Running s0 cur0 q0 ∧ NothingOlder q0 ∧ cur0.act.Nodup ∧ PlainThreads s0 cur0 q0 ∧ Drained s0 slot0 ∧
    rcDet (s0.rcdOf slot0) = false ∧ RingFree s0 q0 false 0 none fo0 [] ∧ RingFree s0 q0 true 0 none fo0 [] :=
  ⟨running0, rfl, by decide, plain0, drained0, by decide +kernel, ⟨rfl, rfl, rfl⟩, ⟨rfl, rfl, rfl⟩⟩

/-- A 1D image of 16 texels of one 32-bit channel at address 512, its descriptor at 128; `sw` is the swizzle bit. -/
def desc0 (sw : Nat) : Nat := 512 + 15 * 2 ^ 64 + 10 * 2 ^ 116 + sw * 2 ^ 126
def sImg (sw : Nat) : State :=
  { s0 with
    mem := memSetAll [] (cellsAt 0x10080 (bytesOf 16 (desc0 sw)))
    homes := [{ homeOf s0 0x204 with ht := 0, ho := false, hold := [0], ckey := some .opened }]
    held := [{ heldOf s0 0 0x204 with tok := 64, own := true, valid := true }] }
def fImg : Full := { ops with b := 0 }
theorem oneImage (sw : Nat) : OneImage (sImg sw) cur0 q0 0 fImg :=
  ⟨⟨rfl, by decide, rfl, by decide⟩, noneOf, rfl, rfl, rfl, rfl, rfl, ⟨th0, rfl, rfl⟩, by decide⟩
def accImg : Acc := { newAcc 0 128 0 0 (imageArgs 0x15A fImg q0 cur0 0) with loc := 2 ^ 76 }
def sImg1 : State := (readDesc (sImg 0) slot0 0 128).1
def tapsImg : List Tap := imageTaps (desc0 0) 0x15A [0, 0] (quadArgs 0x15A 0 (imageArgs 0x15A fImg q0 cur0 0))
def unitsImg : List (Nat × Nat) := tapUnits (texBytes (imFmt (desc0 0))) tapsImg
def sImg2 : State := (placeUnits sImg1 slot0 0 ((128, 64) :: unitsImg)).1
def sImg3 : State :=
  imageLogged sImg2 slot0 (imageEntry q0 cur0 0x15A fImg
    { accImg with spans := [(128, 0x10080, 64), (512, 0x10200, 4)], vals := [(0, desc0 0)] })
def sImg5 : State := (readUnit sImg3 slot0 0 512 4).1
theorem witness_image_reads : imageOp (.imld hdr fImg) = some (0x15A, fImg) ∧ (imageArgs 0x15A fImg q0 cur0 0).take 2 = [0, 0] ∧
    readDesc (sImg 0) slot0 0 128 = (sImg1, .ok (desc0 0)) ∧ imageFits 0x15A 0 0 128 (desc0 0) = true ∧ unitsImg = [(512, 4)] ∧
    placeUnits sImg1 slot0 0 ((128, 64) :: unitsImg) = (sImg2, .ok [(128, 0x10080, 64), (512, 0x10200, 4)]) ∧
    sImg2.cur = some cur0 ∧ sImg2.quire slot0 = some q0 ∧ sImg2.msgs = [] ∧ readUnit sImg3 slot0 0 512 4 = (sImg5, .ok 0) ∧
    sImg5.quire slot0 = sImg3.quire slot0 :=
  ⟨rfl, by decide, pair_of _ _ (by decide +kernel), by decide +kernel, by decide +kernel, pair_of _ _ (by decide +kernel),
    by decide +kernel, by decide +kernel, by decide +kernel, pair_of _ _ (by decide +kernel), by decide +kernel⟩
theorem witness_image_units : unitsRead slot0 0 unitsImg sImg3 = some (sImg5, [0]) := by
  obtain ⟨-, -, -, -, hu, -, -, -, -, hr, -⟩ := witness_image_reads
  simp [hu, unitsRead, hr]
theorem witness_image_store : imageOp (.imst hdr fImg) = some (0x15C, fImg) ∧ imageFits 0x15C 0 0 128 (desc0 0) = true ∧
    imAddr (desc0 0) [0, 0] = some 512 ∧ sImg1.cur = some cur0 ∧ sImg1.quire slot0 = some q0 ∧
    (xlate sImg1 (laneVia slot0) 0 512 .write).2 = .ok (pg0 512) ∧ imSwizzled (desc0 0) = false ∧
    (heldOf sImg1 0 (lineOf (pg0 512).loc)).tok = 64 ∧ keyTag sImg1 ((pg0 512).loc / 16) = .opened ∧ memWf sImg1.mem = true ∧
    winFind sImg1 (pg0 512).loc = none ∧ (homeOf sImg1 (lineOf (pg0 512).loc)).ckey = some .opened ∧
    hasPending sImg1 0 (lineOf (pg0 512).loc) = false := by decide +kernel
theorem witness_image_store_swizzled : imageFits 0x15C 0 0 128 (desc0 1) = true ∧ imAddr (desc0 1) [0, 0] = some 512 ∧
    imSwizzled (desc0 1) = true ∧ (readDesc (sImg 1) slot0 0 128).2 = .ok (desc0 1) ∧ (readDesc (sImg 1) slot0 0 128).1.msgs = [] := by
  decide +kernel

theorem witness_fences : Running s0 cur0 q0 ∧ NothingOlder q0 ∧ OutsideRegions q0 cur0 false ∧ ops.cls.toNat % 8 ≠ 7 :=
  ⟨running0, rfl, act0 (P := fun t => q0.member t = false) rfl, by decide⟩

theorem witness_barinit : Running s0 cur0 q0 ∧ OutsideRegions q0 cur0 false ∧ s0.folio q0.folio = some fo0 ∧ fo0.bars = [] :=
  ⟨running0, act0 (P := fun t => q0.member t = false) rfl, rfl, rfl⟩
/-- Barrier 0 of the folio: two units, none arrived, in phase 3. -/
def bar0 : Bar :=
  { num := 0, core := none, v := true, a := 2, arr := 0, pend := 0, decl := 0, got := 0, ph := 3, err := false, lerr := false, wait := 0 }
def foBar : Folio := { fo0 with bars := [bar0] }
def sBar : State := { s0 with folios := [foBar] }
theorem witness_barriers : Running sBar cur0 q0 ∧ PlainThreads sBar cur0 q0 ∧ NothingOlder q0 ∧ cur0.prog = [] ∧ Drained sBar slot0 ∧
    sBar.folio q0.folio = some foBar ∧ UsesBar foBar 0 ops.cls.toNat bar0 ∧ rcDet (sBar.rcdOf slot0) = false :=
  ⟨⟨rfl, by decide, rfl, by decide⟩, act0 (P := fun t => q0.member t = false ∧ sectionOpen sBar q0 t = false) (by decide), rfl, rfl,
    ⟨noneOf, noneOf⟩, rfl, rfl, by decide +kernel⟩
/-- BARARR.n by v2 = 5 does not fit and by v1 = 0 is no count; BARARR does; v6 = 3 is the phase and v2 is not. -/
theorem witness_bararr : bar0.arr + ((actors cur0 ops.u).map fun _ => 1).sum ≤ bar0.a := by decide
theorem witness_barwait_goes_on : ∀ t ∈ actors cur0 ops.u, src q0 cur0 ops.sa t 2 1 ≠ bar0.ph := by decide
theorem witness_barwait_blocks : ∃ t ∈ actors cur0 ops.u, src q0 cur0 ops.sa t 6 1 = bar0.ph := ⟨0, by decide, by decide⟩
def waitOf (w : Why) : Wait := { why := w, cur := cur0, op := 0, f := ops, order := 0 }
def qFbar : Quire := { q0 with wait := some (waitOf .fbar) }
def foFbar : Folio := { fo0 with fbar := [(0, 0), (0, 1)] }
theorem witness_fbar_completes : ({ sWith qFbar cur0 with folios := [foFbar] } : State).folio foFbar.id = some foFbar ∧ foFbar.fbar ≠ [] ∧
    ({ sWith qFbar cur0 with folios := [foFbar] } : State).quires = [qFbar] ∧
    qFbar.folio = foFbar.id ∧ qFbar.wait = some (waitOf .fbar) ∧ (waitOf .fbar).cur.slot = qFbar.slot ∧ ∀ t, t < qFbar.th.length → (qFbar.qid, t) ∈ foFbar.fbar := by
  refine ⟨rfl, by decide, rfl, rfl, rfl, rfl, ?_⟩
  decide
def tag0 (st : TagSt) : Tag :=
  { core := 0, num := 0, st := st, lstat := 0, op := 0, bar := none, declared := 1, mask := 1, peer := 0, record := 0, nc := 0
    match_ := false, slices := [], started := none, paused := false, prog := none, rows := [] }
def sTag (st : TagSt) : State := { s0 with folios := [{ fo0 with tags := [tag0 st] }] }
theorem witness_tags_idle : Running (sTag .done) cur0 q0 ∧ OutsideRegions q0 cur0 false ∧ acqWaits q0 cur0.act = false ∧ parkedThreads q0 cur0.act = false ∧ tagState ((sTag .done).folioOf slot0) 0 0 = .done ∧
    rcDet ((sTag .done).rcdOf slot0) = false :=
  ⟨⟨rfl, by decide, rfl, by decide⟩, act0 (P := fun t => q0.member t = false) rfl, rfl, rfl, by decide +kernel, by decide +kernel⟩
theorem witness_tags_busy : ∃ n, n < 64 ∧ (1 : Nat).testBit n = true ∧ tagState ((sTag .running).folioOf slot0) 0 n = .running :=
  ⟨0, by decide, by decide, by decide +kernel⟩

/-! Matrix words, passes, copies, records, graph words, attributes, fragments, mesh records and lists. -/

/-- Threads with 16 registers, all zero; the folio's own banks hold B from offset 0. Format word 0: BF16 by BF16 to BF16. -/
def thM : Thread := { th0 with v := List.replicate 16 0 }
def qM : Quire := { q0 with regs := 16, th := [thM, thM], s := List.replicate 8 0 }
def fMat (bv : Bool) : Mat := { c := 0, a := 4, sb := 0, f := 12, ra := false, hc := false, sf := false, bv := bv, csel := 0, cen := true, bar := 0 }
def sM : State := { sWith qM cur0 with folios := [foBar] }
theorem runningM : Running sM cur0 qM := ⟨rfl, by decide, rfl, by decide⟩
theorem matFine (bv : Bool) : MatFine sM qM cur0 0x180 (fMat bv) 0 (ruleMatBlock 0x180 (fMat bv) qM cur0) := by
  unfold MatFine
  refine ⟨act0 (P := fun t => qM.member t = false ∧ src qM cur0 false t 12 1 = 0) (by decide), by decide, by decide +revert, by decide +revert,
    by decide +revert, fun _ => by decide +revert, fun _ => ⟨foBar, bar0, rfl, rfl⟩, fun _ => ?_, fun h => by cases h⟩
  decide +revert +kernel
theorem witness_matrix (bv : Bool) : Running sM cur0 qM ∧ matOp (.mmaN8Sp hdr (fMat bv)) = some (0x180, fMat bv) ∧
    MatFine sM qM cur0 0x180 (fMat bv) 0 (ruleMatBlock 0x180 (fMat bv) qM cur0) ∧ qM.latch = none ∧ qM.chain = none ∧
    (sM.gath 0).bench = [] ∧ sM.folio qM.folio = some foBar ∧ UsesBar foBar 0 0 bar0 :=
  ⟨runningM, rfl, matFine bv, rfl, rfl, rfl, rfl, rfl⟩
def bench0 (bar : Option (Nat × Nat)) (e : Option Nat) : Bench :=
  { id := 5, seq := 0, slot := slot0, op := 0x180, f := fMat bar.isSome, pc := 72, fmt := 0, act := [0], arow := [List.replicate 8 0]
    sa := [0x3F80], cin := [List.replicate 4 0], useLatch := false, sblk := [0], bar := bar, eligible := e, prio := 0, parked := false, rcd := none }
def sBench (b : Bench) : State := { sM with gaths := State.reset.gaths.set 0 { gath0 with bench := [b] } }
def sBegun : State := passBegun (sBench (bench0 none (some 0))) 0 (bench0 none (some 0))
theorem witness_pass : let b := bench0 none (some 0); let s := sBench b
    (s.gath 0).bench = [b] ∧ (s.gath 0).passNow = none ∧ b.eligible.isSome = true ∧ b.parked = false ∧ matGl b.op = false ∧
      b.f.hc = false ∧ s.quire b.slot = some qM ∧ qM.chain = none ∧ qM.log = [] ∧ foBar.win = [] ∧ b.act.Nodup ∧
      ∀ t ∈ b.act, (b.cin.getD t []).length = rowRegs (matN b.op) (fmO b.fmt) := by decide +kernel
/-- B is 16 rows of 8 zeros; the reads leave the state as it is. -/
theorem witness_pass_units : unitsOfB 0 (bench0 none (some 0)) (List.range (matK 0 * matN 0x180)) sBegun = some (sBegun, List.replicate 128 0) := by
  decide +kernel
theorem witness_pass_after : sBegun.quire slot0 = some qM ∧ (sBegun.gath 0).bench = [bench0 none (some 0)] ∧ sBegun.folio qM.folio = some foBar := by
  decide +kernel
/-- The barrier is in phase 3; the entry captured phase 2. -/
theorem witness_entry_eligible : let b := bench0 (some (0, 2)) none; let s := sBench b
    (s.gath 0).bench.find? (fun b => b.id == 5) = some b ∧ b.bar = some (0, 2) ∧ b.eligible = none ∧ s.quire b.slot = some qM ∧
      s.folio qM.folio = some foBar ∧ bar0.ph ≠ 2 := by decide +kernel
/-- An eligible entry that reads B from generic memory through the record at 128 takes the record that is cached. -/
theorem witness_entry_takes_record : let b := { bench0 none (some 0) with op := 0x188, sblk := [128, 0] }
    let s : State := { sM with gaths := State.reset.gaths.set 0 { gath0 with bench := [b], recs := [shape0] } }
    (s.gath 0).bench.find? (fun b => b.id == 5) = some b ∧ matGl b.op = true ∧ b.bar = none ∧ b.rcd = none ∧ b.parked = false ∧
      s.quire b.slot = some qM ∧ qM.log = [] ∧ CachedRecord s 0 0 (wordsVal (b.sblk.take 2)) shape0 ∧
      (takeRecord (passBegun s 0 b) 0 b).2.toOption = some shape0.val := by unfold CachedRecord; decide +kernel

/-- CPY from scalar registers s0 to s3, all zero, under tag 0, expecting arrivals on barrier 0. -/
def fCpy (bv : Bool) : Copy := { tag := 0, a := 0, sb := 0, bv := bv, bar := 0, sa := true, csel := 0, cen := false, nc := 0 }
theorem witness_copy : copyOp (.cpy hdr (fCpy true)) = some (0x1A0, fCpy true) ∧ q0.log = [] ∧ copyCheck sBar 0x1A0 (fCpy true) q0 cur0 = none ∧
    (copyShape (serveQuire sBar slot0) 0x1A0 q0 cur0 (fCpy true)).2 = .ok none ∧
    (∀ b ∈ ruleSlice 0x1A0 q0 cur0 (fCpy true), blockMisaligned 0x1A0 none b = false) ∧
    (copyShape (serveQuire sBar slot0) 0x1A0 q0 cur0 (fCpy true)).1.quire slot0 = some q0 ∧
    (copyShape (serveQuire sBar slot0) 0x1A0 q0 cur0 (fCpy true)).1.folio q0.folio = some foBar := by decide +kernel
theorem witness_copy_first : ∀ t, (foBar.tags.find? fun t => t.core == 0 && t.num == 0) = some t → t.st ≠ .collecting := by
  intro t h; cases h
/-- A second quire's slice stands in the tag already. -/
def foCpy : Folio := { fo0 with tags := [{ tag0 .collecting with op := 0x1A0, slices := [{ qid := 1, nc := 0, blocks := [] }] }] }
theorem witness_copy_joins : copyCheck { s0 with folios := [foCpy] } 0x1A0 (fCpy false) q0 cur0 = none ∧
    (foCpy.tags.find? fun t => t.core == 0 && t.num == 0).map (·.st) = some .collecting ∧
    ∀ t ∈ cur0.lead, ∀ th ∈ q0.th[t]?, th.halt = none := by decide +kernel

def fRng : Full := { ops with sa := true, b := 2, cls := 1 }
theorem witness_records : Running sLdt cur0 q0 ∧ acqWaits q0 cur0.act = false ∧ CachedRecord sLdt 0 0 (src q0 cur0 true 0 fRng.a 2) shape0 ∧
    shapeOk (src q0 cur0 true 0 fRng.a 2) shape0.val = true ∧ shRank shape0.val = fRng.cls.toNat % 8 :=
  ⟨⟨rfl, by decide, rfl, by decide⟩, rfl, ⟨rfl, rfl, by decide, by decide⟩, by decide +kernel, by decide +kernel⟩
theorem witness_record_misaligned : src q0 cur0 true 0 6 2 % 64 ≠ 0 := by decide

/-- Page tables in memory for the executor; the graph region at address 0, two spawn slots when `qs` is 1. -/
def sTab (qs : Nat) : State :=
  { s0 with mem := memSetAll [] placedTables, ctxs := State.reset.ctxs.set 0 { ctx0 with tgEn := true, tgQsize := qs } }
theorem witness_signal : q0.region = none ∧ q0.log = [] ∧ serveQuire (sTab 0) slot0 = sTab 0 ∧ Drained (sTab 0) slot0 ∧
    actors cur0 ops.u = [0] ∧ src q0 cur0 false 0 0 1 % 65536 < 2 ^ ((sTab 0).ctx 0).tgHsize + spawnCount (sTab 0) 0 ∧
    SlotReached (sTab 0) 0 (slotAddr (sTab 0) 0 0 + 76) (pg0 76) := by
  refine ⟨rfl, rfl, rfl, ⟨noneOf, noneOf⟩, rfl, by decide, rfl, ?_, by decide +kernel, by decide +kernel, by decide, by decide +kernel⟩
  decide +kernel
theorem witness_signal_nothing : (0xFFFF : Nat) % 65536 = 0xFFFF := rfl
def sSpawn (qs : Nat) : State := (agentRead (sTab qs) (laneVia slot0) 0 128 128).1
theorem spawnRead (qs : Nat) (h : qs = 0 ∨ qs = 1) : agentRead (sTab qs) (laneVia slot0) 0 128 128 = (sSpawn qs, .ok (List.replicate 128 0)) :=
  pair_of _ _ (by rcases h with rfl | rfl <;> decide +kernel)
theorem witness_spawn_full : rcDet ((sTab 0).rcdOf slot0) = false ∧ src q0 cur0 false 0 4 2 % 128 = 0 ∧
    agentRead (sTab 0) (laneVia slot0) 0 128 128 = (sSpawn 0, .ok (List.replicate 128 0)) ∧ (sSpawn 0).cur = some cur0 ∧
    (sSpawn 0).quire slot0 = some q0 ∧ (sSpawn 0).pending = [] ∧ (sSpawn 0).msgs = [] ∧ freeSpawn (sSpawn 0) 0 = none :=
  ⟨by decide +kernel, by decide, spawnRead 0 (.inl rfl), by decide +kernel, by decide +kernel, by decide +kernel, by decide +kernel, by decide +kernel⟩
theorem witness_spawn : (sSpawn 1).cur = some cur0 ∧ (sSpawn 1).quire slot0 = some q0 ∧ (sSpawn 1).pending = [] ∧ (sSpawn 1).msgs = [] ∧
    freeSpawn (sSpawn 1) 0 = some 1 ∧ anyParked (sSpawn 1) 0 [slotAddr (sSpawn 1) 0 1] = (sSpawn 1, false) ∧
    (graphWrite { sSpawn 1 with spawnUsed := [(0, 1)] } 0 (slotAddr (sSpawn 1) 0 1) (List.replicate 128 0)).2 = none :=
  ⟨by decide +kernel, by decide +kernel, by decide +kernel, by decide +kernel, by decide +kernel, by decide +kernel, by decide +kernel⟩

/-- A TILE pass of 64 by 64 pixels with one primitive, a triangle (0, 0), (1, 0), (0, 1) with w = 1; thread 0 holds its fragment of
order 1 at (32, 32); a list budget of 8. -/
def vert (x y : Word) : List Word := [x, y, 0, 0x3F800000] ++ List.replicate 32 0x3F800000
def prim0 : Prim := { order := 1, page := 0, v0 := vert 0 0, v1 := vert 0x3F800000 0, v2 := vert 0 0x3F800000 }
def tile0 : Tile :=
  { n := 0, gath := 0, bytes := [(0, 255), (1, 255)], pages := [], free := [], next := 0, rastered := true, resolved := false }
def frag0 (order : Nat) (st : Section) : Frag := { tile := 0, x := 32, y := 32, order := order, st := st, retired := false }
def pass0 (fs : List Frag) (as : List Append) : Pass :=
  { id := 9, node := 0, ctx := 0, desc := setField (setField (setField 0 1071 1056 63) 1087 1072 63) 1124 1120 8, addr := 0
    tmpl := [0, 0, 0, 0, 0, 0], imm := false, st := .raster, status := 0, meshOut := [], primPages := 1, prims := [prim0], samples := [], nextFid := 0
    nextTile := 1, tiles := [tile0], frags := fs, quires := [], appends := as, poolNext := 0, poolFree := [], fail := none }
def fragTh0 : FragTh := { pass := 9, tile := 0, x := 32, y := 32, order := 1, prim := 1, helper := false }
def qF : Quire := { q0 with th := [{ th0 with frag := some fragTh0 }, th0] }
def foF : Folio := { fo0 with stage := .fragment, pass := 9 }
def sF (fs : List Frag) (as : List Append) : State := { sWith qF cur0 with folios := [foF], passes := [pass0 fs as] }
theorem runningF (fs : List Frag) (as : List Append) : Running (sF fs as) cur0 qF := ⟨rfl, by decide, rfl, by decide⟩
theorem witness_interp : ∀ t ∈ cur0.act, HoldsPrim (sF [] []) qF (pass0 [] []) t fragTh0 prim0 ∧
    ∃ pg, xlate (sF [] []) (laneVia slot0) 0 (bitsOf (pass0 [] []).desc 447 384 + 4096 * prim0.page) .read = (sF [] [], .ok pg) :=
  act0 (P := fun t => HoldsPrim (sF [] []) qF (pass0 [] []) t fragTh0 prim0 ∧
    ∃ pg, xlate (sF [] []) (laneVia slot0) 0 (bitsOf (pass0 [] []).desc 447 384 + 4096 * prim0.page) .read = (sF [] [], .ok pg))
    ⟨⟨⟨_, rfl, rfl⟩, rfl, rfl⟩, pg0 0, by decide +kernel⟩
/-- The centre (32.5, 32.5) of the pixel has weights 62/64, 1/64 and 1/64. -/
theorem witness_interp_weights : PerspWeights (pdWm (pass0 [] []).desc) (pdHm (pass0 [] []).desc) prim0 (((32 : Nat) : Rat) + 1 / 2 + jitter (pdJx (pass0 [] []).desc))
      (((32 : Nat) : Rat) + 1 / 2 + jitter (pdJy (pass0 [] []).desc)) (62 / 64, 1 / 64, 1 / 64) ∧ primFinite prim0 = true ∧
    fpFinite fp32 (attrOf prim0.v0 0) = true := by
  unfold PerspWeights; decide +kernel
theorem witness_mesh : Running s0 cur0 q0 ∧ (∀ t ∈ cur0.act, q0.member t = false) ∧ s0.folio q0.folio = some fo0 :=
  ⟨running0, act0 (P := fun t => q0.member t = false) rfl, rfl⟩

theorem holdFrags (fs : List Frag) (as : List Append) : HoldFrags (sF fs as) cur0 qF (pass0 fs as) fun _ => fragTh0 :=
  ⟨runningF fs as, rfl, act0 (P := fun t => qF.member t = false ∧ (∃ th, qF.th[t]? = some th ∧ th.frag = some fragTh0) ∧
    fragTh0.helper = false ∧ fragTh0.pass = 9) ⟨rfl, ⟨_, rfl, rfl⟩, rfl, rfl⟩⟩
theorem witness_discard : HoldFrags (sF [frag0 1 .none] []) cur0 qF (pass0 [frag0 1 .none] []) (fun _ => fragTh0) ∧
    ∀ t ∈ cur0.act, sectionOpen (sF [frag0 1 .none] []) qF t = false := ⟨holdFrags _ _, by decide +kernel⟩
theorem witness_discard_inside : HoldFrags (sF [frag0 1 .opened] []) cur0 qF (pass0 [frag0 1 .opened] []) (fun _ => fragTh0) ∧
    (∀ t ∈ cur0.act, sectionOpen (sF [frag0 1 .opened] []) qF t = true) ∧ Drained (sF [frag0 1 .opened] []) slot0 :=
  ⟨holdFrags _ _, by decide +kernel, noneOf, noneOf⟩
theorem witness_osenter : acqWaits qF cur0.act = false ∧ parkedThreads qF cur0.act = false ∧ (∀ x ∈ (pass0 [frag0 0 .done, frag0 1 .none] []).frags, x.st ≠ .leaving) ∧ (∀ x ∈ (pass0 [frag0 0 .done, frag0 1 .none] []).frags, (∃ t ∈ cur0.act, sameFrag fragTh0 x = true) → x.st = .none) ∧
    ∀ t ∈ cur0.act, ∀ x ∈ (pass0 [frag0 0 .done, frag0 1 .none] []).frags, x.x = 32 ∧ x.y = 32 ∧ x.order < 1 → x.st = .done := by decide +kernel
theorem witness_osenter_waits : (∀ x ∈ (pass0 [frag0 0 .none, frag0 1 .none] []).frags, (∃ t ∈ cur0.act, sameFrag fragTh0 x = true) → x.st = .none) ∧
    ∃ t ∈ cur0.act, ∃ x ∈ (pass0 [frag0 0 .none, frag0 1 .none] []).frags, (x.x = 32 ∧ x.y = 32 ∧ x.order < 1) ∧
      ¬ (x.st = .done ∨ (x.retired = true ∧ x.st ≠ .opened)) := by decide +kernel
theorem witness_osexit : (sF [frag0 1 .opened] []).folio qF.folio = some foF ∧ foF.pass = (pass0 [frag0 1 .opened] []).id ∧ qF.log = [] ∧
    (∀ x ∈ (pass0 [frag0 1 .opened] []).frags, x.st = .opened) ∧
    (∀ t ∈ cur0.act, ∃ x ∈ (pass0 [frag0 1 .opened] []).frags, sameFrag fragTh0 x = true) := by decide +kernel

theorem witness_lists : Running (sF [] []) cur0 qF ∧ (∀ t ∈ cur0.act, qF.member t = false) ∧ (sF [] []).folio qF.folio = some foF ∧
    (∀ t ∈ cur0.act, listHome (sF [] []) foF qF t = some (9, 0)) ∧ (sF [] []).pass foF.pass = some (pass0 [] []) ∧ ∀ t ∈ cur0.act, (threadFrag qF t).isSome = true :=
  ⟨runningF _ _, act0 (P := fun t => qF.member t = false) rfl, rfl, act0 (P := fun t => listHome (sF [] []) foF qF t = some (9, 0)) rfl, rfl, act0 (P := fun t => (threadFrag qF t).isSome = true) rfl⟩
/-- Position (5, 0) of v2 is in the frame and its list is empty; position (128, 0) of v4 is outside. -/
theorem witness_lfirst : (src qF cur0 false 0 2 1 % 65536 ≤ pdWm (pass0 [] []).desc) ∧ listTile (pass0 [] []) (pixelTile (pass0 [] []).desc 32 32) = some tile0 ∧
    listRead (sF [] []) 0 0 tile0 (headPlace (pass0 [] []) 0 0) 4 = (sF [] [], .ok 0xFFFF) ∧ pdWm (pass0 [] []).desc < src qF cur0 false 0 4 1 % 65536 := by
  decide +kernel
/-- A node written before, at index 3 of the tile's banks. -/
theorem witness_lnext : nodeRead (sF [] []) 0 (pass0 [] []) { tile0 with bytes := [(0, 255), (1, 255), (17408 + 48, 7)] } 3 = (sF [] [], .ok 7) := by decide +kernel

def app0 (x : Nat) : Append :=
  { id := 4, x := x, y := 0, node := 0x3F800000, ord := none, prog := 0, src := (1, slot0, 0), frag := none, tile := 0, gath := 0, slot := some (slot0, 0, 0), d := 2, ctr := none
    ray := none, merging := false, pair := none, result := none }
theorem witness_append : (pass0 [] [app0 0]).appends = [app0 0] ∧ (sF [] [app0 0]).pass 9 = some (pass0 [] [app0 0]) ∧
    (sF [] [app0 0]).quire slot0 = some qF ∧ (∀ v ∈ qF.varp, v.seq = 0 → v.old ≠ none) ∧ (∀ q ∈ (sF [] [app0 0]).quires, ∀ fo, (sF [] [app0 0]).folio q.folio = some fo → fo.stage ≠ .merge) ∧
    BankTile (sF [] [app0 0]) (pass0 [] [app0 0]) tile0 0 0 [] 0 ∧ ListHolds (sF [] [app0 0]) 0 (pass0 [] [app0 0]) tile0 0 0 [] ∧
    0 < pdBudget (pass0 [] [app0 0]).desc := by
  refine ⟨rfl, rfl, rfl, noneOf, fun q hq fo h => ?_, ?_, ⟨0xFFFF, by decide +kernel, by decide, rfl, fun _ => by decide⟩, by decide +kernel⟩
  · obtain rfl : q = qF := by simpa [sF, sWith] using hq
    obtain rfl := Option.some.inj h
    decide
  · exact ⟨rfl, rfl, rfl, by decide +kernel, by decide +kernel, by decide +kernel, rfl, noneOf, by decide, noneOf, rfl, rfl, by decide +kernel, by decide⟩
theorem witness_append_outside : pdWm (pass0 [] [app0 64]).desc < (app0 64).x := by decide +kernel

/-! Rays and blocked quires. -/

/-- The launch allows three traces deep, and the context has one page of ray blocks at address 0. -/
def sR (rs : List Ray) : State :=
  { s0 with
    folios := [{ fo0 with rcd := setField rcd0 580 576 3 }], ctxs := State.reset.ctxs.set 0 { ctx0 with rayPages := 1 }, rays := rs }
theorem oneTracer : OneTracer (sR []) cur0 q0 0 := ⟨⟨rfl, by decide, rfl, by decide⟩, rfl, rfl, rfl, rfl, by decide +kernel, by decide⟩
theorem pool_gives : PoolGives { ctx0 with rayPages := 1 } 2 0 :=
  ⟨0, 0, rfl, ⟨by decide, by decide, noneOf⟩, fun _ _ _ => Nat.zero_le _⟩
theorem pool_gives_one : ∀ hd, PoolGives ((sR []).ctx 0) 2 hd → hd = 0 := fun hd ⟨_, _, _, _, h⟩ =>
  Nat.le_zero.mp (h 0 0 ⟨by decide, by decide, noneOf⟩)
theorem witness_trace : OneTracer (sR []) cur0 q0 0 ∧ (8 : BitVec 8).toNat + 2 < 256 ∧ 0 ≤ rcPayload ((sR []).rcdOf slot0) ∧
    (∀ hd, PoolGives ((sR []).ctx q0.ctx) 2 hd → (sR []).ray 0 hd = none ∧
      ∃ pg, xlate (sR []) (laneVia slot0) 0 (rayAddr (sR []) 0 hd) .write = (sR [], .ok pg)) ∧
    (traceSeat q0 0 (0xFFFFFFFF, 0)).1 + 1 ≤ rcRdepth ((sR []).rcdOf slot0) :=
  ⟨oneTracer, by decide, Nat.zero_le _, fun hd h => by rw [pool_gives_one hd h]; exact ⟨rfl, pg0 0, by decide +kernel⟩, by decide +kernel⟩
/-- The folio of `s0` allows no trace; its context has no page of blocks. -/
theorem witness_trace_depth : rcRdepth (s0.rcdOf slot0) < (traceSeat q0 0 (0xFFFFFFFF, 0)).1 + 1 := by decide +kernel
theorem witness_trace_full : ∀ p k, ¬ RunFree ctx0 2 p k := fun p _ h => absurd h.1 (Nat.not_lt_zero p)
def sImage1 : State := (readSpan slot0 0 8 128 (sR [])).1
theorem witness_trace_image : src q0 cur0 false 0 4 2 % 16 = 0 ∧ readSpan slot0 0 8 128 (sR []) = (sImage1, .ok (List.replicate 128 0)) ∧
    bitsOf (bytesVal (List.replicate 128 0)) 348 344 = 0 ∧ readSpan slot0 0 0 (128 + 128) sImage1 = (sImage1, .ok []) ∧
    sImage1.cur = some cur0 ∧ sImage1.quire slot0 = some q0 ∧ 0 < sImage1.ctxs.length :=
  ⟨by decide, pair_of _ _ (by decide +kernel), by decide +kernel, rfl, by decide +kernel, by decide +kernel, by decide +kernel⟩
theorem image_ctx : sImage1.ctx 0 = (sR []).ctx 0 := by decide +kernel
theorem witness_trace_image_writable : ∀ hd, PoolGives (sImage1.ctx 0) 2 hd → sImage1.ray 0 hd = none ∧
    ∃ pg, xlate sImage1 (laneVia slot0) 0 (rayAddr sImage1 0 hd) .write = (sImage1, .ok pg) :=
  fun hd h => by
    rw [image_ctx] at h
    rw [pool_gives_one hd h]
    exact ⟨by decide +kernel, pg0 0, by decide +kernel⟩

/-- Ray 0 of thread 0: TMAX infinite, status 7, depth 1; thread 0 of `qR` holds it as its routine's ray. -/
def ray0 (a : RayAt) : Ray :=
  { handle := 0, ctx := 0, node := 0, folio := 1, gath := 0, slot := slot0, tidx := 0, anyhit := false
    rcd := setField (setField (0x7F800000 * 2 ^ 224) 343 341 7) 340 336 1, at_ := a
    skind := 1, ct := 0, cbary := 0, cprim := 3, face := 1, rout := 0, user := 0, cancel := false, appStat := 7, attr := false, wpend := false, stale := false, link := none, born := 0, tile := 0
    order := 0, joined := 0 }
def hold0 : RayTh := { handle := 0, held := true, pend := none, depth := 1, pix := 0, ord := 0, anyhit := false, node := 0, tile := 0 }
def qR : Quire := { q0 with th := [{ th0 with ray := some hold0 }, th0] }
/-- Its state block, at 128, holds depth 1 and status 7 in byte 46. -/
def sRR (a : RayAt) : State := { sR [ray0 a] with quires := [qR], mem := [(0x100AE, 0xE1)], huddles := [{ gath := 0, ctx := 0, addr := none, rays := [0], susp := false }] }
theorem oneTracerR : OneTracer (sRR .inRoutine) cur0 qR 0 := ⟨⟨rfl, by decide, rfl, by decide⟩, rfl, rfl, rfl, rfl, by decide +kernel, by decide⟩
theorem rayOf0 (a : RayAt) : RayOf { sR [ray0 a] with quires := [q0] } q0 0 0 (ray0 a) := ⟨rfl, rfl, rfl⟩
/-- v0 = 0 names ray 0; v2 = 5 names none. -/
theorem witness_ray_waits : Running (sR [ray0 .huddle]) cur0 q0 ∧ cur0.act = [0] ∧ q0.slot = cur0.slot ∧ q0.region = none ∧
    sectionOpen (sR [ray0 .huddle]) q0 0 = false ∧ src q0 cur0 false 0 0 1 = 0 ∧ RayOf (sR [ray0 .huddle]) q0 0 0 (ray0 .huddle) ∧
    (ray0 .huddle).at_ ≠ .complete :=
  ⟨⟨rfl, by decide, rfl, by decide⟩, rfl, rfl, rfl, rfl, by decide, ⟨rfl, rfl, rfl⟩, by decide⟩
theorem witness_ray_none : NamesNone (sR [ray0 .huddle]) q0 0 (src q0 cur0 false 0 2 1) := fun r h => by cases h.1
def sComplete : State := (agentRead (sR [ray0 .complete]) (laneVia slot0) 0 (bitsOf ((sR [ray0 .complete]).ctx 0).rayBase.toNat 56 12 * 4096 + 128 * 0) 128).1
theorem witness_ray_complete : RayOf (sR [ray0 .complete]) q0 0 0 (ray0 .complete) ∧
    agentRead (sR [ray0 .complete]) (laneVia slot0) 0 (bitsOf ((sR [ray0 .complete]).ctx 0).rayBase.toNat 56 12 * 4096 + 128 * 0) 128 =
      (sComplete, .ok (List.replicate 128 0)) ∧
    sComplete.cur = some cur0 ∧ sComplete.quire slot0 = some q0 ∧ sComplete.rays = [ray0 .complete] ∧ sComplete.huddles = [] :=
  ⟨⟨rfl, rfl, rfl⟩, pair_of _ _ (by decide +kernel), by decide +kernel, by decide +kernel, by decide +kernel, by decide +kernel⟩
theorem witness_report_none : qR.th[1]? = some th0 ∧ th0.ray = none := ⟨rfl, rfl⟩
theorem witness_report : Running (sRR .inRoutine) cur0 qR ∧ qR.th[0]? = some { th0 with ray := some hold0 } ∧ hold0.held = true ∧
    (sRR .inRoutine).ray 0 0 = some (ray0 .inRoutine) :=
  ⟨⟨rfl, by decide, rfl, by decide⟩, rfl, rfl, rfl⟩
/-- A candidate at t = v2 against the record is accepted; against TMAX = 0 it is not. -/
theorem witness_report_accepted : Accepts (bitsOf (ray0 .inRoutine).rcd 127 96) (bitsOf (ray0 .inRoutine).rcd 255 224)
    (bitsOf (ray0 .inRoutine).rcd 351 349) (bitsOf (ray0 .inRoutine).rcd 799 768) (src qR cur0 false 0 2 1) 3 := by
  unfold Accepts; decide +kernel
theorem witness_report_refused : ¬ Accepts 0 0 0 0 (src qR cur0 false 0 2 1) 3 := by unfold Accepts; decide +kernel
def block0 : List Byte := (List.replicate 64 0).set 46 0xE1
def sBlock : State := (engineRead (sRR .inRoutine) 0 0 (rayAddr (sRR .inRoutine) 0 1) 64).1
def sReload : State := (engineRead sBlock 0 0 (rayAddr sBlock 0 0) 128).1
theorem witness_resume_ray : OneTracer (sRR .inRoutine) cur0 qR 0 ∧ (ray0 .inRoutine).ctx = qR.ctx ∧ (ray0 .inRoutine).handle = hold0.handle ∧
    engineRead (sRR .inRoutine) 0 0 (rayAddr (sRR .inRoutine) 0 1) 64 = (sBlock, .ok block0) ∧
    engineRead sBlock 0 0 (rayAddr sBlock 0 0) 128 = (sReload, .ok (List.replicate 128 0)) ∧ sReload.quire slot0 = some qR ∧ sReload.rays = (sRR .inRoutine).rays ∧
    reloadOk (reloaded (bytesVal (List.replicate 128 0)) (bytesVal block0)) = true :=
  ⟨oneTracerR, rfl, rfl, pair_of _ _ (by decide +kernel), pair_of _ _ (by decide +kernel), by decide +kernel, by decide +kernel, by decide +kernel⟩
theorem witness_cancel (a : RayAt) : RayOf (sRR a) qR 0 (src qR cur0 false 0 0 1) (ray0 a) ∧
    ∀ y ∈ (sRR a).rays, y.ctx = (ray0 a).ctx → y.handle = (ray0 a).handle → y = ray0 a :=
  ⟨⟨rfl, rfl, rfl⟩, fun y h _ _ => by simpa [sRR, sR] using h⟩

/-- Thread 0's word at 72 blocked in `w`, its rally going on. -/
def rally0 : Rally := { lead := [0], depth := 0, head := 72, next := 72, words := 0, begun := 0, sweep := 0, stall := 0, issues := [] }
def waitW (w : Why) (op : Nat) (prog : List (Nat × Nat)) : Wait := { why := w, cur := { cur0 with prog := prog }, op := op, f := { ops with a := 0 }, order := 0 }
def qW (w : Wait) : Quire := { q0 with wait := some w, rally := some rally0 }
theorem blockedIn (q : Quire) (w : Wait) (y : Why) (s : State) (hq : s.quire slot0 = some q) (hs : q.slot = slot0) (hw : q.wait = some w)
    (hy : w.why = y) (hc : ∃ p, w.cur = { cur0 with prog := p }) (hl : q.log = []) (hr : q.region = none) (ht : 1 ≤ q.th.length)
    (hn : ∀ th ∈ q.th, th.tryTh = none) (ha : ∃ th, q.th[0]? = some th ∧ th.alive = true) : BlockedIn s q w y := by
  obtain ⟨p, hc⟩ := hc
  refine ⟨by rw [hs]; exact hq, hw, hy, by rw [hc, hs]; rfl, by rw [hc]; exact nofun, ?_, by rw [hc]; rfl, by rw [hc]; rfl, hl, hr, hn, 0, by rw [hc]; exact List.mem_singleton.2 rfl, ha⟩
  rw [hc]; exact act0 (P := fun t => t < q.th.length) ht
def sW (w : Wait) (fo : Folio) : State := { sWith (qW w) cur0 with folios := [fo], cur := none }
theorem blockedW (w : Why) (op : Nat) (prog : List (Nat × Nat)) (fo : Folio) : BlockedIn (sW (waitW w op prog) fo) (qW (waitW w op prog)) (waitW w op prog) w :=
  blockedIn _ _ _ _ rfl rfl rfl rfl ⟨prog, rfl⟩ rfl rfl (by simp [qW, q0]) (by simp [qW, q0, th0]) ⟨th0, rfl, rfl⟩
theorem witness_push_reserve : BlockedIn (sW (waitW .fpush 0x148 []) fo0) (qW (waitW .fpush 0x148 [])) (waitW .fpush 0x148 []) .fpush ∧
    (sW (waitW .fpush 0x148 []) fo0).folio 1 = some fo0 ∧ FirstInLine (sW (waitW .fpush 0x148 []) fo0) (qW (waitW .fpush 0x148 [])) (waitW .fpush 0x148 []) ∧
    fo0.fifos[0]? = some { ring := [] } ∧ Drained (sW (waitW .fpush 0x148 []) fo0) slot0 ∧
    0 + 1 ≤ 32768 / fifoBytes ((sW (waitW .fpush 0x148 []) fo0).rcdOf slot0) :=
  ⟨blockedW _ _ _ _, rfl, fun x hx _ hn => absurd (by obtain rfl : x = qW (waitW .fpush 0x148 []) := by simpa [sW, sWith] using hx
                                                      rfl) hn, rfl, ⟨noneOf, noneOf⟩, by decide +kernel⟩
def foRing : Folio := { fo0 with fifos := [{ ring := [[7]] }] }
theorem witness_pop_reserve : BlockedIn (sW (waitW .fpop 0x149 []) foRing) (qW (waitW .fpop 0x149 [])) (waitW .fpop 0x149 []) .fpop ∧
    foRing.fifos[0]? = some { ring := [[7]] } ∧ (waitW .fpop 0x149 []).cur.act.length ≤ [[(7 : Word)]].length ∧ (waitW .fpop 0x149 []).cur.act.Nodup :=
  ⟨blockedW _ _ _ _, rfl, by decide, by decide⟩
theorem witness_barwait_release : BlockedIn (sW (waitW .barwait 0x16B [(0, 2)]) foBar) (qW (waitW .barwait 0x16B [(0, 2)])) (waitW .barwait 0x16B [(0, 2)]) .barwait ∧
    UsesBar foBar 0 (waitW .barwait 0x16B [(0, 2)]).f.cls.toNat bar0 ∧ ∀ e ∈ (waitW .barwait 0x16B [(0, 2)]).cur.prog, e.2 ≠ bar0.ph :=
  ⟨blockedW _ _ _ _, rfl, by decide⟩
theorem witness_tagwait_release : BlockedIn (sW (waitW .tagwait 0x170 [(0, 1)]) { fo0 with tags := [tag0 .done] }) (qW (waitW .tagwait 0x170 [(0, 1)]))
      (waitW .tagwait 0x170 [(0, 1)]) .tagwait ∧
    ∀ n, n < 64 → (1 : Nat).testBit n = true → tagState (some { fo0 with tags := [tag0 .done] }) 0 n = .idle ∨
      tagState (some { fo0 with tags := [tag0 .done] }) 0 n = .done :=
  ⟨blockedW _ _ _ _, by decide +kernel⟩
theorem witness_regq_grant : BlockedIn (sW (waitW .regq 0xE8 []) fo0) (qW (waitW .regq 0xE8 [])) (waitW .regq 0xE8 []) .regq ∧
    (qW (waitW .regq 0xE8 [])).w * (regGranule (waitW .regq 0xE8 []).f.b.toNat - regGranule 8) ≤ laneFree (sW (waitW .regq 0xE8 []) fo0) slot0 :=
  ⟨blockedW _ _ _ _, by decide +kernel⟩
def qWF : Quire := { qF with wait := some (waitW .osenter 0x1C0 []), rally := some rally0 }
def sWF : State := { sF [frag0 0 .done, frag0 1 .none] [] with quires := [qWF] }
theorem witness_osenter_grant : BlockedIn sWF qWF (waitW .osenter 0x1C0 []) .osenter ∧ sWF.pass 9 = some (pass0 [frag0 0 .done, frag0 1 .none] []) ∧
    (∃ th, qWF.th[0]? = some th ∧ th.frag = some fragTh0) ∧ ∀ x ∈ (pass0 [frag0 0 .done, frag0 1 .none] []).frags, x.order < 1 → x.st = .done :=
  ⟨blockedIn _ _ _ _ rfl rfl rfl rfl ⟨[], rfl⟩ rfl rfl (by decide) (by simp [qWF, qF, q0, th0]) ⟨_, rfl, rfl⟩, rfl, ⟨_, rfl, rfl⟩, by decide⟩
theorem witness_twait_all_release : BlockedIn (sW (waitW .twait 0x1D3 []) fo0) (qW (waitW .twait 0x1D3 [])) (waitW .twait 0x1D3 []) .twait ∧
    (waitW .twait 0x1D3 []).op ≠ 0x1D2 ∧ (sW (waitW .twait 0x1D3 []) fo0).rays = [] := ⟨blockedW _ _ _ _, by decide, rfl⟩
theorem witness_twait_release : BlockedIn (sW (waitW .twait 0x1D2 []) fo0) (qW (waitW .twait 0x1D2 [])) (waitW .twait 0x1D2 []) .twait ∧
    (waitW .twait 0x1D2 []).cur.act = [0] ∧ NamesNone (sW (waitW .twait 0x1D2 []) fo0) (qW (waitW .twait 0x1D2 [])) 0 0 :=
  ⟨blockedW _ _ _ _, rfl, fun r h => by cases h.1⟩
def sWR : State := { sW (waitW .twait 0x1D2 []) fo0 with rays := [ray0 .complete] }
def sTwait : State := { (sWR.setQuire slot0 fun y => { y with wait := none }) with cur := some { (waitW .twait 0x1D2 []).cur with began := sWR.cycle } }
def sTwait2 : State := (agentRead sTwait (laneVia slot0) 0 (bitsOf (sWR.ctx 0).rayBase.toNat 56 12 * 4096 + 128 * 0) 128).1
theorem witness_twait_release_ray : RayOf sWR (qW (waitW .twait 0x1D2 [])) 0 0 (ray0 .complete) ∧
    agentRead sTwait (laneVia slot0) 0 (bitsOf (sWR.ctx 0).rayBase.toNat 56 12 * 4096 + 128 * 0) 128 = (sTwait2, .ok (List.replicate 128 0)) ∧
    sTwait2.cur = sTwait.cur ∧ sTwait2.quires = sTwait.quires :=
  ⟨⟨rfl, rfl, rfl⟩, pair_of _ _ (by decide +kernel), by decide +kernel, by decide +kernel⟩

/-! Bring-up, registers, contexts, the executor and folios. -/

theorem witness_bring_up : ({ State.reset with boot := 1 } : State).boot = 1 ∧ ({ State.reset with boot := 2 } : State).boot = 2 ∧ (31 : Nat) < 32 ∧ (s0.ctx 0).master < 32 ∧ memWf State.reset.mem = true ∧ s0.boot = 3 := by decide +kernel
/-- Function 1's master owns nothing in `s0`; after an unassignment nothing is assigned. -/
theorem witness_function_reset : (∀ c, c < 64 → (s0.ctx c).v = true → (s0.ctx c).master ≠ 1) ∧ ∀ c, c < 64 → (State.reset.ctx c).v = false := by
  decide +kernel
def port0 (n : Nat) : Port := { trained := true, dev := 3, flits := 9, replays := n, epoch := 0 }
theorem witness_ports : s0.ready = true ∧ ({ s0 with fabEn := true } : State).fabEn = true ∧
    ({ s0 with ports := [port0 16] } : State).ports[0]? = some (port0 16) ∧ (port0 16).trained = true ∧ 16 ≤ (port0 16).replays ∧
    ({ s0 with quires := [], folios := [] } : State).persists = [] := by decide +kernel
theorem witness_attestation : State.reset.fwOk = false ∧ s0.fwOk = true ∧ s0.boot = 3 ∧
    (3, true) ∈ ({ s0 with spdm := { sessions := [(3, true)], next := 4, reply := [] } } : State).spdm.sessions := by decide +kernel
theorem owned0 : Owned s0 0 0 := ⟨rfl, by decide, rfl, rfl⟩
theorem witness_register_writes : Owned s0 0 0 ∧ 0 < s0.ctxs.length ∧ ctx0.heldRecs = [] ∧ ctx0.tgEn = false ∧ (0 : Word).getLsbD 31 = false :=
  ⟨owned0, by decide, rfl, rfl, by decide⟩
theorem witness_register_writes_enabled : ({ ctx0 with tgEn := true, dead := true }).tgEn = true ∧ ({ ctx0 with tgEn := true, dead := true }).dead = true := by
  decide
theorem witness_diag : sBar.quire { core := 4 * 0 + bitsOf (sBar.gath 0).bsel 14 13, lane := bitsOf (sBar.gath 0).bsel 12 7, q := bitsOf (sBar.gath 0).bsel 6 5 } = some q0 ∧
    sBar.folio q0.folio = some foBar ∧ UsesBar foBar (4 * 0 + bitsOf (sBar.gath 0).bsel 14 13) (bitsOf (sBar.gath 0).bsel 4 0) bar0 :=
  ⟨rfl, rfl, rfl⟩
/-- Master 1 owns nothing; a write of a management register by it; an offset of context 0's block. -/
theorem witness_strangers : ctxWriteOf (.ctxWake 1 0) = some (1, 0) ∧ ¬ Owned s0 1 0 ∧ managementWriteOf (.fabEnWrite 1 0) = some 1 ∧
    (0x10000 : Nat) ≤ 0x10058 ∧ (0x10058 : Nat) < 0x13FFC ∧ (0x10058 - 0x10000) / 0x100 = 0 ∧ (0x10058 : Nat) % 8 = 0 :=
  ⟨rfl, fun h => absurd h.2.2.2 (by decide), rfl, by decide, by decide, by decide, by decide⟩
def sCtx (x : Ctx) : State := { s0 with ctxs := State.reset.ctxs.set 0 x }
theorem witness_contexts : (sCtx ctx0).ctx 0 = ctx0 ∧ 0 < (sCtx ctx0).ctxs.length ∧ ctx0.dead = false ∧ (∀ h ∈ (sCtx ctx0).held, h.tok = 0) ∧ (∀ k ∈ (sCtx ctx0).msgs, k.kind.isTokens = false) ∧
    (∀ r ∈ (sCtx ctx0).rays, r.ctx ≠ 0) ∧ draining (sCtx { ctx0 with dead := true }) 0 = false ∧ ((sCtx { ctx0 with dead := true }).ctx 0).dead = true ∧ ((sCtx { ctx0 with dead := true }).ctx 0).recl = false :=
  ⟨rfl, by decide, rfl, noneOf, noneOf, noneOf, by decide +kernel, rfl, rfl⟩
theorem witness_resume_go : Owned s0 0 0 ∧ ctx0.capWait = [] ∧ ctx0.execWait = [] ∧ ∀ q ∈ s0.quires, q.log = [] := ⟨owned0, rfl, rfl, by decide⟩
def sWake : State := (graphRead (sTab 0) 0 (bitsOf ((sTab 0).ctx 0).ghAddr.toNat 56 7 * 128) 4).1
theorem witness_wake : ((sTab 0).ctx 0).v = true ∧ ((sTab 0).ctx 0).tgEn = true ∧ ((sTab 0).ctx 0).dead = false ∧
    graphRead (sTab 0) 0 (bitsOf ((sTab 0).ctx 0).ghAddr.toNat 56 7 * 128) 4 = (sWake, .ok [0, 0, 0, 0]) ∧ 0 < sWake.ctxs.length ∧
    xlate sWake { core := none, gath := none } 0 (sWake.ctx 0).ghAddr.toNat .read = (sWake, .ok (pg0 0)) ∧ sWake.monitors = [] ∧
    isDev (pg0 0).loc = true :=
  ⟨by decide +kernel, by decide +kernel, by decide +kernel, pair_of _ _ (by decide +kernel), by decide +kernel, by decide +kernel,
    by decide +kernel, by decide +kernel⟩
theorem witness_invalidation : ((sCtx { ctx0 with invalBusy := true, invalKind := 2 }).ctx 0).invalBusy = true ∧ ctx0.invalBusy = false ∧
    (∀ q ∈ s0.quires, q.log = [] ∧ q.region = none) ∧ s0.pending = [] ∧ s0.msgs = [] ∧ s0.walks = [] := by decide +kernel
def walk0 (page : Nat) : Walk := { id := 3, ctx := 0, page := page, root := some 0x1001, core := some 0, gath := 0, slot := some slot0, discard := false }
/-- Page 0 is mapped and page 1 is not. -/
theorem witness_walk : walkTables (sTab 0) 0x1001 (0 * 65536) = .ok (0x102E1, 0) ∧ walkTables (sTab 0) 0x1001 (1 * 65536) = .error 0 ∧ (sTab 0).badWalks = [] ∧
    (∀ f ∈ (sTab 0).folios, f.win = []) ∧ (walk0 0).discard = false ∧ (walk0 0).gath < (sTab 0).gaths.length ∧ (0 : Nat) < (sTab 0).cores.length := by decide +kernel
theorem witness_preempt : s0.folios.filter (fun y => y.ctx == 0) = [fo0] ∧ fo0.st = .running ∧ s0.folio fo0.id = some fo0 ∧ rcIdem fo0.rcd = false ∧
    rcIdem (setField rcd0 304 304 1) = true ∧ fo0.stage = .compute ∧ fo0.preempt = false ∧ s0.node fo0.node = some (placedNode 0) := by decide +kernel

/-- A COMPUTE record in slot 0: the placed record, 16 threads of one folio; `st` is its STATUS, which must be 0. -/
def rec0 (st : Nat) : Nat := setField placedRecord 631 624 st
def sRec (st : Nat) : State :=
  { sTab 0 with
    mem := memSetAll (sTab 0).mem (cellsAt 0x10000 (bytesOf 128 (rec0 st))), nodes := [], folios := [], quires := [], cur := none
    ctxs := State.reset.ctxs.set 0 { ctx0 with tgEn := true, head := 1 } }
def sRead (st : Nat) : State := (keepSpan (sRec st) 0 0 2 0 128).1
theorem witness_consume : ((sRec 0).ctx 0).v = true ∧ ((sRec 0).ctx 0).consumed ≠ ((sRec 0).ctx 0).head ∧ (sRec 0).spawnLate = [] ∧
    (sRec 0).nodes = [] ∧ graphFieldsOk 0 0 (rec0 0) = true ∧ launchFail (rec0 0) true = none ∧
    rcKind (rec0 0) = 0 ∧ (graphWrite (sRead 0) 0 (0 + 78) [1]).2 = none ∧ 0 < (graphWrite (sRead 0) 0 (0 + 78) [1]).1.ctxs.length := by decide +kernel
theorem witness_consume_record : keepSpan (sRec 0) 0 0 2 0 128 = (sRead 0, .ok (bytesOf 128 (rec0 0))) := pair_of _ _ (by decide +kernel)
theorem witness_consume_fails : keepSpan (sRec 2) 0 0 2 0 128 = (sRead 2, .ok (bytesOf 128 (rec0 2))) ∧ 0 < (sRead 2).ctxs.length ∧
    graphFieldsOk 0 0 (rec0 2) = false ∧ rcKind (rec0 2) = 0 ∧ (graphWrite (sRead 2) 0 (0 + 78) [3, 0x0A]).2 = none :=
  ⟨pair_of _ _ (by decide +kernel), by decide +kernel, by decide +kernel, by decide +kernel, by decide +kernel⟩
def nodeW (r : Nat) : Node := { placedNode 0 with rcd := r, hsize := 0 }
def sNode (r : Nat) : State := { sRec 0 with nodes := [nodeW r] }
/-- Steps 2 and 3 of a finish: no copy is leased, no record is cached. -/
def sFin (r : Nat) : State := { sNode r with nodes := [{ nodeW r with fin := 1 }] }
theorem witness_finish : (sNode (rec0 0)).node 0 = some (nodeW (rec0 0)) ∧ (nodeW (rec0 0)).pass = none ∧ (sFin (rec0 0)).passes = [] ∧ (nodeW (rec0 0)).dep = 0 ∧ (nodeW (rec0 0)).fin = 0 ∧
    editionFolios (rec0 0) ≤ 1 ∧ (nodeW (rec0 0)).ready.isSome = true ∧ (sNode (rec0 0)).pending = [] ∧ (sNode (rec0 0)).msgs = [] ∧
    (sNode (rec0 0)).leases = [] ∧ (∀ g ∈ (sNode (rec0 0)).gaths, g.recs = []) ∧ rcNsucc (rec0 0) = 0 ∧
    anyParked (sFin (rec0 0)) 0 [0 + 78] = (sFin (rec0 0), false) ∧ (graphWrite (sFin (rec0 0)) 0 78 [2]).2 = none := by
  decide +kernel
/-- One successor, slot 1, whose count is 3. -/
def recS : Nat := setField (setField (rec0 0) 771 768 1) 655 640 1
def sSucc : State := { sFin recS with mem := memSet (sFin recS).mem (0x10080 + 76) 3 }
def sSucc2 : State := (agentRead sSucc { core := none, gath := none } 0 (128 + 76) 2).1
def sSucc3 : State := (graphWrite sSucc2 0 (128 + 76) (bytesOf 2 2)).1
theorem witness_finish_successor : rcNsucc recS = 1 ∧ rcSucc recS 0 = 1 ∧ anyParked sSucc 0 [128 + 76] = (sSucc, false) ∧
    graphProbe sSucc 0 (128 + 76) .atomic = (sSucc, none) ∧
    agentRead sSucc { core := none, gath := none } 0 (128 + 76) 2 = (sSucc2, .ok (bytesOf 2 (2 + 1))) ∧
    graphWrite sSucc2 0 (128 + 76) (bytesOf 2 2) = (sSucc3, none) ∧ sSucc3.nodes = [{ nodeW recS with fin := 1 }] ∧
    rcKind recS ≠ 2 :=
  ⟨by decide +kernel, by decide +kernel, by decide +kernel, by decide +kernel, pair_of _ _ (by decide +kernel), pair_of _ _ (by decide +kernel),
    by decide +kernel, by decide +kernel⟩
def sSucc4 : State := { sSucc3 with nodes := [{ nodeW recS with fin := 2 }] }
theorem witness_finish_status : anyParked sSucc4 0 [0 + 78] = (sSucc4, false) ∧ (graphWrite sSucc4 0 78 [2]).2 = none := by decide +kernel
theorem witness_watchdog : let s := { sCtx { ctx0 with wdogLimit := 1 } with cycle := 65536 }
    (s.ctx 0).wdogLimit ≠ 0 ∧ (∃ f ∈ s.folios, f.ctx = 0 ∧ f.st = .running) ∧ (s.ctx 0).wdogStart + (s.ctx 0).wdogLimit * 65536 ≤ s.cycle := by decide +kernel

def nodeP : Node := { placedNode 0 with nextFid := 0 }
def sPlace : State := { sRec 0 with nodes := [nodeP] }
theorem witness_placement : sPlace.ready = true ∧ sPlace.folios = [] ∧ sPlace.quires = [] ∧ nodeP.ready.isSome = true ∧ nodeP.failed = none ∧
    (sPlace.ctx 0).tgEn = true ∧ (sPlace.ctx 0).dead = false ∧ rcKind nodeP.rcd = 0 ∧ rcDet nodeP.rcd = false ∧ nodeP.nextFid < editionFolios nodeP.rcd ∧
    placeFail nodeP.rcd false = none ∧ rcFcores nodeP.rcd = 0 ∧ rcMapped nodeP.rcd = false ∧ folioTags nodeP.rcd ≤ 64 ∧
    quireWidth nodeP.rcd * regGranule (rcRegs nodeP.rcd) ≤ 4096 ∧ rcQw nodeP.rcd ≤ 2 ∧ folioQuires nodeP.rcd ≤ 64 ∧ sPlace.gaths.length = 48 ∧
    (sPlace.gath 0).banks = List.replicate 64 .cache := by decide +kernel
def sPlace1 : State := (graphReadMany { sPlace with waitHead := none } 0 nodeP.addr 2).1
theorem witness_placement_record : nodeP.addr / 65536 ∉ (sPlace.ctx 0).execWait ∧ sPlace.passes = [] ∧ sPlace.rays = [] ∧
    (graphReadMany { sPlace with waitHead := none } 0 nodeP.addr 2).2 = .ok (bytesOf 128 (rec0 0)) ∧ sPlace1.folios = [] ∧ sPlace1.quires = [] ∧
    sPlace1.nodes = [nodeP] ∧ sPlace1.gaths = sPlace.gaths := by decide +kernel
theorem witness_drain : let x := { Gath.initial with banks := Gath.initial.banks.set 3 (.drain 1 true) }
    x.banks[3]? = some (.drain 1 true) ∧ s0.held = [] ∧ s0.pending = [] ∧ s0.leases = [] := by decide +kernel
theorem witness_folio_start : let f := { fo0 with st := .draining }; let s := { s0 with folios := [f], quires := [] }
    s.folio f.id = some f ∧ f.stage = .compute ∧ f.preempt = false ∧ rcMapped f.rcd = false ∧ (s.ctx f.ctx).dead = false ∧
      ∀ g ∈ s.gaths, ∀ fifo, BankSt.drain f.id fifo ∉ g.banks := by decide +kernel
theorem witness_grant : s0.quires.filter (fun x => x.slot.core == q0.slot.core) = [q0] ∧ slotReady s0 q0 = true ∧ q0.deferred = [] ∧
    leadingSet q0 = some ([0, 1], 0, 72) := by decide +kernel
theorem witness_quire_end : let q := { q0 with th := [{ th0 with x := true }, { th0 with x := true }] }; let s := { s0 with quires := [q] }
    s.quire q.slot = some q ∧ q.log = [] ∧ (∀ x ∈ s.quires, x.log = [] ∧ ∀ th ∈ x.th, th.ray = none) ∧ (∀ f ∈ s.folios, f.stage ≠ .merge) ∧
      (∀ th ∈ q.th, th.x = true ∧ th.frag = none) ∧ (∀ k ∈ q.ctr, k = 0) ∧ q.rally = none ∧ q.chain = none ∧
      (s.gath (gathOf q.slot.core)).bench = [] ∧ fo0.tags = [] := by decide +kernel
theorem witness_retirement : let s := { s0 with quires := [] }
    s.folio fo0.id = some fo0 ∧ fo0.st = .running ∧ fo0.stage = .compute ∧ fo0.win = [] ∧ fo0.ctx < s.ctxs.length ∧ s.rays = [] ∧ fo0.tags = [] := by
  decide +kernel

/-- Thread 0 of a region with an abort noted; its checkpoint lies from byte 512 of its private space, at the backing address. -/
def qAb : Quire := { qTry 1 with th := [{ th0 with td := 1, tryTh := some { tryTh0 with abort := some (1, 257) } }, th0] }
theorem witness_abort : (sWith qAb cur0).quire slot0 = some qAb ∧ qAb.region = some reg0 ∧ qAb.rally = none ∧ qAb.log = [] ∧ reg0.conflict = none ∧
    (privRead (sWith qAb cur0) qAb 0 (rcPriv ((sWith qAb cur0).rcdOf slot0) - rcCkpt ((sWith qAb cur0).rcdOf slot0)) ((16 + 4 * 2 + 15) / 16)).2 =
      .ok (List.replicate 32 0) ∧
    (privRead (sWith qAb cur0) qAb 0 (rcPriv ((sWith qAb cur0).rcdOf slot0) - rcCkpt ((sWith qAb cur0).rcdOf slot0)) ((16 + 4 * 2 + 15) / 16)).1.quire slot0 =
      some qAb := by decide +kernel
/-- A region whose member is held, with one buffered byte on a line that its gathering owns; and one that has collected for 5,000 cycles. -/
def qCo : Quire :=
  { q0 with region := some { reg0 with writes := [0x201], buf := [(0, 0, 0x10080, 7, .opened)], collecting := some 0 }
            th := [{ th0 with td := 1, c := true, tryTh := some tryTh0 }, th0] }
def sCo : State := { sLine 64 with quires := [qCo], cycle := 5000 }
theorem witness_commit_collection : sCo.quire slot0 = some qCo ∧ qCo.rally = none ∧ qCo.log = [] ∧ sCo.pending = [] ∧ sCo.msgs = [] ∧
    (heldOf sCo 0 0x201).tok = 64 ∧ (heldOf sCo 0 0x201).valid = true ∧ keyTag sCo (0x10080 / 16) = .opened ∧ (qCo.th[0]?).map (·.c) = some true ∧
    4096 < sCo.cycle - 0 ∧ (∀ x ∈ sCo.quires, x.slot ≠ qCo.slot → x.region = none) ∧ (homeOf sCo (lineOf 0x10080)).ckey = some .opened := by
  decide +kernel
/-- The same with no token: a collection of 5,000 cycles fails. -/
theorem witness_collect_timeout : (heldOf { sLine 0 with quires := [qCo], cycle := 5000 } 0 0x201).tok ≠ 64 ∧
    ∀ t ∈ reg0.members, (qCo.th[t]?).map (·.c) = some true := by decide +kernel

/-! Lines: tokens, homes, the host, peers; power; copies; passes; engines; issue. -/

def msg0 (src : Nat) (dst : Option Nat) (k : MsgKind) : Msg := { id := 6, line := 0x201, src := src, dst := dst, kind := k, sent := 0, told := [] }
def sMsg (n : Nat) (m : Msg) : State := { sLine n with msgs := [m], nextId := 7 }
theorem witness_requests : (sMsg 64 (msg0 1 none (.request .read))).msg 6 = some (msg0 1 none (.request .read)) ∧ isHost (0x201 * 128) = false ∧
    (homeOf (sLine 64) 0x201).hold.Nodup ∧ (homeOf (sLine 64) 0x201).win = false ∧ (homeOf (sMsg 64 (msg0 49 none (.request .read))) 0x201).ckey = some .opened ∧
    (homeOf { sLine 64 with homes := [{ homeOf s0 0x201 with win := true }] } 0x201).win = true := by decide +kernel
/-- A host line whose halves the bridge does not hold. -/
theorem witness_requests_wait : isHost ((2 ^ 45 + 1) * 128) = true ∧ s0.bridges = [] := by decide +kernel
theorem witness_forwarded : ((sLine 64).gath 0).sleep = .awake ∧ (heldOf (sLine 64) 0 0x201).req = none ∧ (heldOf (sLine 64) 0 0x201).own = true ∧
    2 ≤ (heldOf (sLine 64) 0 0x201).tok ∧ (heldOf (sLine 1) 0 0x201).tok = 1 ∧ (heldOf (sLine 1) 0 0x201).own = true ∧
    (heldOf (sLine 64) 1 0x201).own = false ∧ (heldOf (sLine 64) 1 0x201).tok = 0 ∧
    (msg0 1 (some 0) (.forward .write)).dst = some 0 ∧ (msg0 1 (some 0) (.forward .write)).src ≠ 0 ∧
    hostCaches (sLine 64) 0x201 = false ∧ hostCaches { sLine 0 with hostLines := [(0x201, .s, .i)] } 0x201 = true := by decide +kernel
/-- A forwarded request and an activation of a line that a window has taken. -/
def sWinMsg (m : Msg) : State := { sMsg 0 m with homes := [{ homeOf s0 0x201 with win := true }] }
theorem witness_window_line : let f (r : Req) : Msg := msg0 1 (some 0) (.forward r); let a (r : Req) : Msg := msg0 1 none (.activate r)
    ∀ r ∈ [Req.read, .write], (sWinMsg (f r)).msg 6 = some (f r) ∧ (sWinMsg (a r)).msg 6 = some (a r) ∧
      (homeOf (sWinMsg (f r)) 0x201).win = true ∧ (homeOf (sWinMsg (a r)) 0x201).win = true ∧ (sWinMsg (a r)).hostLines = [] := by decide +kernel
/-- Gathering 0 awaits a WRITE's tokens and holds none. -/
def sReq : State := { sMsg 0 (msg0 0 (some 0) (.tokens 64 true true false true)) with held := [{ heldOf s0 0 0x201 with req := some (.write, 0) }], cycle := 1024 }
theorem witness_tokens : (heldOf sReq 0 0x201).recorded = none ∧ sReq.persists = [] ∧ (heldOf sReq 0 0x201).req = some (.write, 0) ∧
    (heldOf sReq 0 0x201).pers = none ∧ (sReq.gath 0).sleep ≠ .flushed ∧ sReq.peerTab.length < 65536 ∧ (cacheCrowd sReq 0 0x201).length < cacheWays sReq 0 ∧ (∀ q ∈ sReq.quires, q.log = []) ∧ sReq.pending = [] ∧ (heldOf sReq 0 0x201).tok + 64 = 64 := by
  decide +kernel
theorem witness_request_timeout : (heldOf sReq 0 0x201).req = some (.write, 0) ∧ (heldOf sReq 0 0x201).pers = none ∧ 0 + 1024 ≤ sReq.cycle := by decide +kernel
def persist0 (a : Nat) (act : Bool) : Persist := { agent := a, line := 0x201, req := .write, active := act }
theorem witness_persistent : let m := msg0 0 none (.persist .write)
    (sMsg 0 m).msg 6 = some m ∧ (sMsg 0 m).persists = [] ∧
      ∃ p ∈ ({ sMsg 0 m with persists := [persist0 1 true] } : State).persists, p.line = m.line ∧ p.active = true := by decide +kernel
theorem witness_persistent_order : let m := msg0 0 none (.persist .write); let d := msg0 0 none .deactivate
    (∀ x ∈ (sMsg 0 m).msgs, isPersMsg m.src m.line x = false ∨ m.id ≤ x.id) ∧ (∀ x ∈ (sMsg 0 d).msgs, isPersMsg d.src d.line x = false ∨ d.id ≤ x.id) ∧
      ∃ x ∈ ({ sMsg 0 m with msgs := [m, { d with id := 5 }] } : State).msgs, x.id < m.id ∧ x.line = m.line ∧ x.src = m.src ∧ x.kind = .deactivate := by
  decide +kernel
theorem witness_persistent_activation : let m := msg0 1 none (.activate .write)
    (sMsg 64 m).msg 6 = some m ∧ isHost (m.line * 128) = false ∧ (sMsg 64 m).hostLines = [] ∧ (homeOf (sMsg 64 m) m.line).win = false ∧ m.src < 50 ∧
      ((sMsg 64 m).gath 1).sleep ≠ .flushed ∧ (homeOf (sMsg 64 { m with src := 49 }) m.line).ckey = some .opened := by decide +kernel
theorem witness_deactivation : let m := msg0 0 none .deactivate; let s : State := { sMsg 0 m with persists := [persist0 0 true, persist0 1 false] }
    s.msg 6 = some m ∧ (∀ h ∈ s.held, h.agent = m.src → h.fails < 4) ∧
      (s.persists.filter fun p => !(p.agent == m.src && p.line == m.line)) = [persist0 1 false] ∧
      (([persist0 0 true] : List Persist).filter fun p => !(p.agent == m.src && p.line == m.line)) = [] := by decide +kernel
theorem witness_silence : let s : State := { sMsg 64 (msg0 1 (some 0) (.forward .read)) with cycle := 4096 }
    (∃ m ∈ s.msgs, m.dst = some 0 ∧ m.line = 0x201 ∧ m.kind = .forward .read ∧ 0 ∉ m.told ∧ m.sent + 4096 ≤ s.cycle) ∧ (s.gath 0).sleep = .awake ∧
      (s.master 0).errSize < 6 ∧ 0 < s.masters.length ∧ asks (msg0 0 (some 0) .recall) 0 = true := by decide +kernel

theorem witness_lease : winFind sHome (0x201 * 128) = none ∧ (homeOf sHome 0x201).ckey = some .opened ∧ 1 ≤ (homeOf sHome 0x201).ht ∧
    (sLease (.tile 0)).leases.filter (fun l => l.at_ == .tile 0 && l.line == 0x201) = [lease0 (.tile 0)] ∧ (lease0 (.tile 0)).key = .opened ∧ (cacheCrowd sHome 0 0x201).length < cacheWays sHome 0 := by
  decide +kernel
/-- An access of four bytes on a page without caching, at device address 64 KiB + 128 or in host memory. -/
def accNc (loc : Nat) : Acc := { newAcc 0 128 4 7 [] with loc := loc, nc := true }
def qNc (op loc : Nat) : Quire :=
  { q0 with log := [{ seq := 0, pc := 72, op := op, f := fLd, uni := false, ctr := none, act := [0], acc := [accNc loc] }], seq := 1 }
theorem witness_nc_access (op : Nat) : (sWith (qNc op 0x10080) cur0).quire slot0 = some (qNc op 0x10080) ∧ (accNc 0x10080).nc = true ∧
    (accNc 0x10080).st = .waiting ∧ (accNc 0x10080).piece ≤ 1 ∧ (qNc op 0x10080).varp = [] ∧ (accNc 0x10080).inTry = false ∧
    winFind (sWith (qNc op 0x10080) cur0) 0x10080 = none ∧ keyTag (sWith (qNc op 0x10080) cur0) (0x10080 / 16) = (accNc 0x10080).key ∧
    0x10080 % 16 + (accNc 0x10080).len ≤ 16 ∧ memWf (sWith (qNc op 0x10080) cur0).mem = true ∧ isDev 0x10080 = true ∧
    (qNc op 0x10080).region = none ∧ (qNc op 0x10080).th[0]? = some th0 ∧ (sWith (qNc op 0x10080) cur0).msgs = [] :=
  ⟨rfl, rfl, rfl, by decide, rfl, rfl, rfl, rfl, by decide, rfl, rfl, rfl, rfl, rfl⟩
theorem witness_nc_posted : isDev (2 ^ 52) = false ∧ (sWith (qNc 0x102 (2 ^ 52)) cur0).quire slot0 = some (qNc 0x102 (2 ^ 52)) ∧
    (sWith (qNc 0x102 (2 ^ 52)) cur0).pending = [] := by decide +kernel
theorem witness_home_writes : let m := msg0 0 none (.posted [(0x10080, 7)] .opened (.plain 0)); let m3 := msg0 0 none (.write3 [(0x10080, 7)] .opened none)
    (sMsg 0 m).msg 6 = some m ∧ (sMsg 0 m3).msg 6 = some m3 ∧ 6 < (sMsg 0 m).nextId ∧ CellsPlain (sMsg 0 m) [(0x10080, 7)] .opened ∧
      CellsPlain (sMsg 0 m3) [(0x10080, 7)] .opened ∧ memWf (sMsg 0 m).mem = true ∧ ((sMsg 0 m).quire slot0).isSome = true ∧ (sMsg 0 m).msgs = [m] ∧ (Poster.plain 0).add = none := by
  refine ⟨rfl, rfl, by decide, fun d hd => ?_, fun d hd => ?_, rfl, rfl, rfl, rfl⟩
  all_goals
    obtain rfl : d = (0x10080, 7) := by simpa using hd
    exact ⟨rfl, rfl⟩

/-- A line of host memory, in E at the host, its owner token at gathering 0. -/
def hostLine : Nat := 2 ^ 45 + 1
def sHost (own : Bool) : State :=
  { s0 with bridges := [{ line := hostLine, h0 := .e, h1 := .i }], held := [{ heldOf s0 0 hostLine with tok := 2, own := own, valid := true }] }
theorem witness_snoops_flight : let m : Msg := { msg0 0 none (.tokens 2 true true true false) with line := hostLine }
    ownerMsg { sHost false with msgs := [m] } hostLine = some m ∧ ∀ x ∈ (sHost false).held, x.line = hostLine → x.own = false := by decide +kernel
theorem witness_snoops : isHost (hostLine * 128) = true ∧ half (bridgeOf (sHost true) hostLine) 0 ≠ .i ∧ ownerMsg (sHost true) hostLine = none ∧ heldOf (sHost true) 0 hostLine = (sHost true).held.headD (heldOf s0 0 0) ∧ (sHost true).hostCache = true ∧
    (sHost true).held.find? (fun x => x.line == hostLine && x.own) = some (heldOf (sHost true) 0 hostLine) ∧
    ∀ x ∈ (sHost false).held, x.line = hostLine → x.own = false := by decide +kernel
theorem witness_back_invalidation : ({ s0 with hostLines := [(0x201, .s, .i)] } : State).hostLines.find? (fun y => y.1 == 0x201) = some (0x201, .s, .i) ∧
    ({ s0 with hostLines := [(0x201, .s, .s)] } : State).hostLines.find? (fun y => y.1 == 0x201) = some (0x201, .s, .s) ∧
    (∀ q ∈ s0.quires, gathOf q.slot.core < 48) ∧ bridgeAsked s0 0x201 = false ∧
    bridgeAsked { s0 with msgs := [msg0 0 (some 48) (.forward .write)] } 0x201 = true := by decide +kernel
theorem witness_cxl_mem : sHome.hostMem = true ∧ 0x10080 + 4 ≤ sHome.installed ∧ lineOf 0x10080 = 0x201 ∧ lineOf (0x10080 + 4 - 1) = 0x201 ∧
    (homeOf sHome 0x201).ckey = some .opened ∧ 1 ≤ (homeOf sHome 0x201).ht ∧ winFind sHome (0x201 * 128) = none ∧ memWf sHome.mem = true ∧ sHome.installed < 0x100000 + 4 := by decide +kernel
theorem witness_open_bytes : OpenBytes sHome 0x10080 4 := ⟨by decide, fun i _ => ⟨rfl, rfl⟩⟩
/-- Export entry 0: any importer, read and write, 32 MiB from offset 0 at address 0. -/
def exp0 (w : Nat) : Nat := setField (1 + 2 * w + 4 * 0x3FF) 90 66 1
def sExp (w : Nat) : State :=
  { s0 with exportTab := [(0, BitVec.ofNat 128 (exp0 w))], homes := sHome.homes }
theorem admits0 (w : Nat) (h : w = 0 ∨ w = 1) : FirstAdmits (sExp w) 5 0x10080 (exp0 w) := by
  rcases h with rfl | rfl <;>
    exact ⟨0, _, by decide, rfl, by decide +kernel, ⟨by decide +kernel, by decide +kernel, by decide +kernel, by decide +kernel⟩, fun j hj => by omega⟩
theorem witness_peers : (exp0 0).testBit 1 = false ∧ (exp0 1).testBit 1 = true ∧
    bitsOf (exp0 1) 115 91 * 2 ^ 25 + (0x10080 - bitsOf (exp0 1) 65 41 * 2 ^ 25) = 0x10080 ∧ (homeOf (sExp 1) 0x201).ckey = some .opened ∧
    2 ≤ (homeOf (sExp 1) 0x201).ht ∧ (sExp 1).peerTab = [] ∧ winFind (sExp 1) (0x201 * 128) = none ∧
    (∀ h ∈ (sExp 1).held, h.agent = 49 → h.tok < 64) ∧ (heldOf (sExp 1) 49 0x201).req = none ∧ memWf (sExp 1).mem = true ∧ (s0.exportTab.find? fun y => y.1 == 0) = none := by decide +kernel
theorem witness_peer_read_served : ({ s0 with peerTab := [(0x201, 5, 2)] } : State).peerTab.find? (fun y => y.1 == 0x201 && y.2.1 == 5) = some (0x201, 5, 2) := by
  decide +kernel
/-- Importer 5 holds two tokens and has not answered a forwarded request for 262,144 cycles. -/
def sLate : State :=
  { s0 with
    peerTab := [(0x201, 5, 2)], held := [{ heldOf s0 49 0x201 with tok := 2 }], msgs := [msg0 0 (some 49) (.forward .write)], cycle := 262144 }
theorem witness_peer_timeout : sLate.peerTab.filter (fun e => e.2.1 == 5) = [(0x201, 5, 2)] ∧ 2 ≤ (heldOf sLate 49 0x201).tok ∧
    (∃ m ∈ sLate.msgs, m.line = 0x201 ∧ m.sent + 262144 ≤ sLate.cycle ∧ m.kind = .forward .write ∧ m.dst = some 49) ∧
    importerLate sLate (0x201, 5, 2) = true ∧ (sLate.master 0).errSize < 6 ∧ 0 < sLate.masters.length := by
  decide +kernel

theorem witness_sleep : (s0.gath 1).sleep = .awake ∧ (∀ f ∈ s0.folios, 1 ∉ f.cores.map gathOf) ∧ (∀ q ∈ s0.quires, gathOf q.slot.core ≠ 1) ∧
    (s0.gath 1).bench = [] ∧ s0.huddles = [] ∧ s0.serving = [] ∧ (∀ b ∈ (s0.gath 1).banks, b = .cache) ∧ s0.passes = [] ∧ maySleep s0 1 = true ∧
    (s0.gaths.filter fun x => x.sleep == .retain).length < min 48 s0.retmax ∧
    min 48 ({ s0 with retmax := 0 } : State).retmax ≤ (s0.gaths.filter fun x => x.sleep == .retain).length ∧ s0.pending = [] := by decide +kernel
theorem witness_wake_gathering : let s (z : Sleep) : State := { s0 with gaths := s0.gaths.set 0 { gath0 with sleep := z } }
    (∃ x, (s .retain).gaths[0]? = some x ∧ x.sleep = .retain) ∧ (∃ x, (s .flushed).gaths[0]? = some x ∧ x.sleep = .flushed) ∧
      (∃ f ∈ s0.folios, 0 ∈ f.cores.map gathOf) ∧ ∀ f ∈ s0.folios, 1 ∉ f.cores.map gathOf :=
  ⟨⟨_, rfl, rfl⟩, ⟨_, rfl, rfl⟩, ⟨fo0, by decide +kernel, by decide +kernel⟩, by decide +kernel⟩
/-- A running copy of 16 bytes from address `a` to scratchpad offset 0; gathering 0 holds the line of address 128. -/
def tagC (a : Word) : Tag := { tag0 .running with op := 0x1A0, match_ := true, slices := [{ qid := 0, blocks := [[a, 0, 0, 16]], nc := 0 }] }
def foC (a : Word) : Folio := { fo0 with tags := [tagC a] }
def sC (a : Word) : State := { sLine 64 with folios := [foC a] }
def viaC : Via := { core := none, gath := some 0 }
theorem witness_copy_complete : (sC 128).folio (foC 128).id = some (foC 128) ∧
    (foC 128).tags.find? (fun y => y.core == 0 && y.num == 0) = some (tagC 128) ∧ (tagC 128).prog = none ∧ copyMoving (sC 128) 0 (tagC 128) = true ∧ (sC 128).msgs = [] ∧ rcRingSize (foC 128).rcd = 0 ∧
    (∀ x ∈ (sC 128).folios, x.win = []) ∧ (pg0 128).nc = false ∧ 0 + 16 ≤ scratchBytes (foC 128).rcd ∧ (tlbLookup (sC 128) viaC 0 128).isSome = true ∧
    xlate (sC 128) viaC 0 128 .read = (sC 128, .ok (pg0 128)) ∧ xlate (sC 128) viaC 0 (128 + 8) .read = (sC 128, .ok (pg0 (128 + 8))) ∧
    hasPending (sC 128) 0 (lineOf (pg0 128).loc) = false ∧ keyTag (sC 128) ((pg0 128).loc / 16) = .opened ∧ (pg0 128).loc % 16 = 0 ∧
    (homeOf (sC 128) (lineOf (pg0 128).loc)).ckey = some .opened ∧ (heldOf (sC 128) 0 (lineOf (pg0 128).loc)).tok ≠ 0 ∧
    (heldOf (sC 128) 0 (lineOf (pg0 128).loc)).valid = true ∧ memWf (foC 128).scr = true := by decide +kernel
/-- The moves of the copy from page 1, laid out: page 1 is not valid. -/
def foLaid : Folio :=
  { foC 65536 with tags := [{ tagC 65536 with prog := some (
      { addr := 65536, size := 16, wrote := [], lines := [], arrived := []
        left := (List.range 2).map fun k =>
          { src := .mem (65536 + 8 * k) false, val := none, dst := [(relCore (some (foC 65536)) 0, .scr (8 * k))], n := 8, add := none } } : CopyProg) }] }
def sLaid : State := { sC 65536 with folios := [foLaid] }
theorem witness_copy_pauses : xlate sLaid viaC 0 65536 .read = (sLaid, .error 0) := by decide +kernel
/-- An address at or beyond 2^57 is the fault that both events meet; a TLB entry without R another. -/
theorem witness_copy_faults : xlate (sC 0) viaC 0 (2 ^ 57) .read = (sC 0, .error 1) ∧ xlate (sC 0) viaC 0 (2 ^ 57 + 8) .read = (sC 0, .error 1) := by
  decide +kernel

/-- A pass alone on the device, at a stage; its second tile list is empty. -/
def passAt (st : PassSt) (imm : Bool) : Pass := { pass0 [] [] with st := st, imm := imm, tmpl := [0, 0, 1, 0, 0, 0], tiles := [], nextTile := 0, samples := [(32, 32)] }
def sPass (p : Pass) : State := { s0 with folios := [], quires := [], passes := [p], nodes := [{ placedNode 0 with pass := some 9 }] }
theorem witness_boundaries : (sPass (passAt .start false)).pass 9 = some (passAt .start false) ∧
    (sPass (passAt .start false)).node 0 = some { placedNode 0 with pass := some 9 } ∧ (placedNode 0).ready.isSome = true ∧ (placedNode 0).failed = none ∧
    (placedNode 0).requeued = [] ∧ (passAt .start false).fail = none ∧ ((sPass (passAt .start false)).ctx 0).dead = false ∧
    pdMeshEx (passAt .mesh false).desc ≤ (passAt .mesh false).nextFid ∧ tileCount (passAt .resolve false).desc ≤ 1 ∧
    (sPass (passAt .mesh false)).pending = [] ∧ (sPass (passAt .mesh false)).msgs = [] ∧ (sPass (passAt .mesh false)).rays = [] ∧
    (passAt .raster true).quires = [] ∧ (passAt .raster true).appends = [] ∧
    tileCount (passAt .raster true).desc ≤ ({ passAt .raster true with nextTile := tileCount (passAt .raster true).desc }).nextTile := by decide +kernel
theorem witness_tile_deal : passTmpl (passAt .raster false) 2 ≠ 0 ∧ (passAt .raster false).nextTile < tileCount (passAt .raster false).desc ∧
    (passAt .raster false).tiles = [] ∧ ((sPass (passAt .raster false)).gath 0).banks = List.replicate 64 .cache ∧ pdLbanks (passAt .raster false).desc ≤ 16 ∧
    spentTiles (sPass (passAt .raster false)) (passAt .raster false) = [] ∧ (dealGath (sPass (passAt .raster false)) (passAt .raster false)).isSome = true ∧
    ∀ x ∈ (sPass (passAt .raster false)).nodes, x.gang = [] := by
  decide +kernel
theorem witness_rasterisation : (passAt .raster true).imm = true ∧ (0 : Nat) = (passAt .raster true).nextTile ∧
    (∃ t ∈ (pass0 [] []).tiles, t.n = 0) ∧ ({ tile0 with rastered := false }).rastered = false ∧
    ∀ g ∈ s0.gaths, ∀ x, BankSt.drain (tileOwner 9 0) x ∉ g.banks := by decide +kernel

/-- A one-pixel frame on pages of NC memory: every plane reads the zero texel at address 0. -/
def passR : Pass := { passAt .recon false with desc := 0 }
def foR : Folio := { fo0 with stage := .recon, pass := 9, st := .draining }
def sFill : State :=
  { sPass passR with
    folios := [foR], gaths := State.reset.gaths.set 0 { gath0 with tlb := [{ tlb0 with leaf := 0x103E1 }] }, mem := memSetAll [] placedTables
    homes := [{ homeOf s0 0x200 with ckey := some .opened }] }
theorem stageReadAll_same {g c n v : Nat} {s : State} : ∀ {l : List Nat}, (∀ a ∈ l, stageRead s g c a n = (s, .ok v)) →
    stageReadAll g c n l s = (s, .ok (l.flatMap fun _ => bytesOf n v))
  | [], _ => rfl
  | a :: as, h => by
    have h1 := h a List.mem_cons_self
    have h2 := stageReadAll_same (l := as) fun b hb => h b (List.mem_cons_of_mem _ hb)
    simp only [stageReadAll, h1, h2, List.flatMap_cons]
theorem readStage_same {g c d tile : Nat} {s : State} {bs : List Byte} : ∀ {l : List (Nat × Nat × Nat)},
    (∀ e ∈ l, graphRead s c e.2.2 64 = (s, .ok bs) ∧ ∀ a ∈ planeAddrs d tile (bytesVal bs), stageRead s g c a e.2.1 = (s, .ok 0)) →
    ∃ planes, readStage g c d tile l s = (s, .ok planes)
  | [], _ => ⟨[], rfl⟩
  | (off, n, ia) :: rest, h => by
    obtain ⟨h1, h2⟩ := h _ List.mem_cons_self
    obtain ⟨l, hl⟩ := readStage_same (l := rest) fun e he => h e (List.mem_cons_of_mem _ he)
    simp only at h1 h2
    exact ⟨_, by simp only [readStage, h1, stageReadAll_same h2, hl]; rfl⟩
theorem fill_reads (n : Nat) (h : n ∈ [1, 4, 8]) : stageRead sFill 0 0 0 n = (sFill, .ok 0) := by
  simp only [List.mem_cons, List.not_mem_nil, or_false] at h
  rcases h with rfl | rfl | rfl <;> decide +kernel
theorem witness_fill : sFill.folios = [foR] ∧ foR.st = .draining ∧ foR.stage = .recon ∧ (sFill.ctx 0).dead = false ∧
    (∀ g ∈ sFill.gaths, ∀ x, BankSt.drain foR.id x ∉ g.banks) ∧
    (∃ planes, readStage 0 0 passR.desc 0 (planeList passR.desc false) sFill = (sFill, .ok planes)) ∧
    ∃ bs, stageReadAll 0 0 1 (densityAddrs passR.desc 0) sFill = (sFill, .ok bs) ∧ ∀ b ∈ bs, b.toNat ≤ 5 := by
  refine ⟨rfl, rfl, rfl, rfl, by decide +kernel, ?_, ?_⟩
  · have hz : ∀ a ∈ planeAddrs passR.desc 0 (bytesVal (List.replicate 64 0)), a = 0 := fun a ha =>
      beq_iff_eq.1 (List.all_eq_true.1 (by decide +kernel : ((planeAddrs passR.desc 0 (bytesVal (List.replicate 64 0))).all (· == 0)) = true) a ha)
    refine readStage_same (bs := List.replicate 64 0) fun e he => ⟨?_, fun a ha => ?_⟩
    · have h0 : ∀ e ∈ planeList passR.desc false, e.2.2 = 0 := by decide +kernel
      rw [h0 e he]; decide +kernel
    · rw [hz a ha]
      exact fill_reads _ ((by decide +kernel : ∀ e ∈ planeList passR.desc false, e.2.1 ∈ [1, 4, 8]) e he)
  · have hz : ∀ a ∈ densityAddrs passR.desc 0, a = 0 := by decide +kernel
    refine ⟨_, stageReadAll_same fun a ha => by rw [hz a ha]; exact fill_reads 1 (by decide), fun b hb => ?_⟩
    obtain ⟨_, _, h⟩ := List.mem_flatMap.1 hb
    obtain rfl : b = 0 := by simpa [bytesOf] using h
    decide

/-- Ray 0 waits for the subtree at 1,024: a root of no children. Its record at 0 is `r`. -/
def huddle0 (a : Nat) : Huddle := { gath := 0, ctx := 0, addr := some a, rays := [0], susp := false }
def recR (hk : Nat) : Nat := setField (setField (setField (setField (setField 0 159 128 0x3F800000) 255 224 0x7F800000) 343 341 7) 340 336 1 + 2 ^ 200 * 2 ^ 149 * hk) 473 464 1
def sEng (a r : Nat) : State :=
  { sR [ray0 .huddle] with
    huddles := [huddle0 a], mem := memSetAll [] (cellsAt 0x10000 (bytesOf 128 r) ++ cellsAt 0x10400 (bytesOf 6 (0x31544253 + 2 * 2 ^ 32))) }
/-- What a service's reads find: the chain is off the list. -/
def sEng0 (a r : Nat) : State := { sEng a r with huddles := [] }
def tree0 : Subtree := { n := 0, nodes := 2, blocks := [0x31544253 + 2 * 2 ^ 32, 0], leaf := 0 }
theorem loneRay (a : Nat) : LoneRay (sEng a (recR 0)) 0 0 0 a (ray0 .huddle) :=
  ⟨rfl, by simp [sEng, sR, s0, sWith, State.reset], rfl, rfl, rfl, rfl, rfl, rfl, by simp [sEng, sR, ray0], by simp [sEng, sR, s0, sWith, q0, th0], q0, th0, rfl, rfl, rfl, rfl⟩
def sEng1 : State := (streamSubtree [] (sEng0 1024 (recR 0)) 0 0 1024).1
def sEng2 : State := (engineRead sEng1 0 0 (rayAddr sEng1 0 0) 128).1
theorem witness_service : LoneRay (sEng 1024 (recR 0)) 0 0 0 1024 (ray0 .huddle) ∧
    streamSubtree [] (sEng0 1024 (recR 0)) 0 0 1024 = (sEng1, .ok tree0) ∧ subtreeOk tree0 = true ∧
    engineRead sEng1 0 0 (rayAddr sEng1 0 0) 128 = (sEng2, .ok (bytesOf 128 (recR 0))) :=
  ⟨loneRay _, pair_of _ _ (by decide +kernel), by decide +kernel, pair_of _ _ (by decide +kernel)⟩
theorem witness_service_writable : RayWritable (sEng0 1024 (recR 0)) sEng1 0 0 0 (ray0 .huddle) ∧
    RayWritable (sEng0 1024 (recR 0)) sEng2 0 0 0 (ray0 .huddle) :=
  ⟨⟨by decide +kernel, by decide +kernel, by decide +kernel, by decide +kernel, by decide +kernel, by decide +kernel, pg0 0, by decide +kernel⟩,
    by decide +kernel, by decide +kernel, by decide +kernel, by decide +kernel, by decide +kernel, by decide +kernel, pg0 0, by decide +kernel⟩
/-- A ray with no direction is invalid; one with direction (1, 0, 0) and no child to enter is not, with or without a hit. -/
theorem witness_service_outcomes : rayInvalid (setField (recR 0) 159 128 0) = true ∧ (∀ hk ∈ [0, 1], rayInvalid (recR hk) = false ∧
    reloadOk (recR hk) = true ∧ ryMode (recR hk) < 2 ∧ 0 < ryIdx (recR hk) ∧ ryIdx (recR hk) < tree0.nodes ∧
    nodeOk tree0 (tree0.blocks.getD (ryIdx (recR hk)) 0) = true ∧ rySp (recR hk) = 0 ∧
    (∀ k, k < 6 → childType (tree0.blocks.getD (ryIdx (recR hk)) 0) k = 0) ∧ ryHk (recR hk) = hk ∧ ryFlag (recR hk) 4 = false) ∧
    subtreeOk { tree0 with blocks := [0, 0] } = false := by decide +kernel
theorem witness_service_node : rayInvalid (setField (recR 0) 473 464 0) = false ∧ reloadOk (setField (recR 0) 473 464 0) = true ∧
    ryMode (setField (recR 0) 473 464 0) < 2 ∧ ryIdx (setField (recR 0) 473 464 0) = 0 := by decide +kernel
def sEngFault : State := (streamSubtree [] (sEng0 (2 ^ 57) (recR 0)) 0 0 (2 ^ 57)).1
def sEngFault2 : State := (engineRead sEngFault 0 0 (rayAddr sEngFault 0 0) 128).1
theorem witness_service_fault : LoneRay (sEng (2 ^ 57) (recR 0)) 0 0 0 (2 ^ 57) (ray0 .huddle) ∧
    streamSubtree [] (sEng0 (2 ^ 57) (recR 0)) 0 0 (2 ^ 57) = (sEngFault, .error 1) ∧ sEngFault.huddles = [] ∧
    sEngFault.rays = (sEng (2 ^ 57) (recR 0)).rays ∧
    engineRead sEngFault 0 0 (rayAddr sEngFault 0 0) 128 = (sEngFault2, .ok (bytesOf 128 (recR 0))) ∧
    RayWritable sEngFault sEngFault2 0 0 0 (ray0 .huddle) :=
  ⟨loneRay _, pair_of _ _ (by decide +kernel), by decide +kernel, by decide +kernel, pair_of _ _ (by decide +kernel),
    by decide +kernel, by decide +kernel, by decide +kernel, by decide +kernel, by decide +kernel, by decide +kernel, pg0 0, by decide +kernel⟩
/-- A routine template at 2,048: the placed record. The context launches. -/
def tmplR : Nat := placedRecord
def rayQ : Ray := { ray0 .routineQ with rout := 2048 }
def sRout : State :=
  { sR [rayQ] with
    folios := [], quires := [], nodes := [], mem := memSetAll [] (cellsAt 0x10800 (bytesOf 128 tmplR))
    ctxs := State.reset.ctxs.set 0 { ctx0 with rayPages := 1, tgEn := true } }
def sRout1 : State := (engineRead sRout 0 0 2048 64).1
def sRout2 : State := (engineRead sRout1 0 0 (2048 + 64) 64).1
theorem witness_routine : sRout.rays.filter (fun x => x.at_ == .routineQ) = [rayQ] ∧ sRout.ray 0 0 = some rayQ ∧
    engineRead sRout 0 0 2048 64 = (sRout1, .ok ((bytesOf 128 tmplR).take 64)) ∧
    engineRead sRout1 0 0 (2048 + 64) 64 = (sRout2, .ok ((bytesOf 128 tmplR).drop 64)) ∧ sRout2.rays = sRout.rays ∧ sRout2.passes = [] :=
  ⟨by decide +kernel, by decide +kernel, pair_of _ _ (by decide +kernel), pair_of _ _ (by decide +kernel), by decide +kernel, by decide +kernel⟩
theorem witness_routine_place : EmptyGathering sRout2 0 0 ∧ (agentRead sRout2 viaC 0 2048 64).2 = .ok ((bytesOf 128 tmplR).take 64) ∧
    (agentRead sRout2 viaC 0 (2048 + 64) 64).2 = .ok ((bytesOf 128 tmplR).drop 64) ∧
    routineOk (sRout2.ctx 0).tgHsize (sRout2.ctx 0).tgQsize (setField (setField (setField (setField (bytesVal (bytesOf 128 tmplR)) 159 128 1) 175 160 1) 191 176 1) 208 192 1) = true ∧
    rcDet (setField (setField (setField (setField (bytesVal (bytesOf 128 tmplR)) 159 128 1) 175 160 1) 191 176 1) 208 192 1) = false := by
  unfold EmptyGathering; decide +kernel
def passM : Pass := { passAt .raster false with tmpl := [0, 0, 0, 0, 0, placedRecord], appends := [{ app0 0 with merging := true, pair := some (1, 2) }] }
def sMerge : State := { sPass passM with ctxs := State.reset.ctxs.set 0 { ctx0 with tgEn := true } }
theorem witness_merge : EmptyGathering sMerge 0 passM.ctx ∧ sMerge.passes = [passM] ∧ sMerge.rays = [] ∧
    sMerge.node 0 = some { placedNode 0 with pass := some 9 } ∧ passM.appends.filter (fun x => x.merging && x.result.isNone) = passM.appends ∧
    placeFail (passTmpl passM 5) false = none ∧ rcDet (passTmpl passM 5) = false ∧ rcFcores (passTmpl passM 5) = 0 ∧ rcQw (passTmpl passM 5) = 0 ∧
    rcFthreads (passTmpl passM 5) = 16 ∧ rcTags (passTmpl passM 5) ≤ 4 ∧ 16 * regGranule (rcRegs (passTmpl passM 5)) ≤ 4096 := by
  unfold EmptyGathering; decide +kernel

theorem witness_encoding : IsWord (.iadd hdr ops) ∧ (Instr.iadd hdr ops).wf = true ∧ decode 0x003C004010203001 ≠ .error .illegalOpcode :=
  ⟨.inl rfl, by decide, by decide +kernel⟩
/-- CLZ v7, v6 with E set, placed from outside as the next word. -/
def sNext : State := State.reset.withFetchWord 64 0x8030007060000000
def qNext : Quire := { startQuire sNext (placedFolio 0) (placedSlot, 0) with rally := some placedRally }
theorem witness_step_word : sNext.agenda = [.word placedSlot false] ∧ sNext.quire placedSlot = some qNext ∧ (sNext.ctx 0).dead = false ∧
    qNext.wait = none ∧ placedRally.lead.filter (fun t => thGet qNext t false Thread.alive) ≠ [] ∧ placedRally.words = 0 ∧
    (∀ t ∈ placedRally.lead, thGet qNext t false (fun th => th.xfer) = false) ∧
    (fetchWord { sNext with agenda := [] } placedSlot 0 0).2 = .ok 0x8030007060000000 ∧
    (fetchWord { sNext with agenda := [] } placedSlot 0 0).1.quire placedSlot = some qNext := by decide +kernel
def hClz : Hdr := { hdr with last := true }
def fClz : Full := { ops with d := 7, a := 6, b := 0 }
theorem witness_step_plain : decode 0x8030007060000000 = .ok (.clz hClz fClz) ∧ (Instr.clz hClz fClz).word = some (0x018, hClz, .full fClz) ∧
    PlainIssue (fetchWord { sNext with agenda := [] } placedSlot 0 0).1 placedSlot qNext (.form 0x018 hClz (.full fClz)) 0x018 hClz := by
  refine ⟨by decide +kernel, rfl, rfl, rfl, rfl, rfl, rfl, by decide +kernel, by decide +kernel, rfl, rfl, rfl, by decide, nofun, by decide +kernel, ?_⟩
  have h : ∀ th ∈ qNext.th, th.frag = none := by decide +kernel
  intro th hth fr hf
  rw [h th hth] at hf; cases hf
theorem witness_step_event : ({ s0 with agenda := [.event .hotResetLinkDown] } : State).agenda = .event .hotResetLinkDown :: [] := rfl
theorem witness_invariants : memWf s0.mem = true ∧ (∀ f ∈ s0.folios, memWf f.scr = true) ∧ memWf (sTab 0).mem = true := by decide +kernel

/-! Ill-formed terms, one for each check. -/

theorem test_wf_class_bits : (Instr.iadd hdr { ops with cls := 4 }).wf = false := by decide
theorem test_wf_unused_field : (Instr.iadd hdr { ops with c := 1 }).wf = false := by decide
theorem test_wf_scalar_range : (Instr.iadd hdr { ops with sa := true, a := 128 }).wf = false := by decide
theorem test_wf_scalar_block : (Instr.mov2 hdr { ops with b := 0, sa := true, a := 127 }).wf = false := by decide
theorem test_wf_uniform_scalars : (Instr.iadd hdr { ops with u := true }).wf = false := by decide
theorem test_wf_uniform_not_assigned : (Instr.calli hdr { ops with b := 0, u := true }).wf = false := by decide
theorem test_wf_uniform_required : (Instr.p2vQ hdr { ops with a := 0, b := 0 }).wf = false := by decide
theorem test_wf_vector_only : (Instr.calli hdr { ops with b := 0, sc := true }).wf = false := by decide
theorem test_wf_predicate_range : (Instr.icmp hdr { ops with d := 16 }).wf = false := by decide
theorem test_wf_uniform_predicate_range : (Instr.icmp hdr { ops with d := 8, u := true, sa := true, sb := true }).wf = false := by decide
theorem test_wf_counter_on_fixed_latency : (Instr.iadd hdr { ops with cen := true }).wf = false := by decide
theorem test_wf_exit_guard : (Instr.abortTry { hdr with guard := 3 } { ops with a := 0, cls := 2 }).wf = false := by decide
theorem test_wf_immediate_class : (Instr.iaddI hdr { d := 0, a := 0, sa := false, u := false, clb := 4, imm := 0 }).wf = false := by decide
theorem test_wf_immediate_scalar : (Instr.iaddI hdr { d := 0, a := 200, sa := true, u := false, clb := 0, imm := 0 }).wf = false := by decide
theorem test_wf_ldi_scalar : (Instr.ldiS hdr { d := 128, imm := 0 }).wf = false := by decide
theorem test_wf_branch_fields : (Instr.bra hdr { d := 1, off := 0, cls := 0 }).wf = false := by decide
theorem test_wf_uniform_branch_guard : (Instr.brau { hdr with guard := 1 } { d := 1, off := 0, cls := 0 }).wf = false := by decide
theorem test_wf_meet_none : (Instr.meet hdr { d := 0, off := 1, cls := 1 }).wf = false := by decide
theorem test_wf_matrix_scalars : (Instr.mmasN8Gl hdr { fMat false with sb := 124 }).wf = false := by decide
theorem test_wf_matrix_barrier : (Instr.mmaN8Sp hdr { fMat false with bar := 1 }).wf = false := by decide
theorem test_wf_copy_coordinates : (Instr.cpyR hdr { fCpy false with nc := 0 }).wf = false := by decide
theorem test_wf_copy_parameters : (Instr.cpy hdr { fCpy false with sb := 128 }).wf = false := by decide
theorem test_wf_pair_scalar : (Instr.pformWord false 0 ⟨.iadd, 0, false, 0, 128, true⟩ ⟨.iadd, 0, false, 1, 1, false⟩).wf = false := by decide
theorem test_wf_pair_banks : (Instr.pformWord false 0 ⟨.iadd, 0, false, 0, 1, false⟩ ⟨.iadd, 0, false, 4, 2, false⟩).wf = false := by decide

/-! Words written out from the encoding tables (R242 to R248, R301), one or more a class. -/

/-- A word of the plain layout from its fields, low bit first: K 0. -/
def plainWord (op d a b c m : Nat) : DWord := BitVec.ofNat 64 (op * 2 ^ 49 + d * 2 ^ 36 + a * 2 ^ 28 + b * 2 ^ 20 + c * 2 ^ 12 + m)
/-- Class 0: IADD.sat v2, v4, v6. -/
theorem test_decode_iadd : decode (plainWord 0x000 2 4 6 0 2) = .ok (.iadd hdr { ops with cls := 2 }) := by decide +kernel
/-- Class 1: FFMA v2, v4, s6, v8 with guard !p3, S = 5 and E = 1. -/
theorem test_decode_ffma : decode (plainWord 0x042 2 4 6 8 0x400 ||| 0x9400700000000000) = .ok (.ffma ⟨true, 5, 3, true⟩ { ops with c := 8, sb := true }) := by
  decide +kernel
/-- Class 2: LDI v3, 0x12345678 (A, B and X 15:0). -/
theorem test_decode_ldi : decode (plainWord 0x0A8 3 0x12 0x34 0x05 0x678) = .ok (.ldiV hdr { d := 3, imm := 0x12345678 }) := by decide +kernel
/-- Class 3: CALL to 3 words back, link in v8. -/
theorem test_decode_call : decode (plainWord 0x0C3 8 0 0 0 0 ||| 0xFFFFFD000) = .ok (.call hdr { d := 8, off := -3, cls := 0 }) := by decide +kernel
/-- Class 4: LD.b128 v4, [v8 + 16] on counter 2: size code 4, offset 0x0010 in B:C, CSEL 2, CEN. -/
theorem test_decode_ld : decode (plainWord 0x100 4 8 0 0x10 0x0A4) = .ok (.ld hdr { ops with d := 4, a := 8, b := 0, c := 0x10, csel := 2, cen := true, cls := 4 }) := by
  decide +kernel
/-- Class 5: BARARR.n v1, v2 on barrier 7. -/
theorem test_decode_bararr : decode (plainWord 0x16A 1 2 0 0 7) = .ok (.bararrN hdr { ops with d := 1, a := 2, b := 0, cls := 7 }) := by decide +kernel
/-- Class 6: MMA.n8.sp of v0, v4 with format word in v12. -/
theorem test_decode_mma : decode (plainWord 0x180 0 4 0 12 0x020) = .ok (.mmaN8Sp hdr (fMat false)) := by decide +kernel
/-- Class 7: INTERP v3, attribute 5. -/
theorem test_decode_interp : decode (plainWord 0x1C5 3 0 5 0 0) = .ok (.interp hdr { ops with d := 3, a := 0, b := 5 }) := by decide +kernel
theorem test_decode_reserved : decode (plainWord 0x000 2 4 6 1 0) = .error .illegalEncoding := by decide +kernel
theorem test_table_word : decodeTableWord 64 (plainWord 0x000 2 4 6 0 2).toNat = some (.iadd hdr { ops with cls := 2 }) := by decide +kernel

/-! One step of a few instructions, on values worked out from the rules. Thread 0 has v2 = 5, v3 = 7, v4 = 128, v6 = 3, v7 = 9. -/

/-- Vector register r of thread t after a step. -/
def vecAfter (o : Host.Outcome State Fault Refusal) (t r : Nat) : Option Word :=
  match o with
  | .next s => (s.quire slot0).bind fun q => (q.th[t]?).bind fun th => th.v[r]?
  | _ => none
def thAfter (o : Host.Outcome State Fault Refusal) (t : Nat) : Option Thread :=
  match o with
  | .next s => (s.quire slot0).bind fun q => q.th[t]?
  | _ => none
def setV (l : List Word) : State := let q := { q0 with th := [{ th0 with v := l }, th0] }; sWith q cur0
def f3 (op : Nat) : Full := { ops with d := 0, a := 1, b := 2, c := 0, cls := BitVec.ofNat 5 op }
/-- 0x7FFFFFFF + 1 saturates to 0x7FFFFFFF and else wraps (R280). -/
theorem test_iadd_sat : vecAfter (exec (.iadd hdr (f3 2)) (setV [0, 0x7FFFFFFF, 1])) 0 0 = some 0x7FFFFFFF := by decide +kernel
theorem test_iadd_wrap : vecAfter (exec (.iadd hdr (f3 0)) (setV [0, 0x7FFFFFFF, 1])) 0 0 = some 0x80000000 := by decide +kernel
/-- The second thread is not active and keeps its register. -/
theorem test_iadd_inactive : vecAfter (exec (.iadd hdr (f3 0)) s0) 1 0 = some 0 := by decide +kernel
/-- A shift by 32 gives zero (R284). -/
theorem test_shl_width : vecAfter (exec (.shl hdr (f3 0)) (setV [9, 1, 32])) 0 0 = some 0 := by decide +kernel
theorem test_sar_sign : vecAfter (exec (.sar hdr (f3 0)) (setV [9, 0x80000000, 40])) 0 0 = some 0xFFFFFFFF := by decide +kernel
/-- High word of (−1) × 2 is all ones when signed and 1 when unsigned (R282). -/
theorem test_imulh_signed : vecAfter (exec (.imulh hdr (f3 0)) (setV [9, 0xFFFFFFFF, 2])) 0 0 = some 0xFFFFFFFF := by decide +kernel
theorem test_imulh_unsigned : vecAfter (exec (.imulh hdr (f3 1)) (setV [9, 0xFFFFFFFF, 2])) 0 0 = some 1 := by decide +kernel
/-- 1.5 × 2.0 = 3.0; 1.0 + 2^-24 ties to even (R228). -/
theorem test_fmul : vecAfter (exec (.fmul hdr (f3 0)) (setV [0, 0x3FC00000, 0x40000000])) 0 0 = some 0x40400000 := by decide +kernel
theorem test_fadd_tie : vecAfter (exec (.fadd hdr (f3 0)) (setV [0, 0x3F800000, 0x33800000])) 0 0 = some 0x3F800000 := by decide +kernel
/-- ∞ − ∞ is the canonical NaN (R229). -/
theorem test_fadd_nan : vecAfter (exec (.fadd hdr (f3 0)) (setV [0, 0x7F800000, 0xFF800000])) 0 0 = some 0x7FC00000 := by decide +kernel
/-- PACK joins low halves, A low (R296). -/
theorem test_pack : vecAfter (exec (.pack hdr (f3 0)) (setV [0, 0x11112222, 0x33334444])) 0 0 = some 0x44442222 := by decide +kernel
/-- A call saves the next address and an empty meeting register, and counts the depth (R307). -/
theorem test_call : (thAfter (exec (.call hdr { d := 0, off := 2, cls := 0 }) s0) 0).map (fun th => (th.v.take 4, th.depth, th.npc)) =
    some ([80, 0, 0xFFFFFFFF, 0xFFFFFFFF], 1, some 88) := by decide +kernel
/-- TRAP halts its thread with code 0x30 (R314, R400). -/
theorem test_trap_halts : (thAfter (exec (.trap hdr { ops with a := 0x12, b := 0x34 }) s0) 0).map (fun th => th.halt) =
    some (some { code := 0x30, pc := 72 }) := by decide +kernel
/-- A little-endian load of one byte with sign (R336). -/
theorem test_ld_sign : vecAfter (exec (.ld hdr { fLd with d := 0, cls := 5 }) { sLine 64 with mem := [(0x10080, 0x80)] }) 0 0 = some 0xFFFFFF80 := by decide +kernel
/-- A store with every token is performed at once: v2 = 5 at 128. -/
theorem test_st : (match exec (.st hdr fLd) (sLine 64) with | .next s => s.mem | _ => []) = [(0x10080, 5)] := by decide +kernel
/-- An atomic gives the old value and adds v6 = 3 (R347). -/
theorem test_atom : (match exec (.atom hdr { ops with c := 0 }) { sLine 64 with mem := [(0x10080, 9)] } with
    | .next s => (s.mem, vecAfter (.next s) 0 2) | _ => ([], none)) = ([(0x10080, 12)], some 9) := by decide +kernel
/-- A misaligned load halts its thread with code 0x11 (R337, R39). -/
theorem test_ld_misaligned : (thAfter (exec (.ld hdr { fLd with c := 1 }) s0) 0).map (fun th => th.halt.isSome) = some true := by decide +kernel
/-- A register block written by its owner: CTX_TG_CTL (R199). -/
theorem test_tg_ctl : (match exec (.ctxTgCtlWrite 0 0 0x80050304) { s0 with ctxs := State.reset.ctxs.set 0 ctx0 } with
    | .next s => ((s.ctx 0).tgWeight, (s.ctx 0).tgQsize, (s.ctx 0).tgHsize) | _ => (0, 0, 0)) = (5, 3, 4) := by decide +kernel
/-- A step fetches, decodes and runs CLZ of zero: 32 (R285). -/
theorem test_step_runs : (match step sNext with
    | .next s => (s.quire placedSlot).bind fun q => (q.th[0]?).bind fun th => th.v[7]? | _ => none) = some 32 := by decide +kernel
/-- Slice and set in the L2: address bit 7, bit 13 or bit 23 alone (R70). -/
theorem test_l2_place : l2Place 1 = (1, 0) ∧ l2Place 64 = (1, 1) ∧ l2Place (2 ^ 16) = (16, 1) := by decide +kernel
/-- Two lines of one set in a cache of one way (R56, R85): line 0x201 goes home with its tokens; a third line, with both
pinned, makes the region overflow. -/
def sCrowd (r : Option Region) : State :=
  { s0 with
    gaths := s0.gaths.set 0 { gath0 with banks := .cache :: List.replicate 63 (.scratch 1) }, quires := [{ q0 with region := r }]
    held := [{ heldOf s0 0 0x201 with tok := 64, own := true, valid := true }, { heldOf s0 0 0x301 with tok := 64, own := true, valid := true }] }
def rPin : Region :=
  { members := [0], reads := [0x201], writes := [0x301], buf := [], entries := [], scope := 0, start := 0, begun := 0, collecting := none, conflict := none }
theorem test_eviction : let s := evictCache (sCrowd none) 0 0x201
    ((heldOf s 0 0x201).tok, (heldOf s 0 0x301).tok, s.msgs.map fun m => m.kind) = (0, 64, [.tokens 64 true true false false]) := by decide +kernel
theorem test_lru : ((cacheCrowd (allocLine (allocLine (sCrowd none) 0 (false, 0x201)) 0 (false, 0x401)) 0 0x401).map (·.2)) = [0x201] := by decide +kernel
theorem test_pin_overflow : ((allocLine (sCrowd (some rPin)) 0 (false, 0x401)).quires.map fun q => q.region.map fun r => r.conflict) =
    [some (some (3, 0))] := by decide +kernel
/-- A corrected error is counted; a dirty word that is damaged keeps the home's earlier byte (R73, R414). -/
theorem test_soft_errors : ((softError (.corrected 3) s0).corrected.take 5 = [0, 0, 0, 1, 0]) ∧
    (softError (.writeBack 0 0x201 0xFFFF) { s0 with
      mem := [(0x10080, 5)], stale := [(0x10080, 9)]
      held := [{ heldOf s0 0 0x201 with tok := 64, own := true, valid := true, dirty := true }] }).mem = [(0x10080, 9)] := by decide +kernel

/-! The device's own events: a state for each (the first statement), beside those above. -/

theorem witness_events_requests : let m (r : Req) : Msg := msg0 1 none (.request r)
    (sMsg 64 (m .read)).msg 6 = some (m .read) ∧ bridgeReady (sMsg 64 (m .read)) 0x201 .read = true ∧
      bridgeReady (sMsg 64 (m .write)) 0x201 .write = true ∧ (homeOf (sMsg 64 (m .write)) 0x201).win = false ∧
      hostCaches (sMsg 64 (msg0 1 none (.activate .write))) 0x201 = false := by decide +kernel
theorem witness_events_tokens : let m : Msg := msg0 49 (some 49) (.tokens 1 false true false true)
    (sMsg 0 m).msg 6 = some m ∧ (sMsg 0 m).persists = [] ∧ (heldOf (sMsg 0 m) 49 0x201).req = none ∧
      (heldOf (sMsg 0 m) 49 0x201).recorded = none ∧ (heldOf (sMsg 0 m) 49 0x201).pers = none ∧ asks (msg0 1 (some 0) (.forward .read)) 0 = true ∧
      (msg0 0 none (.tokens 1 false false false false)).dst = none := by decide +kernel
theorem witness_events_host : hostCaches { s0 with hostLines := [(0x201, .s, .i)] } 0x201 = true ∧ s0.hostMem = true ∧ s0.hostCache = true ∧
    0x10080 + 4 ≤ s0.installed ∧ (∀ f ∈ s0.folios, f.win = []) := by decide +kernel
def fo1 : Folio := foC 128
def sBeg : State := (copyBegin (sC 128) 0 fo1 (tagC 128)).1
theorem witness_events_copy : runningCopy (sC 128) 0 64 = some (fo1, tagC 128) ∧ copyMoving (sC 128) 0 (tagC 128) = true ∧ copyBegin (sC 128) 0 fo1 (tagC 128) = (sBeg, none) ∧
    peerGone sBeg (copyNow sBeg fo1 (tagC 128)) = false ∧
    (movesFault 0 0 (copyNow sBeg fo1 (tagC 128)) (copyNow sBeg fo1 (tagC 128)).going.left sBeg).2 = none :=
  ⟨by decide +kernel, by decide +kernel, pair_of _ _ (by decide +kernel), by decide +kernel, by decide +kernel⟩
/-- The same copy from address 2^57. -/
def tagBad : Tag := { tagC 0 with slices := [{ qid := 0, blocks := [[0, 0x2000000, 0, 16]], nc := 0 }] }
def foBad : Folio := { fo0 with tags := [tagBad] }
def sBad : State := { sLine 64 with folios := [foBad] }
def sBad1 : State := (copyBegin sBad 0 foBad tagBad).1
theorem witness_events_copy_fault : runningCopy sBad 0 64 = some (foBad, tagBad) ∧ copyMoving sBad 0 tagBad = true ∧ copyBegin sBad 0 foBad tagBad = (sBad1, none) ∧
    peerGone sBad1 (copyNow sBad1 foBad tagBad) = false ∧
    (movesFault 0 0 (copyNow sBad1 foBad tagBad) (copyNow sBad1 foBad tagBad).going.left sBad1).2 = some (2 ^ 57, 1) :=
  ⟨by decide +kernel, by decide +kernel, pair_of _ _ (by decide +kernel), by decide +kernel, by decide +kernel⟩
theorem witness_events_pass : (passAt .start false).fail = none ∧ (passAt .raster true).imm = true ∧
    (passAt .raster true).nextTile < tileCount (passAt .raster true).desc ∧ ((sPass (passAt .raster true)).ctx 0).dead = false := by decide +kernel

end Sys2Proof.Tests
end

section
/-! Registers as numbers: a block of n registers is a number below 2^(32 n), and one register is its word (R274, R275). -/

namespace Sys2Proof.Machine

theorem wordsVal_lt (l : List Word) : wordsVal l < 2 ^ (32 * l.length) := by
  induction l with
  | nil => simp [wordsVal]
  | cons w l ih =>
    have hw := w.isLt
    rw [List.length_cons, Nat.mul_add, Nat.pow_add, wordsVal]
    omega

theorem block_lt (q : Quire) (cur : Cur) (scalar : Bool) (t r n : Nat) : block q cur scalar t r n < 2 ^ (32 * n) := by
  simpa [block] using wordsVal_lt ((List.range n).map fun i => if scalar then sReg q cur t (r + i) else vReg q cur t (r + i))

/-- A block of one register is that register's number. -/
theorem toNat_srcW (q : Quire) (cur : Cur) (scalar : Bool) (t : Nat) (r : BitVec 8) :
    (srcW q cur scalar t r).toNat = block q cur scalar t r.toNat 1 := by
  rw [BitVec.toNat_ofNat, Nat.mod_eq_of_lt (block_lt q cur scalar t r.toNat 1)]

theorem getLsbD_eq_bitOf {n : Nat} (x : BitVec n) (k : Nat) : x.getLsbD k = bitOf x.toNat k := by
  rw [bitOf, ← BitVec.testBit_toNat, Nat.testBit_eq_decide_div_mod_eq]
  by_cases h : x.toNat / 2 ^ k % 2 = 1 <;> simp [h]

end Sys2Proof.Machine
end

section
/-! The P-form word (R248, R249) and IADDC (R281): what each actor's step writes, and that the steps of the others leave it. -/

namespace Sys2Proof.Machine

/-! The halves of a pair. -/

theorem onlyVec_refl (q : Quire) : OnlyVec q q fun _ _ => none :=
  ⟨rfl, rfl, fun _ th h => ⟨th, h, rfl, fun r => by simp⟩⟩

theorem onlyVec_congr {q q' : Quire} {w w' : Nat → Nat → Option Word} (h : OnlyVec q q' w) (hw : ∀ t r, w t r = w' t r) :
    OnlyVec q q' w' := by
  rwa [← funext₂ hw]

theorem onlyVec_trans {q q1 q2 : Quire} {w1 w2 : Nat → Nat → Option Word} (h1 : OnlyVec q q1 w1) (h2 : OnlyVec q1 q2 w2) :
    OnlyVec q q2 fun t r => (w2 t r).or (w1 t r) := by
  obtain ⟨a1, a2, a3⟩ := h1
  obtain ⟨b1, b2, b3⟩ := h2
  refine ⟨by rw [b1, a1], b2.trans a2, fun t th ht => ?_⟩
  obtain ⟨th1, e1, e2, e3⟩ := a3 t th ht
  obtain ⟨th2, f1, f2, f3⟩ := b3 t th1 e1
  refine ⟨th2, f1, by rw [f2, e2], fun r => ?_⟩
  rw [f3 r, e3 r, Option.map_map]
  congr 1; funext old
  change _ = ((w2 t r).or (w1 t r)).getD old
  cases w2 t r <;> rfl

/-- The vector registers that one half of a pair writes in a thread of `ts` (R249). -/
def halfWrites (q : Quire) (cur : Cur) (x : Half) (ts : List Nat) (t n : Nat) : Option Word :=
  if t ∈ ts ∧ x.d.toNat = n ∧ halfOn q cur x t = true then some (BitVec.ofNat 32 (halfVal q cur x t)) else none

/-- One half of a pair runs for thread t (R249). -/
def runHalf (q0 : Quire) (cur : Cur) (x : Half) (q : Quire) (t : Nat) : Quire :=
  if halfOn q0 cur x t then q.putV t x.d.toNat 1 (halfVal q0 cur x t) else q

theorem runHalf_writes (q0 : Quire) (cur : Cur) (x : Half) (q : Quire) (t : Nat) :
    OnlyVec q (runHalf q0 cur x q t) (halfWrites q0 cur x [t]) := by
  unfold runHalf
  split
  case isTrue hon =>
    refine onlyVec_congr (foldl_putV x.d.toNat 1 (halfVal q0 cur x) [t] q) fun u n => ?_
    by_cases hu : u = t
    · subst hu
      have hone : (x.d.toNat ≤ n ∧ n < x.d.toNat + 1) ↔ x.d.toNat = n := by omega
      by_cases hn : x.d.toNat = n
      · simp [halfWrites, hon, hn, wordAt]
      · simp only [halfWrites, hone, hn, and_false, false_and, if_false]
    · simp [halfWrites, hu]
  case isFalse hoff =>
    refine onlyVec_congr (onlyVec_refl q) fun u n => ?_
    have : ¬ (u = t ∧ x.d.toNat = n ∧ halfOn q0 cur x u = true) := by rintro ⟨rfl, -, h⟩; exact hoff h
    simp [halfWrites, this]

/-- Both halves of a pair run for each thread of a list, on sources read from `q0`; the second half's write is the later one. -/
theorem runHalves_write (q0 : Quire) (cur : Cur) (p r : Half) (ts : List Nat) (q : Quire) :
    OnlyVec q (ts.foldl (fun q t => runHalf q0 cur r (runHalf q0 cur p q t) t) q)
      fun t n => (halfWrites q0 cur r ts t n).or (halfWrites q0 cur p ts t n) := by
  induction ts generalizing q with
  | nil => simpa [halfWrites] using onlyVec_refl q
  | cons a ts ih =>
    have hhead := onlyVec_trans (runHalf_writes q0 cur p q a) (runHalf_writes q0 cur r (runHalf q0 cur p q a) a)
    refine onlyVec_congr (onlyVec_trans hhead (ih _)) fun t n => ?_
    by_cases hta : t = a
    · subst hta; by_cases hm : t ∈ ts <;> simp [halfWrites, hm]
    · by_cases hm : t ∈ ts <;> simp [halfWrites, hm, hta]

theorem pairedHalvesReadBeforeTheyWrite : PairedHalvesReadBeforeTheyWrite := by
  intro last stall p r s cur q hrun
  refine ⟨fun q0 => cur.act.foldl (fun q t => runHalf q0 cur r (runHalf q0 cur p q t) t) q0, ?_, ?_⟩
  · change execPformWord last stall p r s = _
    simp only [execPformWord, active_of_running hrun, forThreads, runHalf]
  · refine onlyVec_congr (runHalves_write q cur p r cur.act q) fun t n => ?_
    have hwrites (x : Half) : halfWrites q cur x cur.act t n =
        if (decide (t ∈ cur.act) && decide (x.d.toNat = n) && (pReg q cur t x.guard.toNat != x.neg)) = true
        then some (BitVec.ofNat 32 (halfVal q cur x t)) else none := by
      simp [halfWrites, halfOn, and_assoc]
    rw [hwrites r, hwrites p]
    split <;> simp [halfVal, *]

/-! The sum and its carry. -/

/-- Updates of threads that commute on each thread commute on the quire. -/
theorem setTh_comm {f g : Thread → Thread} (hfg : ∀ x, f (g x) = g (f x)) (q : Quire) (t t' : Nat) :
    (q.setTh t' g).setTh t f = (q.setTh t f).setTh t' g := by
  change { q with th := _ } = { q with th := _ }
  congr 1
  refine List.ext_getElem? fun i => ?_
  simp only [List.getElem?_modify, Quire.setTh]
  cases q.th[i]? with
  | none => simp
  | some x => split <;> split <;> simp [hfg]

theorem putPred_putD_comm (q : Quire) (u : Bool) (t k : Nat) (b : Bool) (t' d n x : Nat) :
    (q.putPred u t k b).putD u t' d n x = (q.putD u t' d n x).putPred u t k b := by
  cases u with
  | true => rfl
  | false =>
    exact setTh_comm (f := fun th => { th with v := putWords th.v d (wordsOf n x) })
      (g := fun th => { th with pr := setPredBit th.pr k b }) (fun _ => rfl) q t' t

/-- When each step is two commuting updates, all the first ones can be made before all the second ones. -/
theorem foldl_two_updates {α β : Type} (f g : α → β → α) (hcomm : ∀ q a b, f (g q a) b = g (f q b) a) (l : List β) (q : α) :
    l.foldl (fun q t => g (f q t) t) q = l.foldl g (l.foldl f q) := by
  induction l generalizing q with
  | nil => rfl
  | cons a l ih =>
    rw [List.foldl_cons, ih, List.foldl_cons, List.foldl_cons, List.foldl_hom (fun q => g q a) (g₁ := f) fun q b => hcomm q a b]

theorem runVal_singleton (m : Nat) (b : Bool) (k : Nat) : runVal m [b] k = if k = m then some b else none := by
  unfold runVal
  rcases Nat.lt_trichotomy k m with h | h | h
  · rw [if_neg (by omega), if_neg (by omega)]
  · simp [h]
  · rw [if_pos (by omega), if_neg (by omega)]
    exact List.getElem?_eq_none (by simp; omega)

/-- Writing a block and then a predicate for each actor writes exactly both. -/
theorem writes_block_then_pred {cur : Cur} (q : Quire) (u : Bool) (d n m : Nat) (val : Nat → Nat) (co : Nat → Bool)
    (h : cur.act ≠ []) :
    ∃ q1, WritesBlock q q1 cur u d n val ∧
      WritesPreds q1 ((actors cur u).foldl (fun q t => (q.putD u t d n (val t)).putPred u t m (co t)) q) cur u
        fun t k => if k = m then some (co t) else none := by
  refine ⟨_, writesBlock_forThreads q u d n val h, ?_⟩
  rw [foldl_two_updates (fun q t => q.putD u t d n (val t)) (fun q t => q.putPred u t m (co t))
    fun q a b => putPred_putD_comm q u a m (co a) b d n (val b)]
  simpa [putRun, runVal_singleton] using writesPreds_forThreads _ u m (fun t => [co t]) h

/-- The result and the carry that IADDC gives thread t, from the sources of `q` (R281). -/
def carryOf (q : Quire) (cur : Cur) (f : Full) (t : Nat) : Nat × Bool :=
  addCarry (clsBit f 1) (block q cur f.sa t f.a.toNat 1) (block q cur f.sb t f.b.toNat 1)
    (if clsBit f 0 then bit (predOf q cur f.u t (f.c.toNat % 16)) else 0)

theorem carryIn_eq (ci p : Bool) : (if ci ∧ p then 1 else 0 : Int) = ((if ci then bit p else 0 : Nat) : Int) := by
  cases ci <;> cases p <;> rfl

theorem exec_iaddc {s : State} {cur : Cur} (hact : s.active = some cur) (h : Hdr) (f : Full) :
    exec (.iaddc h f) s = .next (forThreads s cur (actors cur f.u) fun q0 t q =>
      (q.putD f.u t f.d.toNat 1 (carryOf q0 cur f t).1).putPred f.u t (f.c.toNat / 16) (carryOf q0 cur f t).2) := by
  change execIaddc h f s = _
  rw [execIaddc, hact]; rfl

theorem addCarry_exact (sub : Bool) (a b ci : Nat) :
    addCarry sub a b ci =
      let x : Int := if sub then (a : Int) - b - ci else a + b + ci
      ((x % 4294967296).toNat, if sub then decide (x < 0) else decide (4294967296 ≤ x)) := by
  cases sub with
  | true => rfl
  | false =>
    simp only [addCarry, Bool.false_eq_true, if_false, Prod.mk.injEq, decide_eq_decide]
    omega

/-- A well-formed plain word meets its form's condition, and its C field is used as the form says. -/
theorem form_of_fullWf {op : Nat} {h : Hdr} {f : Full} (hwf : fullWf op h f = true) :
    (fullForm 1 op f).ok = true ∧ useOk (fullForm 1 op f).c f.c.toNat f.sc f.u true = true := by
  simp only [fullWf, Bool.and_eq_true] at hwf
  obtain ⟨⟨⟨⟨⟨⟨⟨hok, -⟩, -⟩, -⟩, -⟩, hc⟩, -⟩, -⟩ := hwf
  exact ⟨hok, hc⟩

theorem iaddc_wf_fields {h : Hdr} {f : Full} (hwf : (Instr.iaddc h f).wf = true) :
    f.sc = false ∧ (bitOf f.cls.toNat 0 = false → f.c.toNat % 16 = 0) ∧
      (f.u = true → f.c.toNat / 16 < 8 ∧ f.c.toNat % 16 < 8) := by
  change fullWf 0x00C h f = true at hwf
  obtain ⟨hok, hc⟩ := form_of_fullWf hwf
  change (decide (f.cls.toNat < 4) && (bitOf f.cls.toNat 0 || f.c.toNat % 16 == 0) &&
    (!f.u || (decide (f.c.toNat % 16 < 8) && decide (f.c.toNat / 16 < 8)))) = true at hok
  change (!f.sc || !true) = true at hc
  simp only [Bool.and_eq_true, Bool.or_eq_true, Bool.not_eq_true', decide_eq_true_eq, beq_iff_eq] at hok
  obtain ⟨⟨-, hin⟩, huni⟩ := hok
  exact ⟨by simpa using hc, fun h0 => hin.resolve_left (by simp [h0]), fun hu => (huni.resolve_left (by simp [hu])).symm⟩

theorem carriesAreExact : CarriesAreExact := by
  constructor
  · intro h f s cur q hrun ci a b x co
    have hcarry (t : Nat) : carryOf q cur f t = ((x t % 4294967296).toNat, co t) := by
      have hci : ci t = ((if clsBit f 0 then bit (predOf q cur f.u t (f.c.toNat % 16)) else 0 : Nat) : Int) := by
        simp only [ci, clsBit, getLsbD_eq_bitOf]
        exact carryIn_eq _ _
      rw [carryOf, addCarry_exact, ← hci, ← toNat_srcW, ← toNat_srcW, clsBit, ← getLsbD_eq_bitOf]
    obtain ⟨q1, hblock, hpred⟩ := writes_block_then_pred q f.u f.d.toNat 1 (f.c.toNat / 16)
      (fun t => (carryOf q cur f t).1) (fun t => (carryOf q cur f t).2) hrun.2.1
    simp only [hcarry] at hblock
    refine ⟨_, q1, exec_iaddc (active_of_running hrun) h f, hblock, ?_⟩
    simpa only [hcarry] using hpred
  · intro h f hwf
    rw [getLsbD_eq_bitOf]
    exact iaddc_wf_fields hwf

/-- Settles O9: a carry is exact by `addCarry_exact`, and a pair's halves write what `runHalves_write` says. -/
theorem carriesAreExactAndHalvesReadFirst : Obligations.CarriesAreExactAndHalvesReadFirst :=
  ⟨carriesAreExact, pairedHalvesReadBeforeTheyWrite⟩

end Sys2Proof.Machine
end

section
/-! Integer arithmetic, address sums, logic and shifts of class 0 (R280, R282 to R284): each operation on the numbers of
words is its rule's result. -/

namespace Sys2Proof.Machine

/-! Numbers as words. -/

theorem toBits_eq_ofInt (w : Nat) (x : Int) : toBits w x = (BitVec.ofInt w x).toNat := (BitVec.toNat_ofInt x).symm

theorem sInt_toNat {w : Nat} (x : BitVec w) : sInt w x.toNat = x.toInt := by
  have hx := x.isLt
  rw [sInt, Nat.mod_eq_of_lt hx, BitVec.toInt_eq_toNat_cond]
  cases w with
  | zero => simp at hx; simp [hx]
  | succ w =>
    have : x.toNat < 2 ^ (w + 1 - 1) ↔ 2 * x.toNat < 2 ^ (w + 1) := by rw [Nat.pow_succ]; simp; omega
    simp only [this]

theorem signExt_toNat {n : Nat} (w : Nat) (x : BitVec n) : signExt n w x.toNat = (x.signExtend w).toNat := by
  rw [signExt, sInt_toNat, toBits_eq_ofInt, BitVec.signExtend]

theorem readInt_toNat (uns : Bool) (x : Word) : readInt uns x.toNat = ruleInt uns x := by
  rw [readInt, ruleInt, sInt_toNat]

theorem ruleInt_inj {uns : Bool} {x y : Word} (h : ruleInt uns x = ruleInt uns y) : x = y := by
  cases uns with
  | true => exact BitVec.eq_of_toNat_eq (Int.ofNat.inj h)
  | false => exact BitVec.toInt_inj.mp h

theorem satInt_eq_clamp {lo hi : Int} (h : lo ≤ hi) (x : Int) : satInt x lo hi = max lo (min x hi) := by
  unfold satInt
  split
  · omega
  · split <;> omega

theorem intRes_eq_ruleRes (sat uns : Bool) (x : Int) : intRes sat uns x = ruleRes sat uns x := by
  rw [intRes, ruleRes, toBits_eq_ofInt, satInt_eq_clamp (by decide), satInt_eq_clamp (by decide)]
  cases sat <;> cases uns <;> rfl

/-! The integer operations of class 0 by their rules (R280, R282). -/

theorem opIadd_eq (sat uns : Bool) (a b : Word) :
    opIadd sat uns a.toNat b.toNat = ruleRes sat uns (ruleInt uns a + ruleInt uns b) := by
  rw [opIadd, intRes_eq_ruleRes, readInt_toNat, readInt_toNat]

theorem opIsub_eq (sat uns : Bool) (a b : Word) :
    opIsub sat uns a.toNat b.toNat = ruleRes sat uns (ruleInt uns a - ruleInt uns b) := by
  rw [opIsub, intRes_eq_ruleRes, readInt_toNat, readInt_toNat]

theorem opIneg_eq (sat : Bool) (a : Word) : opIneg sat a.toNat = ruleRes sat false (-a.toInt) := by
  rw [opIneg, intRes_eq_ruleRes, sInt_toNat]

theorem opIabs_eq (sat : Bool) (a : Word) : opIabs sat a.toNat = ruleRes sat false |a.toInt| := by
  rw [opIabs, intRes_eq_ruleRes, sInt_toNat, Int.natCast_natAbs]

theorem opImul_eq (sat uns : Bool) (a b : Word) :
    opImul sat uns a.toNat b.toNat = ruleRes sat uns (ruleInt uns a * ruleInt uns b) := by
  rw [opImul, intRes_eq_ruleRes, readInt_toNat, readInt_toNat]

theorem opImulh_eq (uns : Bool) (a b : Word) :
    opImulh uns a.toNat b.toNat = ((BitVec.ofInt 64 (ruleInt uns a * ruleInt uns b)).extractLsb' 32 32).toNat := by
  rw [opImulh, readInt_toNat, readInt_toNat, toBits_eq_ofInt, BitVec.extractLsb'_toNat, Nat.shiftRight_eq_div_pow,
    Nat.mod_eq_of_lt (Nat.div_lt_of_lt_mul (BitVec.isLt _))]

theorem opImad_eq (sat uns : Bool) (a b c : Word) :
    opImad sat uns a.toNat b.toNat c.toNat = ruleRes sat uns (ruleInt uns a * ruleInt uns b + ruleInt uns c) := by
  rw [opImad, intRes_eq_ruleRes, readInt_toNat, readInt_toNat, readInt_toNat]

theorem opImadw_eq (uns : Bool) (a b c : Word) :
    opImadw uns a.toNat b.toNat c.toNat = (BitVec.ofInt 64 (ruleInt uns a * ruleInt uns b + ruleInt uns c)).toNat := by
  rw [opImadw, toBits_eq_ofInt, readInt_toNat, readInt_toNat, readInt_toNat]

/-- Of two equal numbers either may be the answer: their words are the same. -/
theorem opIpick_eq (larger uns : Bool) (a b : Word) :
    opIpick larger uns a.toNat b.toNat =
      if ruleInt uns a ≤ ruleInt uns b then (bif larger then b.toNat else a.toNat) else bif larger then a.toNat else b.toNat := by
  rw [opIpick, readInt_toNat, readInt_toNat]
  rcases lt_trichotomy (ruleInt uns a) (ruleInt uns b) with h | h | h
  · cases larger <;> simp [h, h.le]
  · simp [ruleInt_inj h]
  · cases larger <;> simp [h.not_gt, h.not_ge]

theorem opIsad_eq (uns : Bool) (a b c : Word) :
    opIsad uns a.toNat b.toNat c.toNat = (BitVec.ofInt 32 (|ruleInt uns a - ruleInt uns b| + c.toNat) : Word).toNat := by
  rw [opIsad, readInt_toNat, readInt_toNat, BitVec.toNat_ofInt, ← Int.natCast_natAbs]
  norm_cast

theorem opAadd_eq (uns : Bool) (a : Nat) (b : Word) : opAadd uns a b.toNat = (BitVec.ofInt 64 (a + ruleInt uns b)).toNat := by
  rw [opAadd, toBits_eq_ofInt, readInt_toNat]

theorem opAmad_eq (uns : Bool) (a b : Word) (c : Nat) :
    opAmad uns a.toNat b.toNat c = (BitVec.ofInt 64 (ruleInt uns a * ruleInt uns b + c)).toNat := by
  rw [opAmad, toBits_eq_ofInt, readInt_toNat, readInt_toNat]

/-! Logic and shifts (R283, R284). -/

theorem complement_toNat (a : Word) : 4294967295 - a.toNat = (~~~a).toNat := by rw [BitVec.toNat_not]

theorem opShl_eq (a b : Word) : opShl a.toNat b.toNat = (a <<< (b.toNat % 256)).toNat := by
  rw [opShl, BitVec.toNat_shiftLeft, Nat.shiftLeft_eq]

theorem opShr_eq (a b : Word) : opShr a.toNat b.toNat = (a >>> (b.toNat % 256)).toNat := by
  rw [opShr, BitVec.toNat_ushiftRight, Nat.shiftRight_eq_div_pow]

/-- A shift to the right by 31 or more leaves nothing but copies of the sign. -/
theorem toInt_div_two_pow_min (a : Word) (n : Nat) : a.toInt / (2 ^ min n 31 : Nat) = a.toInt / (2 ^ n : Nat) := by
  rcases Nat.le_total n 31 with h | h
  · rw [Nat.min_eq_left h]
  · rw [Nat.min_eq_right h]
    have hlo : -(2 ^ 31 : Int) ≤ a.toInt := BitVec.le_toInt a
    have hhi : a.toInt < 2 ^ 31 := BitVec.toInt_lt
    have hpow : (2 ^ 31 : Int) ≤ ((2 ^ n : Nat) : Int) := by exact_mod_cast Nat.pow_le_pow_right (by decide) h
    rcases lt_or_ge a.toInt 0 with hneg | hpos
    · rw [Int.ediv_eq_neg_one_of_neg_of_le hneg (by omega), Int.ediv_eq_neg_one_of_neg_of_le hneg (by omega)]
    · rw [Int.ediv_eq_zero_of_lt hpos (by omega), Int.ediv_eq_zero_of_lt hpos (by omega)]

theorem opSar_eq (a b : Word) : opSar a.toNat b.toNat = (a.sshiftRight (b.toNat % 256)).toNat := by
  rw [opSar, sInt_toNat, toInt_div_two_pow_min, toBits_eq_ofInt, BitVec.sshiftRight, Int.shiftRight_eq_div_pow]

theorem two_pow_mul_add_lt {m n x y : Nat} (hx : x < 2 ^ n) (hy : y < 2 ^ m) : 2 ^ m * x + y < 2 ^ (m + n) :=
  calc 2 ^ m * x + y < 2 ^ m * x + 2 ^ m := Nat.add_lt_add_left hy _
    _ = 2 ^ m * (x + 1) := by rw [Nat.mul_add, Nat.mul_one]
    _ ≤ 2 ^ m * 2 ^ n := Nat.mul_le_mul_left _ hx
    _ = 2 ^ (m + n) := (Nat.pow_add 2 m n).symm

/-- The bits that a rotation by `n` moves up and those that it moves around do not meet. -/
theorem opRotl_eq (a b : Word) : opRotl a.toNat b.toNat = (a.rotateLeft (b.toNat % 32)).toNat := by
  have hn : b.toNat % 32 < 32 := Nat.mod_lt _ (by decide)
  rw [BitVec.toNat_rotateLeft, Nat.mod_eq_of_lt hn]
  change (a.toNat * 2 ^ (b.toNat % 32) + a.toNat / 2 ^ (32 - b.toNat % 32)) % 2 ^ 32 = _
  generalize b.toNat % 32 = n at hn
  have hsum : n + (32 - n) = 32 := by omega
  have hsplit : 2 ^ n * 2 ^ (32 - n) = 2 ^ 32 := by rw [← Nat.pow_add, hsum]
  have hlow : a.toNat / 2 ^ (32 - n) < 2 ^ n := Nat.div_lt_of_lt_mul (by rw [Nat.mul_comm, hsplit]; exact a.isLt)
  have hhigh : a.toNat <<< n % 2 ^ 32 = 2 ^ n * (a.toNat % 2 ^ (32 - n)) := by
    rw [Nat.shiftLeft_eq, Nat.mul_comm, ← hsplit, Nat.mul_mod_mul_left]
  have hlt := two_pow_mul_add_lt (Nat.mod_lt a.toNat (Nat.two_pow_pos (32 - n))) hlow
  rw [hsum] at hlt
  rw [hhigh, Nat.shiftRight_eq_div_pow, ← Nat.two_pow_add_eq_or_of_lt hlow, ← Nat.mod_eq_of_lt hlt, ← hhigh,
    Nat.shiftLeft_eq, Nat.mod_add_mod]

theorem toNat_append_words (a b : Word) : (a ++ b : DWord).toNat = a.toNat * 2 ^ 32 + b.toNat := by
  rw [BitVec.toNat_append, Nat.shiftLeft_eq, Nat.mul_comm, ← Nat.two_pow_add_eq_or_of_lt b.isLt]

theorem opShf_eq (lo : Bool) (a b c : Word) :
    opShf lo a.toNat b.toNat c.toNat =
      (if lo then ((a ++ b : DWord) >>> min (c.toNat % 256) 32).extractLsb' 0 32
        else ((a ++ b : DWord) <<< min (c.toNat % 256) 32).extractLsb' 32 32).toNat := by
  cases lo with
  | true =>
    simp only [opShf, if_true, BitVec.extractLsb'_toNat, BitVec.toNat_ushiftRight, toNat_append_words,
      Nat.shiftRight_eq_div_pow, Nat.pow_zero, Nat.div_one]
  | false =>
    simp only [opShf, Bool.false_eq_true, if_false, BitVec.extractLsb'_toNat, BitVec.toNat_shiftLeft, toNat_append_words,
      Nat.shiftRight_eq_div_pow, Nat.shiftLeft_eq]
    omega

end Sys2Proof.Machine
end

section
/-! Bits, counts, fields and permutes of class 0 (R283, R285, R286): each operation on the numbers of words is its rule's result. -/

namespace Sys2Proof.Machine

/-! Numbers by their bits. -/

theorem bit_lt (b : Bool) : bit b < 2 ^ 1 := by cases b <;> decide

theorem bitsWhere_succ (n : Nat) (f : Nat → Bool) : bitsWhere (n + 1) f = 2 ^ n * bit (f n) + bitsWhere n f := by
  simp [bitsWhere, List.range_succ, bit, Nat.add_comm]

theorem bitsWhere_lt (n : Nat) (f : Nat → Bool) : bitsWhere n f < 2 ^ n := by
  induction n with
  | zero => simp [bitsWhere]
  | succ n ih => rw [bitsWhere_succ]; exact two_pow_mul_add_lt (bit_lt (f n)) ih

theorem testBit_bitsWhere (n : Nat) (f : Nat → Bool) (i : Nat) : (bitsWhere n f).testBit i = (decide (i < n) && f i) := by
  induction n with
  | zero => simp [bitsWhere]
  | succ n ih =>
    rw [bitsWhere_succ, Nat.testBit_two_pow_mul_add _ (bitsWhere_lt n f), ih]
    rcases Nat.lt_trichotomy i n with h | h | h
    · simp [h, Nat.lt_succ_of_lt h]
    · subst h; cases hf : f i <;> simp [bit]
    · have hbit : bit (f n) < 2 ^ (i - n) := Nat.lt_of_lt_of_le (bit_lt (f n)) (Nat.pow_le_pow_right (by decide) (by omega))
      simp [Nat.testBit_lt_two_pow hbit, show ¬ i < n by omega, show ¬ i < n + 1 by omega]

theorem bitMask_filter_range (n : Nat) (f : Nat → Bool) : bitMask ((List.range n).filter f) = bitsWhere n f := by
  induction n with
  | zero => rfl
  | succ n ih =>
    rw [List.range_succ, List.filter_append, bitMask, List.foldl_append, ← bitMask, ih, bitsWhere_succ,
      Nat.two_pow_add_eq_or_of_lt (bitsWhere_lt n f), Nat.or_comm]
    cases hf : f n <;> simp [hf, bit]

/-! BOP3, BREV, BILV and BDLV (R283, R285, R286). -/

theorem opBrev_eq (w x : Nat) : opBrev w x = bitsWhere w fun k => x.testBit (w - 1 - k) := bitMask_filter_range _ _

theorem getLsbD_foldl_or (p : Nat → Bool) (g : Nat → Word) (l : List Nat) (x : Word) (i : Nat) :
    (l.foldl (fun x m => if p m then x ||| g m else x) x).getLsbD i = (x.getLsbD i || l.any fun m => p m && (g m).getLsbD i) := by
  induction l generalizing x with
  | nil => simp
  | cons m l ih => rw [List.foldl_cons, ih]; cases hp : p m <;> simp [hp, Bool.or_assoc]

theorem getLsbD_ite_not (c : Prop) [Decidable c] (a : Word) {i : Nat} (hi : i < 32) :
    (if c then a else ~~~a).getLsbD i = (a.getLsbD i == decide c) := by
  by_cases h : c <;> simp [h, hi]

/-- Bit i of BOP3 is the bit of the table that the three sources' bits name. -/
theorem getLsbD_ruleBop3 (lut : BitVec 8) (a b d : Word) {i : Nat} (hi : i < 32) :
    (ruleBop3 lut a b d).getLsbD i = lut.getLsbD (4 * bit (a.getLsbD i) + 2 * bit (b.getLsbD i) + bit (d.getLsbD i)) := by
  rw [ruleBop3, getLsbD_foldl_or]
  simp only [BitVec.getLsbD_and, getLsbD_ite_not _ _ hi]
  cases a.getLsbD i <;> cases b.getLsbD i <;> cases d.getLsbD i <;> simp [List.range, List.range.loop, bit]

theorem opBop3_eq (lut : BitVec 8) (a b d : Word) : opBop3 lut.toNat a.toNat b.toNat d.toNat = (ruleBop3 lut a b d).toNat := by
  refine Nat.eq_of_testBit_eq fun i => ?_
  rw [opBop3, bitMask_filter_range, testBit_bitsWhere]
  by_cases hi : i < 32
  · simp only [hi, decide_true, Bool.true_and, BitVec.testBit_toNat, getLsbD_ruleBop3 lut a b d hi]
  · simp [hi, BitVec.testBit_toNat, BitVec.getLsbD_of_ge _ i (Nat.le_of_not_lt hi)]

theorem opBilv_eq (w3 : Bool) (a b c : Word) :
    opBilv w3 a.toNat b.toNat c.toNat =
      if w3 then bitsWhere 30 fun k => (if k % 3 = 0 then a else if k % 3 = 1 then b else c).getLsbD (k / 3)
      else bitsWhere 32 fun k => (if k % 2 = 0 then a else b).getLsbD (k / 2) := by
  simp only [opBilv, bitMask_filter_range, ← BitVec.testBit_toNat, apply_ite BitVec.toNat]

theorem bitsWhere_false (n : Nat) : bitsWhere n (fun _ => false) = 0 := by simp [bitsWhere]

theorem opBdlv_eq (w3 : Bool) (a b : Word) :
    opBdlv w3 a.toNat b.toNat =
      if w3 then bitsWhere 10 fun j => decide (b.toNat % 256 < 3) && a.getLsbD (3 * j + b.toNat % 256)
      else bitsWhere 16 fun j => decide (b.toNat % 256 < 2) && a.getLsbD (2 * j + b.toNat % 256) := by
  simp only [opBdlv, bitMask_filter_range, BitVec.testBit_toNat]
  split <;> split <;> simp [*, bitsWhere_false]

/-! Counts (R285). -/

theorem popCount_eq (w x : Nat) : popCount w x = (List.range w).countP fun k => x.testBit k := List.countP_eq_length_filter.symm

theorem countP_range_lt (n m : Nat) : ((List.range n).countP fun k => decide (k < m)) = min n m := by
  induction n with
  | zero => simp
  | succ n ih =>
    rw [List.range_succ, List.countP_append, ih]
    by_cases h : n < m <;> simp [h] <;> omega

theorem countP_range_le (n m : Nat) : ((List.range n).countP fun k => decide (m ≤ k)) = n - m := by
  induction n with
  | zero => simp
  | succ n ih =>
    rw [List.range_succ, List.countP_append, ih]
    by_cases h : m ≤ n <;> simp [h] <;> omega

theorem opClz_eq (w x : Nat) : opClz w x = (List.range w).countP fun k => x < 2 ^ k := by
  by_cases h0 : x = 0
  · simp [opClz, h0]
  · rw [opClz, if_neg h0]
    simp only [← Nat.log2_lt h0]
    rw [show w - 1 - x.log2 = w - (x.log2 + 1) by omega, ← countP_range_le]; rfl

theorem mod_two_pow_eq_zero_iff (x n : Nat) : x % 2 ^ n = 0 ↔ ∀ i < n, x.testBit i = false := by
  constructor
  · intro h i hi
    have := Nat.testBit_mod_two_pow x n i
    simpa [h, hi] using this.symm
  · intro h
    refine Nat.eq_of_testBit_eq fun i => ?_
    by_cases hi : i < n <;> simp [hi, h]

theorem opCtz_eq (w x : Nat) : opCtz w x = (List.range w).countP fun k => x % 2 ^ (k + 1) = 0 := by
  simp only [mod_two_pow_eq_zero_iff, Nat.lt_succ_iff]
  rw [opCtz]
  cases hfind : (List.range w).find? fun i => x.testBit i with
  | none =>
    have hzero := List.find?_range_eq_none.mp hfind
    rw [Option.getD_none, List.countP_eq_length.mpr, List.length_range]
    intro k hk
    simp only [decide_eq_true_eq]
    exact fun i hi => by simpa using hzero i (by have := List.mem_range.mp hk; omega)
  | some c =>
    obtain ⟨hc, hmem, hzero⟩ := List.find?_range_eq_some.mp hfind
    have hbelow (k : Nat) : (∀ i ≤ k, x.testBit i = false) ↔ k < c := by
      constructor
      · intro h
        by_contra hk
        simp [h c (by omega)] at hc
      · exact fun hk i hi => by simpa using hzero i (by omega)
    have hcw : c < w := List.mem_range.mp hmem
    simp only [hbelow, countP_range_lt, Option.getD_some]
    omega

/-! Fields and permutes (R285). -/

theorem opBfx_eq (sgn : Bool) (a b : Word) : opBfx sgn a.toNat b.toNat = (ruleBfx sgn a b).toNat := by
  have hx (pos len : Nat) : a.toNat / 2 ^ pos % 2 ^ len = (a.extractLsb' pos len).toNat := by
    rw [BitVec.extractLsb'_toNat, Nat.shiftRight_eq_div_pow]
  unfold opBfx ruleBfx
  simp only [hx, signExt_toNat]
  split
  · rfl
  · cases sgn with
    | true => rfl
    | false =>
      have hlen : min (b.toNat / 256 % 256) (32 - b.toNat % 256) ≤ 32 := by omega
      simp [BitVec.toNat_setWidth_of_le hlen]

theorem testBit_setField (c pos len v j : Nat) (hlen : 0 < len) :
    (setField c (pos + len - 1) pos v).testBit j =
      if pos ≤ j ∧ j < pos + len then v.testBit (j - pos) else c.testBit j := by
  have hshape : setField c (pos + len - 1) pos v =
      2 ^ (pos + len) * (c / 2 ^ (pos + len)) + (2 ^ pos * (v % 2 ^ len) + c % 2 ^ pos) := by
    rw [setField, show pos + len - 1 + 1 = pos + len by omega, show pos + len - pos = len by omega, Nat.add_assoc,
      Nat.mul_comm, Nat.mul_comm (v % 2 ^ len)]
  have hclow : c % 2 ^ pos < 2 ^ pos := Nat.mod_lt _ (Nat.two_pow_pos pos)
  have hlow := two_pow_mul_add_lt (Nat.mod_lt v (Nat.two_pow_pos len)) hclow
  rw [hshape, Nat.testBit_two_pow_mul_add _ hlow, Nat.testBit_two_pow_mul_add _ hclow]
  by_cases h1 : j < pos
  · simp [h1, show j < pos + len by omega, show ¬ pos ≤ j by omega]
  · by_cases h2 : j < pos + len
    · simp [h1, h2, show pos ≤ j by omega, show j - pos < len by omega]
    · simp [h2, Nat.testBit_div_two_pow, show j - (pos + len) + (pos + len) = j by omega]

/-- The mask of a field has its bits where the field lies. -/
theorem getLsbD_fieldMask (pos len : Nat) {j : Nat} (hj : j < 32) :
    (BitVec.ofNat 32 ((2 ^ len - 1) * 2 ^ pos)).getLsbD j = decide (pos ≤ j ∧ j < pos + len) := by
  rw [BitVec.getLsbD_ofNat, Nat.testBit_mul_two_pow, Nat.testBit_two_pow_sub_one, decide_eq_true hj, Bool.true_and,
    ← Bool.decide_and, decide_eq_decide]
  omega

theorem opBfi_eq (a b c : Word) : opBfi a.toNat b.toNat c.toNat = (ruleBfi a b c).toNat := by
  simp only [opBfi, ruleBfi]
  split
  case isTrue => rfl
  case isFalse hin =>
    generalize hlen : min (b.toNat / 256 % 256) (32 - b.toNat % 256) = len
    have hpos : 0 < len := by omega
    have hend : b.toNat % 256 + len ≤ 32 := by omega
    refine Nat.eq_of_testBit_eq fun j => ?_
    rw [testBit_setField _ _ _ _ _ hpos, BitVec.testBit_toNat, BitVec.testBit_toNat, BitVec.testBit_toNat, BitVec.getLsbD_or,
      BitVec.getLsbD_and, BitVec.getLsbD_and, BitVec.getLsbD_not, BitVec.getLsbD_shiftLeft]
    by_cases hj : j < 32
    · rw [getLsbD_fieldMask _ _ hj]
      by_cases h : b.toNat % 256 ≤ j ∧ j < b.toNat % 256 + len
      · simp [h, hj, show ¬ j < b.toNat % 256 by omega]
      · simp [h, hj]
    · rw [if_neg (by omega)]; simp [hj, BitVec.getLsbD_of_ge c j (by omega)]

/-- Byte `k` of the pair of two words is a byte of one of them. -/
theorem pair_byte (a b : Word) {k : Nat} (hk : k < 8) :
    (b.toNat * 2 ^ 32 + a.toNat) / 256 ^ k % 256 = (if k < 4 then a.toNat / 256 ^ (k % 4) else b.toNat / 256 ^ (k % 4)) % 256 := by
  have ha := a.isLt
  interval_cases k <;> simp <;> omega

theorem bytesVal_append (l m : List Byte) : bytesVal (l ++ m) = bytesVal l + 256 ^ l.length * bytesVal m := by
  induction l with
  | nil => simp [bytesVal]
  | cons b l ih => rw [List.cons_append, bytesVal, ih, bytesVal, List.length_cons]; ring

theorem bytesVal_map_range (n : Nat) (f : Nat → Byte) :
    bytesVal ((List.range n).map f) = ((List.range n).map fun k => (f k).toNat * 256 ^ k).sum := by
  induction n with
  | zero => rfl
  | succ n ih => simp [List.range_succ, bytesVal_append, ih, bytesVal, Nat.mul_comm]

theorem toNat_selected_byte (sel : Nat) {v : Nat} (hv : v < 256) :
    (BitVec.ofNat 8 (if 8 ≤ sel then (if 128 ≤ v then 255 else 0) else v)).toNat =
      if sel < 8 then v else if 128 ≤ v then 255 else 0 := by
  rw [BitVec.toNat_ofNat]
  by_cases h : sel < 8
  · rw [if_neg (by omega), if_pos h, Nat.mod_eq_of_lt hv]
  · rw [if_pos (by omega), if_neg h]; split <;> rfl

theorem opBypr_eq (a b c : Word) :
    opBypr a.toNat b.toNat c.toNat = ((List.range 4).map fun k => ruleByte a b c k * 256 ^ k).sum := by
  simp only [opBypr, bytesVal_map_range]
  refine congrArg List.sum (List.map_congr_left fun k _ => congrArg (· * 256 ^ k) ?_)
  rw [pair_byte a b (Nat.mod_lt _ (by decide)), Nat.mod_mod_of_dvd _ (by decide : 4 ∣ 8), ruleByte]
  exact toNat_selected_byte _ (Nat.mod_lt _ (by decide))

end Sys2Proof.Machine
end

section
/-! The words of class 0 and their immediate twins (R280, R282 to R286): each writes its rule's result and nothing else. -/

namespace Sys2Proof.Machine

/-! Words of each shape. -/

theorem immInt_toNat (f : Imm) : immInt f = (f.imm.signExtend 32 : Word).toNat := signExt_toNat 32 f.imm

/-- A plain word writes its operation's result on the numbers that its sources hold. -/
theorem aluFull_writes {s : State} {cur : Cur} {q : Quire} (hrun : Running s cur q) (f : Full) (nd na nb nc : Nat)
    (op : Nat → Nat → Nat → Nat) {val : Nat → Nat}
    (hval : ∀ t, op (src q cur f.sa t f.a na) (src q cur f.sb t f.b nb) (src q cur f.sc t f.c nc) = val t) :
    ∃ g : Quire → Quire, aluFull f nd na nb nc (fun _ => op) s = .next (s.setQuire cur.slot g) ∧
      WritesBlock q (g q) cur f.u f.d.toNat nd val := by
  rw [← funext hval]
  exact aluWord_writes hrun f.u f.d.toNat nd _

theorem unary_writes {s : State} {cur : Cur} {q : Quire} (hrun : Running s cur q) (f : Full) (nd : Nat) {op : Nat → Nat}
    {val : Word → Nat} (hval : ∀ a : Word, op a.toNat = val a) :
    ∃ g : Quire → Quire, aluFull f nd 1 0 0 (fun _ a _ _ => op a) s = .next (s.setQuire cur.slot g) ∧
      WritesBlock q (g q) cur f.u f.d.toNat nd fun t => val (srcW q cur f.sa t f.a) :=
  aluFull_writes hrun f nd 1 0 0 (fun a _ _ => op a) fun t => by rw [← hval, toNat_srcW]

theorem binary_writes {s : State} {cur : Cur} {q : Quire} (hrun : Running s cur q) (f : Full) (nd : Nat)
    {op : Nat → Nat → Nat} {val : Word → Word → Nat} (hval : ∀ a b : Word, op a.toNat b.toNat = val a b) :
    ∃ g : Quire → Quire, aluFull f nd 1 1 0 (fun _ a b _ => op a b) s = .next (s.setQuire cur.slot g) ∧
      WritesBlock q (g q) cur f.u f.d.toNat nd fun t => val (srcW q cur f.sa t f.a) (srcW q cur f.sb t f.b) :=
  aluFull_writes hrun f nd 1 1 0 (fun a b _ => op a b) fun t => by rw [← hval, toNat_srcW, toNat_srcW]

theorem ternary_writes {s : State} {cur : Cur} {q : Quire} (hrun : Running s cur q) (f : Full) (nd : Nat)
    {op : Nat → Nat → Nat → Nat} {val : Word → Word → Word → Nat}
    (hval : ∀ a b c : Word, op a.toNat b.toNat c.toNat = val a b c) :
    ∃ g : Quire → Quire, aluFull f nd 1 1 1 (fun _ => op) s = .next (s.setQuire cur.slot g) ∧
      WritesBlock q (g q) cur f.u f.d.toNat nd fun t =>
        val (srcW q cur f.sa t f.a) (srcW q cur f.sb t f.b) (srcW q cur f.sc t f.c) :=
  aluFull_writes hrun f nd 1 1 1 op fun t => by rw [← hval, toNat_srcW, toNat_srcW, toNat_srcW]

theorem immediate_writes {s : State} {cur : Cur} {q : Quire} (hrun : Running s cur q) (f : Imm)
    {op : Nat → Nat → Nat} {val : Word → Word → Nat} (hval : ∀ a b : Word, op a.toNat b.toNat = val a b) :
    ∃ g : Quire → Quire, aluImm f (immInt f) (fun _ => op) s = .next (s.setQuire cur.slot g) ∧
      WritesBlock q (g q) cur f.u f.d.toNat 1 fun t => val (srcW q cur f.sa t f.a) (f.imm.signExtend 32) := by
  have hval' : (fun t => val (srcW q cur f.sa t f.a) (f.imm.signExtend 32)) =
      fun t => op (src q cur f.sa t f.a 1) (immInt f) := by
    funext t; rw [← hval, toNat_srcW, immInt_toNat]
  rw [hval']
  exact aluWord_writes hrun f.u f.d.toNat 1 _

/-- Settles O2: for each word, the lemma that its operation on the words read is the rule's result. -/
theorem integerWordsWriteTheirResults : Obligations.IntegerWordsWriteTheirResults := by
  intro i s cur q r hrun hr
  cases i with
  | iadd _ f => cases hr; exact (binary_writes hrun f 1 (opIadd_eq (clsBit f 1) (clsBit f 0)) :)
  | isub _ f => cases hr; exact (binary_writes hrun f 1 (opIsub_eq (clsBit f 1) (clsBit f 0)) :)
  | ineg _ f => cases hr; exact (unary_writes hrun f 1 (opIneg_eq (clsBit f 1)) :)
  | iabs _ f => cases hr; exact (unary_writes hrun f 1 (opIabs_eq (clsBit f 1)) :)
  | imul _ f => cases hr; exact (binary_writes hrun f 1 (opImul_eq (clsBit f 1) (clsBit f 0)) :)
  | imulh _ f => cases hr; exact (binary_writes hrun f 1 (opImulh_eq (clsBit f 0)) :)
  | imad _ f => cases hr; exact (ternary_writes hrun f 1 (opImad_eq (clsBit f 1) (clsBit f 0)) :)
  | imadw _ f => cases hr; exact (ternary_writes hrun f 2 (opImadw_eq (clsBit f 0)) :)
  | imin _ f => cases hr; exact (binary_writes hrun f 1 (opIpick_eq false (clsBit f 0)) :)
  | imax _ f => cases hr; exact (binary_writes hrun f 1 (opIpick_eq true (clsBit f 0)) :)
  | isad _ f => cases hr; exact (ternary_writes hrun f 1 (opIsad_eq (clsBit f 0)) :)
  | andBits _ f => cases hr; exact (binary_writes hrun f 1 fun a b => (BitVec.toNat_and a b).symm :)
  | orBits _ f => cases hr; exact (binary_writes hrun f 1 fun a b => (BitVec.toNat_or a b).symm :)
  | xorBits _ f => cases hr; exact (binary_writes hrun f 1 fun a b => (BitVec.toNat_xor a b).symm :)
  | notBits _ f => cases hr; exact (unary_writes hrun f 1 complement_toNat :)
  | bop3 _ f =>
    cases hr
    have hval (t : Nat) : opBop3 f.c.toNat (src q cur f.sa t f.a 1) (src q cur f.sb t f.b 1) (src q cur f.u t f.d 1) =
        (ruleBop3 f.c (srcW q cur f.sa t f.a) (srcW q cur f.sb t f.b) (srcW q cur f.u t f.d)).toNat := by
      rw [← opBop3_eq, toNat_srcW, toNat_srcW, toNat_srcW]
    simp only [← hval]
    exact aluWord_writes hrun f.u f.d.toNat 1 _
  | shl _ f => cases hr; exact (binary_writes hrun f 1 opShl_eq :)
  | shr _ f => cases hr; exact (binary_writes hrun f 1 opShr_eq :)
  | sar _ f => cases hr; exact (binary_writes hrun f 1 opSar_eq :)
  | rotl _ f => cases hr; exact (binary_writes hrun f 1 opRotl_eq :)
  | shf _ f => cases hr; exact (ternary_writes hrun f 1 (opShf_eq (clsBit f 0)) :)
  | popc _ f =>
    cases hr
    exact (aluFull_writes hrun f 1 (w64 f / 32) 0 0 (fun a _ _ => popCount (w64 f) a) fun t => popCount_eq (w64 f) _ :)
  | clz _ f =>
    cases hr
    exact (aluFull_writes hrun f 1 (w64 f / 32) 0 0 (fun a _ _ => opClz (w64 f) a) fun t => opClz_eq (w64 f) _ :)
  | ctz _ f =>
    cases hr
    exact (aluFull_writes hrun f 1 (w64 f / 32) 0 0 (fun a _ _ => opCtz (w64 f) a) fun t => opCtz_eq (w64 f) _ :)
  | brev _ f =>
    cases hr
    exact (aluFull_writes hrun f (w64 f / 32) (w64 f / 32) 0 0 (fun a _ _ => opBrev (w64 f) a) fun t => opBrev_eq (w64 f) _ :)
  | bfx _ f => cases hr; exact (binary_writes hrun f 1 (opBfx_eq (clsBit f 0)) :)
  | bfi _ f => cases hr; exact (ternary_writes hrun f 1 opBfi_eq :)
  | bypr _ f => cases hr; exact (ternary_writes hrun f 1 opBypr_eq :)
  | bilv _ f =>
    cases hr
    refine aluFull_writes hrun f 1 1 1 (if clsBit f 0 then 1 else 0) (opBilv (clsBit f 0)) fun t => ?_
    cases hw : clsBit f 0 with
    | true => simp only [if_true, ← toNat_srcW, opBilv_eq]
    | false =>
      -- two components: no register of C is read, so any word may stand for it
      simp only [Bool.false_eq_true, if_false, ← toNat_srcW q cur f.sa, ← toNat_srcW q cur f.sb]
      exact opBilv_eq false _ _ 0
  | bdlv _ f => cases hr; exact (binary_writes hrun f 1 (opBdlv_eq (clsBit f 0)) :)
  | aadd _ f =>
    cases hr
    have hval (t : Nat) : opAadd (clsBit f 0) (src q cur f.sa t f.a 2) (src q cur f.sb t f.b 1) =
        (BitVec.ofInt 64 (src q cur f.sa t f.a 2 + ruleInt (clsBit f 0) (srcW q cur f.sb t f.b))).toNat := by
      rw [← opAadd_eq, toNat_srcW]
    exact (aluFull_writes hrun f 2 2 1 0 (fun a b _ => opAadd (clsBit f 0) a b) hval :)
  | amad _ f =>
    cases hr
    have hval (t : Nat) : opAmad (clsBit f 0) (src q cur f.sa t f.a 1) (src q cur f.sb t f.b 1) (src q cur f.sc t f.c 2) =
        (BitVec.ofInt 64 (ruleInt (clsBit f 0) (srcW q cur f.sa t f.a) * ruleInt (clsBit f 0) (srcW q cur f.sb t f.b)
          + src q cur f.sc t f.c 2)).toNat := by
      rw [← opAmad_eq, toNat_srcW, toNat_srcW]
    exact (aluFull_writes hrun f 2 1 1 2 (opAmad (clsBit f 0)) hval :)
  | iaddI _ f => cases hr; exact (immediate_writes hrun f (opIadd_eq (clbBit f 1) (clbBit f 0)) :)
  | imulI _ f => cases hr; exact (immediate_writes hrun f (opImul_eq (clbBit f 1) (clbBit f 0)) :)
  | andI _ f => cases hr; exact (immediate_writes hrun f fun a b => (BitVec.toNat_and a b).symm :)
  | orI _ f => cases hr; exact (immediate_writes hrun f fun a b => (BitVec.toNat_or a b).symm :)
  | xorI _ f => cases hr; exact (immediate_writes hrun f fun a b => (BitVec.toNat_xor a b).symm :)
  | _ => cases hr

end Sys2Proof.Machine
end

section
/-! The cross-thread words (R315 to R320) and TSTAT (R326): each writes its rule's result in the vector registers of the active
threads and nothing else. -/

namespace Sys2Proof.Machine

/-! Words that write a vector register of each active thread. -/

/-- A cross-thread word's destination is never under U, so it is written as a computed block is. -/
theorem crossWord_eq_aluWord : crossWord = aluWord false := rfl

/-- A cross-thread word writes its values, read from the quire as it was, and changes nothing else. -/
theorem crossWord_writes {s : State} {cur : Cur} {q : Quire} (hrun : Running s cur q) (d n : Nat)
    (f : Quire → Cur → Nat → Nat) :
    ∃ g : Quire → Quire, crossWord d n f s = .next (s.setQuire cur.slot g) ∧ WritesBlock q (g q) cur false d n (f q cur) := by
  rw [crossWord_eq_aluWord]
  exact aluWord_writes hrun false d n f

/-! The modifiers and fields of the words, as the rules name their bits. -/

theorem clsBit_eq_getLsbD (f : Full) (k : Nat) : clsBit f k = f.cls.getLsbD k := (getLsbD_eq_bitOf f.cls k).symm

theorem odd_iff_getLsbD_zero {n : Nat} (x : BitVec n) : x.toNat % 2 = 1 ↔ x.getLsbD 0 = true := by
  rw [← BitVec.testBit_toNat, Nat.testBit_zero, decide_eq_true_iff]

theorem bit_eq_toNat (b : Bool) : bit b = b.toNat := by cases b <;> rfl

theorem zero_of_useOk_zero {n : Nat} {x : BitVec n} {flag u src : Bool} (h : useOk .zero x.toNat flag u src = true) : x = 0 := by
  simp only [useOk, Bool.and_eq_true, beq_iff_eq] at h
  exact BitVec.eq_of_toNat_eq h.1

/-- A well-formed plain word uses its B field as its form says. -/
theorem useOk_b_of_fullWf {op : Nat} {h : Hdr} {f : Full} (hwf : fullWf op h f = true) :
    useOk (fullForm 1 op f).b f.b.toNat f.sb f.u true = true := by
  simp only [fullWf, Bool.and_eq_true] at hwf
  obtain ⟨⟨⟨⟨-, hb⟩, -⟩, -⟩, -⟩ := hwf
  exact hb

/-- MATCH has neither a B nor a C (R320): its form gives both fields no use. -/
theorem matchBits_wf_fields {h : Hdr} {f : Full} (hwf : (Instr.matchBits h f).wf = true) : f.b = 0 ∧ f.c = 0 := by
  change fullWf 0x0D7 h f = true at hwf
  have hb : useOk .zero f.b.toNat f.sb f.u true = true := useOk_b_of_fullWf hwf
  have hc : useOk .zero f.c.toNat f.sc f.u true = true := (form_of_fullWf hwf).2
  exact ⟨zero_of_useOk_zero hb, zero_of_useOk_zero hc⟩

/-- Each cross-thread word, and TSTAT, writes what its rule gives each active thread: the word's value is the rule's once the
bits of its modifiers and its immediate are named alike. -/
theorem crossRule_writes (i : Instr) (s : State) (cur : Cur) (q : Quire) (r : Result) (hrun : Running s cur q)
    (hr : crossRule i q cur = some r) :
    ∃ g : Quire → Quire, exec i s = .next (s.setQuire cur.slot g) ∧ WritesBlock q (g q) cur r.u r.d r.n r.val := by
  cases i with
  | shfl _ f => cases hr; exact (crossWord_writes hrun f.d.toNat 1 _ :)
  | shflI _ f =>
    cases hr
    simp only [← immInt_toNat]
    exact (crossWord_writes hrun f.d.toNat 1 _ :)
  | qred _ f =>
    cases hr
    simp only [← clsBit_eq_getLsbD]
    exact (crossWord_writes hrun f.d.toNat 1 _ :)
  | qredF _ f => cases hr; exact (crossWord_writes hrun f.d.toNat 1 _ :)
  | qscan _ f =>
    cases hr
    simp only [← clsBit_eq_getLsbD, ← odd_iff_getLsbD_zero]
    exact (crossWord_writes hrun f.d.toNat 1 _ :)
  | qscanF _ f =>
    cases hr
    simp only [← odd_iff_getLsbD_zero]
    exact (crossWord_writes hrun f.d.toNat 1 _ :)
  | matchBits _ f =>
    cases hr
    simp only [← clsBit_eq_getLsbD]
    exact (crossWord_writes hrun f.d.toNat 2 _ :)
  | tstat _ f =>
    cases hr
    simp only [← bit_eq_toNat]
    exact (aluWord_writes hrun false f.d.toNat 1 _ :)
  | _ => cases hr

/-- Settles O6: the words write by `crossRule_writes`, and the fields of MATCH are those of `matchBits_wf_fields`. A
floating tree of one leaf gives that leaf flushed, with its own NaN bits, in the model and in the rule alike (logs 12, 103). -/
theorem crossThreadWordsWriteTheirResults : Obligations.CrossThreadWordsWriteTheirResults :=
  ⟨crossRule_writes, fun _ _ => matchBits_wf_fields⟩

end Sys2Proof.Machine
end
